-- ==== Sys2Proof/Word.lean ====
section
/-! DEFINITION. The word types of the Moaqua: what the spec treats as bits, at the widths it gives them. -/

namespace Sys2Proof

/-- A 64-bit register or address (R46). -/
abbrev Word := BitVec 64
/-- A byte of memory (R1). -/
abbrev Byte := BitVec 8
/-- A vector register value (R46, R127). -/
abbrev VWord := BitVec 2048
/-- A predicate, one bit per 16-bit sub-lane (R46, R128). -/
abbrev Pred := BitVec 128
/-- A bobbin descriptor, a format entry or an import entry (R153, R91, R403). -/
abbrev QWord := BitVec 128
/-- A 64-byte scale-queue entry or bundle (R37, R96). -/
abbrev Line := BitVec 512
/-- An accumulator tile of 32 by 32 FP32 elements, element (i, j) at bits [32(32i+j)+31 : 32(32i+j)] (R46). -/
abbrev Tile := BitVec 32768
/-- A generation value (R254). -/
abbrev Gen := BitVec 10

end Sys2Proof
end

