-- ==== Sys2Proof/Config.lean ====
section
/-! DEFINITION. What one part fixes and the free values: constants without a body stand for what the spec leaves open. -/

namespace Sys2Proof.Config

/-- A free choice, one for each count of `State.free` (log entry 9). UNVERIFIED: nothing constrains it. -/
opaque freeBit : Nat → Bool
/-- A free 64-bit value, one for each count of `State.free` (log entry 9). UNVERIFIED. -/
opaque freeWord : Nat → BitVec 64

/-- Byte `i` of the AES-256-GCM key stream of a key and a nonce (R215, R290, R322; log entry 10). DESIGN CHOICE. -/
opaque gcmKeystream : (key : Nat) → (nonce : Nat) → (i : Nat) → Byte
/-- The 128-bit AES-256-GCM tag of a key, a nonce, additional data and ciphertext (R215; log entry 10). -/
opaque gcmTag : (key : Nat) → (nonce : Nat) → (aad : List Byte) → (data : List Byte) → BitVec 128
/-- Whether a signature verifies the bytes under a public key (R317, R322, R466; log entry 10). -/
opaque sigVerify : (key : Nat) → (sig : List Byte) → (data : List Byte) → Bool
/-- The key unwrapped from a wrapped key under a device key (R322; log entry 10). -/
opaque unwrapKey : (key : Nat) → (wrapped : List Byte) → Nat
/-- A key drawn by the random source, one for each count of `State.free` (R327; log entry 10). -/
opaque drawKey : Nat → Nat
/-- A SHA-384 digest of the bytes, as a number (R317, R322; log entry 10). -/
opaque digest : List Byte → Nat

/-- Whether a host address translates for the function that uses it (R303, R307; log entry 28). UNVERIFIED. -/
opaque hostMaps : (addr : Nat) → Bool

/-- Where the host maps an address of a control block into the memory of a die: the die and the offset there (R301; log entry 28).
UNVERIFIED. -/
opaque dieAlias : (addr : Nat) → Option (Nat × Nat)

/-- The L2 slice of a die that owns a line of its DRAM, by the line's number (R271; log entry 20). DESIGN CHOICE: no map is given. -/
opaque sliceOf : (line : Nat) → Nat

/-- The package's unique identifier, fused at manufacture (R466; log entry 5). DESIGN CHOICE: no value is given. -/
opaque pkguid : BitVec 64
/-- The manufacturing key pair held in the Whorl ROM (R468; log entry 10). DESIGN CHOICE: no value is given. -/
opaque romKey : Nat

end Sys2Proof.Config
end

