-- ==== Sys2Proof/Syntax.lean ====
section
/-! DEFINITION. The steps of the Moaqua as syntax: one constructor for each row of the opcode table. A slot operation carries
the fields of its encoding layout as they stand in the slot; an event carries the identities it names and what it brings
from outside. -/

namespace Sys2Proof

/-- Which vector slot holds an operation (R11, R127). -/
inductive VSide where
  | va
  | vb
  deriving DecidableEq, Repr

/-- Layout A (R103): `s.add` to `s.maxz`. -/
structure LayA where
  grd : BitVec 3
  d : BitVec 6
  a : BitVec 6
  i : BitVec 1
  b : BitVec 40
  deriving DecidableEq, Repr

/-- Layout C (R103): `s.cmp`. -/
structure LayC where
  grd : BitVec 3
  cond : BitVec 4
  qd : BitVec 3
  a : BitVec 6
  i : BitVec 1
  b : BitVec 39
  deriving DecidableEq, Repr

/-- Layout S (R103): `s.sel`. -/
structure LayS where
  grd : BitVec 3
  d : BitVec 6
  a : BitVec 6
  sb : BitVec 6
  qc : BitVec 3
  deriving DecidableEq, Repr

/-- Layout K (R103): `s.li`. -/
structure LayK where
  grd : BitVec 3
  d : BitVec 6
  imm : BitVec 47
  deriving DecidableEq, Repr

/-- Layout H (R103): `s.lih`. -/
structure LayH where
  grd : BitVec 3
  d : BitVec 6
  imm : BitVec 32
  deriving DecidableEq, Repr

/-- Layout F (R103): `s.ext`, `s.ins`. -/
structure LayF where
  grd : BitVec 3
  d : BitVec 6
  a : BitVec 6
  lsb : BitVec 6
  width : BitVec 7
  deriving DecidableEq, Repr

/-- Layout B (R103): `s.br`, `s.call`. -/
structure LayB where
  grd : BitVec 3
  off : BitVec 32
  deriving DecidableEq, Repr

/-- Layout J (R103): `s.brc`. -/
structure LayJ where
  grd : BitVec 3
  cond : BitVec 4
  a : BitVec 6
  sb : BitVec 6
  off : BitVec 32
  deriving DecidableEq, Repr

/-- Layout I (R103): `s.jr`. -/
structure LayI where
  grd : BitVec 3
  a : BitVec 6
  deriving DecidableEq, Repr

/-- Layout Z (R103): `s.ret`. -/
structure LayZ where
  grd : BitVec 3
  deriving DecidableEq, Repr

/-- Layout P (R103): `s.loop`; with i = 0 the top six bits of `cnt` are sc. -/
structure LayP where
  grd : BitVec 3
  lvl : BitVec 3
  i : BitVec 1
  cnt : BitVec 21
  len : BitVec 28
  deriving DecidableEq, Repr

/-- Layout Q (R103): `s.lbrk`. -/
structure LayQ where
  grd : BitVec 3
  lvl : BitVec 3
  deriving DecidableEq, Repr

/-- Layout T (R103): `s.rdsr` (r is d), `s.wrsr` (r is a). -/
structure LayT where
  grd : BitVec 3
  r : BitVec 6
  sr : BitVec 10
  deriving DecidableEq, Repr

/-- Layout V (R103): `s.fromv`. -/
structure LayV where
  grd : BitVec 3
  d : BitVec 6
  vsel : BitVec 5
  word : BitVec 5
  deriving DecidableEq, Repr

/-- Layout M (R103): `s.froma`. -/
structure LayM where
  grd : BitVec 3
  d : BitVec 6
  an : BitVec 4
  deriving DecidableEq, Repr

/-- The layout of every vector operation (R130). -/
structure VFields where
  grd : BitVec 3
  d : BitVec 7
  a : BitVec 7
  b : BitVec 7
  c : BitVec 7
  ty : BitVec 4
  rm : BitVec 2
  sat : BitVec 1
  i : BitVec 1
  fn : BitVec 4
  k : BitVec 9
  deriving DecidableEq, Repr

/-- `m.mma`, `m.mms` (R157). -/
structure LayMma where
  grd : BitVec 3
  td : BitVec 3
  ba : BitVec 4
  bw : BitVec 4
  v : BitVec 1
  vr : BitVec 6
  sel : BitVec 2
  deriving DecidableEq, Repr

/-- `m.zero`, `m.wait` (R157): one tile. -/
structure LayMT where
  grd : BitVec 3
  t : BitVec 3
  deriving DecidableEq, Repr

/-- `m.acc` (R157). -/
structure LayMAcc where
  grd : BitVec 3
  td : BitVec 3
  ts : BitVec 3
  deriving DecidableEq, Repr

/-- `m.rd` (R157). -/
structure LayMRd where
  grd : BitVec 3
  d : BitVec 7
  ts : BitVec 3
  k : BitVec 4
  deriving DecidableEq, Repr

/-- `m.wr` (R157). -/
structure LayMWr where
  grd : BitVec 3
  td : BitVec 3
  vs : BitVec 7
  k : BitVec 4
  deriving DecidableEq, Repr

/-- `m.st`, `m.save`, `m.rest` (R157): a tile and an offset in units of 256 bytes. -/
structure LayMOff where
  grd : BitVec 3
  t : BitVec 3
  off : BitVec 13
  deriving DecidableEq, Repr

/-- `m.fmt` (R157). -/
structure LayMFmt where
  grd : BitVec 3
  fb : BitVec 4
  n : BitVec 5
  lvl : BitVec 3
  deriving DecidableEq, Repr

/-- `l.s`, `l.v`, `l.vp`, `l.b`, `l.fe` (R184). -/
structure LayL where
  grd : BitVec 3
  d : BitVec 6
  an : BitVec 4
  sz : BitVec 3
  fq : BitVec 2
  off : BitVec 24
  deriving DecidableEq, Repr

/-- `l.g` (R184). -/
structure LayLG where
  grd : BitVec 3
  d : BitVec 6
  ab : BitVec 4
  ai : BitVec 4
  off : BitVec 24
  deriving DecidableEq, Repr

/-- `l.scl`, `l.mpc` (R184). -/
structure LayLAn where
  grd : BitVec 3
  an : BitVec 4
  off : BitVec 24
  deriving DecidableEq, Repr

/-- `l.rcv` (R184). -/
structure LayLRcv where
  grd : BitVec 3
  d : BitVec 6
  ch : BitVec 4
  deriving DecidableEq, Repr

/-- `l.aadd` (R184). -/
structure LayLAadd where
  grd : BitVec 3
  ad : BitVec 4
  an : BitVec 4
  i : BitVec 1
  b : BitVec 44
  deriving DecidableEq, Repr

/-- `l.ali` (R184). -/
structure LayLAli where
  grd : BitVec 3
  ad : BitVec 4
  imm : BitVec 48
  deriving DecidableEq, Repr

/-- `l.amov` (R184). -/
structure LayLAmov where
  grd : BitVec 3
  ad : BitVec 4
  sa : BitVec 6
  deriving DecidableEq, Repr

/-- `w.s`, `w.v`, `w.vp`, `w.fe` (R191). -/
structure LayW where
  grd : BitVec 3
  src : BitVec 7
  an : BitVec 4
  sz : BitVec 3
  k : BitVec 7
  off : BitVec 24
  deriving DecidableEq, Repr

/-- `w.sc` (R191). -/
structure LayWSc where
  grd : BitVec 3
  vs : BitVec 7
  an : BitVec 4
  vi : BitVec 7
  off : BitVec 24
  deriving DecidableEq, Repr

/-- `w.atom` (R191). -/
structure LayWAtom where
  grd : BitVec 3
  sd : BitVec 6
  sv : BitVec 6
  an : BitVec 4
  aop : BitVec 4
  ty : BitVec 2
  off : BitVec 24
  deriving DecidableEq, Repr

/-- `w.cas` (R191). -/
structure LayWCas where
  grd : BitVec 3
  sd : BitVec 6
  sc : BitVec 6
  sn : BitVec 6
  an : BitVec 4
  ty : BitVec 2
  off : BitVec 24
  deriving DecidableEq, Repr

/-- `w.red` (R191). -/
structure LayWRed where
  grd : BitVec 3
  src : BitVec 7
  vec : BitVec 1
  an : BitVec 4
  aop : BitVec 4
  ty : BitVec 2
  off : BitVec 24
  deriving DecidableEq, Repr

/-- `w.snd` (R191). -/
structure LayWSnd where
  grd : BitVec 3
  vs : BitVec 7
  ch : BitVec 4
  deriving DecidableEq, Repr

/-- `c.shp` (R204). -/
structure LayCShp where
  grd : BitVec 3
  hd : BitVec 4
  sa : BitVec 6
  deriving DecidableEq, Repr

/-- `c.go` (R204). -/
structure LayCGo where
  grd : BitVec 3
  dk : BitVec 1
  dst : BitVec 4
  src : BitVec 4
  hs : BitVec 4
  tl : BitVec 12
  deriving DecidableEq, Repr

/-- `c.ring` (R204). -/
structure LayCRing where
  grd : BitVec 3
  b : BitVec 4
  base : BitVec 13
  size : BitVec 14
  deriving DecidableEq, Repr

/-- `c.icinv` (R204). -/
structure LayCIc where
  grd : BitVec 3
  an : BitVec 4
  sl : BitVec 6
  scope : BitVec 4
  tl : BitVec 12
  deriving DecidableEq, Repr

/-- `c.l2wb`, `c.l2inv` (R204). -/
structure LayCL2 where
  grd : BitVec 3
  an : BitVec 4
  sl : BitVec 6
  tl : BitVec 12
  deriving DecidableEq, Repr

/-- `c.gq` (R204). -/
structure LayCGq where
  grd : BitVec 3
  an : BitVec 4
  gq : BitVec 4
  tl : BitVec 12
  deriving DecidableEq, Repr

/-- `c.seal` (R204). -/
structure LayCSeal where
  grd : BitVec 3
  tpl : BitVec 5
  mode : BitVec 2
  deriving DecidableEq, Repr

/-- `y.tlwait`, `y.tladv` (R222). -/
structure LayYTl where
  grd : BitVec 3
  tl : BitVec 12
  sa : BitVec 6
  deriving DecidableEq, Repr

/-- `y.tlread` (R222). -/
structure LayYTlr where
  grd : BitVec 3
  sd : BitVec 6
  tl : BitVec 12
  deriving DecidableEq, Repr

/-- `y.phreg` (R222). -/
structure LayYPhr where
  grd : BitVec 3
  ph : BitVec 10
  mode : BitVec 2
  deriving DecidableEq, Repr

/-- `y.phdrop`, `y.phsig`, `y.phwait` (R222). -/
structure LayYPh where
  grd : BitVec 3
  ph : BitVec 10
  deriving DecidableEq, Repr

/-- `y.fence`, `y.drain` (R222). -/
structure LayYScope where
  grd : BitVec 3
  scope : BitVec 4
  deriving DecidableEq, Repr

/-- `y.clm` (R222). -/
structure LayYClm where
  grd : BitVec 3
  sk : BitVec 6
  sv : BitVec 6
  sh : BitVec 6
  deriving DecidableEq, Repr

/-- `y.obj`, `y.clwait` (R222). -/
structure LayYObj where
  grd : BitVec 3
  sk : BitVec 6
  sh : BitVec 6
  deriving DecidableEq, Repr

/-- `y.clread` (R222). -/
structure LayYClr where
  grd : BitVec 3
  sd : BitVec 6
  sk : BitVec 6
  sh : BitVec 6
  deriving DecidableEq, Repr

/-- `y.spawn` (R222). -/
structure LayYSpawn where
  grd : BitVec 3
  sib : BitVec 2
  se : BitVec 6
  sm : BitVec 6
  ab : BitVec 5
  deriving DecidableEq, Repr

/-- `y.join` (R222). -/
structure LayYJoin where
  grd : BitVec 3
  sib : BitVec 2
  deriving DecidableEq, Repr

/-- `y.retire`, `y.tret`, `y.geninc` (R222). -/
structure LayYNone where
  grd : BitVec 3
  deriving DecidableEq, Repr

/-- `y.trap`, `y.dbg` (R222): a 16-bit immediate or code. -/
structure LayYImm where
  grd : BitVec 3
  imm : BitVec 16
  deriving DecidableEq, Repr

/-- `y.evt` (R222). -/
structure LayYEvt where
  grd : BitVec 3
  sa : BitVec 6
  code : BitVec 16
  deriving DecidableEq, Repr

/-- A register page: the physical function's BAR 0, a virtual function's BAR 0, a die's control page, a context's control
page (R255, R305). -/
inductive RegPage where
  | pf
  | vf (v : Nat)
  | die (d : Nat)
  | ctx (x : Nat)
  deriving DecidableEq, Repr


/-- What the hypervisor chooses for a LOAD (R255, R327, R397): the context's index in its partition and its ASID, the location of
its control page, the PTROOT words by die, the page-table words to write (die, physical address, word), and the virtual
addresses of the code, the data, the template table, the save area and the spill area (log entry 16). -/
structure LoadPlan where
  index : Nat
  asid : Nat
  page : Nat
  roots : List (Nat × Word)
  tables : List (Nat × Nat × Word)
  code : Word
  data : Word
  templates : Word
  save : Word
  spill : Word
  deriving DecidableEq, Repr

/-- What a debug-port write names (R61, R297): a register of a class, a special register by its code, or matrix state. -/
inductive DebugReg where
  | s (i : Nat) | q (i : Nat) | ls (i : Nat)
  | v (i : Nat) | p (i : Nat) | oa (i : Nat) | ob (i : Nat) | la (i : Nat) | lb (i : Nat)
  | a (i : Nat) | h (i : Nat) | b (i : Nat)
  | t (i : Nat) | f (i : Nat)
  | sr (n : Nat)
  | fbind
  | scq (i : Nat)
  | half
  | accown
  deriving DecidableEq, Repr

/-- One step of the part: a slot operation of a bundle, or an event (spec/opcode_table.json). -/
inductive Instr where
  /-- Adds two 64-bit values with wrap-around. (R104) -/
  | sAdd (x : LayA)
  /-- Subtracts two 64-bit values with wrap-around. (R104) -/
  | sSub (x : LayA)
  /-- Multiplies two 64-bit values keeping the low 64 bits. (R104) -/
  | sMul (x : LayA)
  /-- Returns the high 64 bits of the signed 128-bit product. (R104) -/
  | sMulh (x : LayA)
  /-- Returns the high 64 bits of the unsigned 128-bit product. (R104) -/
  | sMulhz (x : LayA)
  /-- Signed division truncating toward zero, defined for every operand pair. (R105) -/
  | sDiv (x : LayA)
  /-- Unsigned division, defined for every operand pair. (R105) -/
  | sDivz (x : LayA)
  /-- Signed remainder with the sign of the dividend. (R105) -/
  | sRem (x : LayA)
  /-- Bitwise and. (R104) -/
  | sAnd (x : LayA)
  /-- Bitwise or. (R104) -/
  | sOr (x : LayA)
  /-- Bitwise exclusive or. (R104) -/
  | sXor (x : LayA)
  /-- Bitwise and with the complement of the second operand. (R104) -/
  | sAndn (x : LayA)
  /-- Logical shift left. (R104) -/
  | sShl (x : LayA)
  /-- Logical shift right. (R104) -/
  | sShr (x : LayA)
  /-- Arithmetic shift right. (R104) -/
  | sSra (x : LayA)
  /-- Rotate left by the amount modulo 64. (R104) -/
  | sRot (x : LayA)
  /-- Counts leading zeros. (R104) -/
  | sClz (x : LayA)
  /-- Counts trailing zeros. (R104) -/
  | sCtz (x : LayA)
  /-- Counts one bits. (R104) -/
  | sPopc (x : LayA)
  /-- Signed minimum. (R104) -/
  | sMin (x : LayA)
  /-- Signed maximum. (R104) -/
  | sMax (x : LayA)
  /-- Unsigned minimum. (R104) -/
  | sMinz (x : LayA)
  /-- Unsigned maximum. (R104) -/
  | sMaxz (x : LayA)
  /-- Compares two values under a condition and writes a guard. (R107) -/
  | sCmp (x : LayC)
  /-- Selects one of two registers by a guard. (R108) -/
  | sSel (x : LayS)
  /-- Loads a sign-extended 47-bit immediate. (R109) -/
  | sLi (x : LayK)
  /-- Replaces the upper 32 bits of a register with an immediate. (R109) -/
  | sLih (x : LayH)
  /-- Extracts a zero-extended bit field. (R110) -/
  | sExt (x : LayF)
  /-- Inserts a bit field into a register. (R110) -/
  | sIns (x : LayF)
  /-- Branches unconditionally to a PC-relative target. (R111) -/
  | sBr (x : LayB)
  /-- Branches when a register comparison holds on the lead core. (R111) -/
  | sBrc (x : LayJ)
  /-- Branches and writes the return address to s31. (R111) -/
  | sCall (x : LayB)
  /-- Transfers to the address in s31. (R111) -/
  | sRet (x : LayZ)
  /-- Transfers to the address in a register. (R111) -/
  | sJr (x : LayI)
  /-- Pushes a hardware loop level or skips its body when it has no trips. (R115) -/
  | sLoop (x : LayP)
  /-- Ends a loop level early, popping it and deeper levels. (R118) -/
  | sLbrk (x : LayQ)
  /-- Reads a special register into a scalar register. (R119) -/
  | sRdsr (x : LayT)
  /-- Writes a special register from a scalar register, effective from the next bundle. (R121) -/
  | sWrsr (x : LayT)
  /-- Copies a 64-bit word of an operand-file or last-result register into a scalar register. (R122) -/
  | sFromv (x : LayV)
  /-- Copies an address register into a scalar register. (R123) -/
  | sFroma (x : LayM)
  /-- Floating-point add, correctly rounded, per element. (R135) -/
  | vadd (side : VSide) (x : VFields)
  /-- Floating-point subtract per element. (R135) -/
  | vsub (side : VSide) (x : VFields)
  /-- Floating-point multiply per element. (R135) -/
  | vmul (side : VSide) (x : VFields)
  /-- Fused multiply-add per element. (R135) -/
  | vfma (side : VSide) (x : VFields)
  /-- Fused multiply-subtract per element. (R135) -/
  | vfms (side : VSide) (x : VFields)
  /-- Negated fused multiply-add per element. (R135) -/
  | vfnma (side : VSide) (x : VFields)
  /-- Floating-point minimum per element. (R137) -/
  | vmin (side : VSide) (x : VFields)
  /-- Floating-point maximum per element. (R137) -/
  | vmax (side : VSide) (x : VFields)
  /-- Clears the sign of each element. (R138) -/
  | vabs (side : VSide) (x : VFields)
  /-- Inverts the sign of each element. (R138) -/
  | vneg (side : VSide) (x : VFields)
  /-- Floating-point compare writing a predicate. (R139) -/
  | vcmp (side : VSide) (x : VFields)
  /-- Classifies each element's encoding into a one-hot integer. (R140) -/
  | vclass (side : VSide) (x : VFields)
  /-- Correctly rounded reciprocal per element. (R135) -/
  | vrcp (side : VSide) (x : VFields)
  /-- Correctly rounded reciprocal square root per element. (R135) -/
  | vrsqrt (side : VSide) (x : VFields)
  /-- Correctly rounded square root per element. (R135) -/
  | vsqrt (side : VSide) (x : VFields)
  /-- Correctly rounded division per element. (R135) -/
  | vdiv (side : VSide) (x : VFields)
  /-- Correctly rounded base-2 exponential per element. (R135) -/
  | vexp2 (side : VSide) (x : VFields)
  /-- Correctly rounded base-2 logarithm per element. (R135) -/
  | vlog2 (side : VSide) (x : VFields)
  /-- Rounds each element to an integer value. (R141) -/
  | vrnd (side : VSide) (x : VFields)
  /-- Scales each element by a power of two. (R142) -/
  | vscale (side : VSide) (x : VFields)
  /-- Converts elements between formats, one part at a time. (R143) -/
  | vcvt (side : VSide) (x : VFields)
  /-- Sums selected elements by a fixed tree. (R144) -/
  | vredsum (side : VSide) (x : VFields)
  /-- Maximum over selected elements. (R144) -/
  | vredmax (side : VSide) (x : VFields)
  /-- Minimum over selected elements. (R144) -/
  | vredmin (side : VSide) (x : VFields)
  /-- Integer add, wrapping or saturating. (R145) -/
  | viadd (side : VSide) (x : VFields)
  /-- Integer subtract, wrapping or saturating. (R145) -/
  | visub (side : VSide) (x : VFields)
  /-- Integer multiply, wrapping or saturating. (R145) -/
  | vimul (side : VSide) (x : VFields)
  /-- High half of the integer product. (R145) -/
  | vimulh (side : VSide) (x : VFields)
  /-- Integer multiply-add, wrapping or saturating. (R145) -/
  | vimad (side : VSide) (x : VFields)
  /-- Bitwise and per element. (R145) -/
  | vand (side : VSide) (x : VFields)
  /-- Bitwise or per element. (R145) -/
  | vor (side : VSide) (x : VFields)
  /-- Bitwise exclusive or per element. (R145) -/
  | vxor (side : VSide) (x : VFields)
  /-- Bitwise and-not per element. (R145) -/
  | vandn (side : VSide) (x : VFields)
  /-- Logical shift left per element. (R145) -/
  | vshl (side : VSide) (x : VFields)
  /-- Logical shift right per element. (R145) -/
  | vshr (side : VSide) (x : VFields)
  /-- Arithmetic shift right per element. (R145) -/
  | vsra (side : VSide) (x : VFields)
  /-- Integer minimum per element. (R145) -/
  | vimin (side : VSide) (x : VFields)
  /-- Integer maximum per element. (R145) -/
  | vimax (side : VSide) (x : VFields)
  /-- Counts one bits per element. (R145) -/
  | vpopc (side : VSide) (x : VFields)
  /-- Counts leading zeros per element. (R145) -/
  | vclz (side : VSide) (x : VFields)
  /-- Integer compare writing a predicate. (R145) -/
  | vicmp (side : VSide) (x : VFields)
  /-- Permutes elements by an index vector. (R146) -/
  | vperm (side : VSide) (x : VFields)
  /-- Broadcasts one element. (R146) -/
  | vbcast (side : VSide) (x : VFields)
  /-- Shifts elements across two sources. (R146) -/
  | vlsh (side : VSide) (x : VFields)
  /-- Interleaves halves of two sources. (R146) -/
  | vzip (side : VSide) (x : VFields)
  /-- De-interleaves two sources. (R146) -/
  | vunzip (side : VSide) (x : VFields)
  /-- Reverses element order. (R146) -/
  | vrev (side : VSide) (x : VFields)
  /-- Selects elements of two sources by a predicate. (R146) -/
  | vsel (side : VSide) (x : VFields)
  /-- Packs selected elements to the bottom. (R146) -/
  | vcompress (side : VSide) (x : VFields)
  /-- Spreads consecutive elements to selected positions. (R146) -/
  | vexpand (side : VSide) (x : VFields)
  /-- Bitwise and of predicates. (R147) -/
  | pand (side : VSide) (x : VFields)
  /-- Bitwise or of predicates. (R147) -/
  | por (side : VSide) (x : VFields)
  /-- Bitwise exclusive or of predicates. (R147) -/
  | pxor (side : VSide) (x : VFields)
  /-- Complements a predicate. (R147) -/
  | pnot (side : VSide) (x : VFields)
  /-- Counts the ones of a predicate into a scalar register. (R147) -/
  | pcnt (side : VSide) (x : VFields)
  /-- Finds the lowest set bit of a predicate into a scalar register. (R147) -/
  | pfirst (side : VSide) (x : VFields)
  /-- Sets the first k lanes of a predicate. (R147) -/
  | pset (side : VSide) (x : VFields)
  /-- Quantises elements by group multipliers in one rounding. (R149) -/
  | vqnt (side : VSide) (x : VFields)
  /-- Finds the largest magnitude of each group of 32 elements. (R148) -/
  | vgmax (side : VSide) (x : VFields)
  /-- Copies a 64-bit word of a vector source into a scalar register. (R150) -/
  | tos (side : VSide) (x : VFields)
  /-- Broadcasts a scalar last result into every element. (R151) -/
  | froms (side : VSide) (x : VFields)
  /-- Issues a dense 32x32x32 matrix step from two bobbins into a tile. (R161) -/
  | mMma (x : LayMma)
  /-- Issues a 2:4 sparse matrix step using the metadata word at MPC. (R165) -/
  | mMms (x : LayMma)
  /-- Zeroes a tile and resets HALF. (R169) -/
  | mZero (x : LayMT)
  /-- Adds one tile into another element by element. (R170) -/
  | mAcc (x : LayMAcc)
  /-- Reads two rows of a tile into a vector register. (R171) -/
  | mRd (x : LayMRd)
  /-- Writes a vector register into two rows of a tile. (R172) -/
  | mWr (x : LayMWr)
  /-- Converts a tile by the format entry and writes it to scratchpad. (R173) -/
  | mSt (x : LayMOff)
  /-- Binds format selection to a base entry, count and loop level. (R168) -/
  | mFmt (x : LayMFmt)
  /-- Writes a tile as stored to scratchpad. (R177) -/
  | mSave (x : LayMOff)
  /-- Reads a tile back from scratchpad. (R177) -/
  | mRest (x : LayMOff)
  /-- Holds its bundle until a tile is no longer busy. (R174) -/
  | mWait (x : LayMT)
  /-- Loads a scalar of 1 to 8 bytes with extension. (R185) -/
  | lS (x : LayL)
  /-- Loads 256 bytes into a vector register. (R185) -/
  | lV (x : LayL)
  /-- Loads a partial vector of 4, 8 or 16 bytes. (R185) -/
  | lVp (x : LayL)
  /-- Gathers 64 words by an index block in the own scratchpad. (R186) -/
  | lG (x : LayLG)
  /-- Loads one element and broadcasts it. (R185) -/
  | lB (x : LayL)
  /-- Loads a granule under its full/empty bit, waiting or taking. (R187) -/
  | lFe (x : LayL)
  /-- Reads 64 bytes and pushes them as a scale-queue entry. (R188) -/
  | lScl (x : LayLAn)
  /-- Takes the head entry of a link receive queue. (R189) -/
  | lRcv (x : LayLRcv)
  /-- Adds to an address register. (R190) -/
  | lAadd (x : LayLAadd)
  /-- Loads an immediate into an address register. (R190) -/
  | lAli (x : LayLAli)
  /-- Copies a scalar register into an address register. (R190) -/
  | lAmov (x : LayLAmov)
  /-- Sets the metadata PC. (R190) -/
  | lMpc (x : LayLAn)
  /-- Stores the low bytes of a scalar register. (R192) -/
  | wS (x : LayW)
  /-- Stores all 256 bytes of a vector register. (R192) -/
  | wV (x : LayW)
  /-- Stores a partial piece of a vector register. (R192) -/
  | wVp (x : LayW)
  /-- Scatters 64 words by an index vector. (R193) -/
  | wSc (x : LayWSc)
  /-- Writes a granule when it is empty and sets it full. (R194) -/
  | wFe (x : LayW)
  /-- Atomic read-modify-write returning the old value. (R197) -/
  | wAtom (x : LayWAtom)
  /-- Atomic compare-and-swap returning the old value. (R198) -/
  | wCas (x : LayWCas)
  /-- Reduction into memory returning nothing. (R199) -/
  | wRed (x : LayWRed)
  /-- Sends 256 bytes to the receive queue bound to a link channel. (R202) -/
  | wSnd (x : LayWSnd)
  /-- Writes a copy shape register under the three-bundle rule. (R206) -/
  | cShp (x : LayCShp)
  /-- Queues a shaped copy and takes a timeline number. (R207) -/
  | cGo (x : LayCGo)
  /-- Binds a bobbin to a scratchpad region. (R211) -/
  | cRing (x : LayCRing)
  /-- Invalidates instruction-cache entries of a range. (R216) -/
  | cIcinv (x : LayCIc)
  /-- Writes back dirty L2 lines of a range. (R217) -/
  | cL2wb (x : LayCL2)
  /-- Writes back and invalidates L2 lines of a range. (R217) -/
  | cL2inv (x : LayCL2)
  /-- Posts a 64-byte packet to a guest queue of the distaff socket. (R218) -/
  | cGq (x : LayCGq)
  /-- Binds or unbinds a template for sealed or opened copies. (R214) -/
  | cSeal (x : LayCSeal)
  /-- Waits until a timeline counter's DONE reaches a number, acquiring it. (R224) -/
  | yTlwait (x : LayYTl)
  /-- Takes a block of timeline numbers completed by earlier writes. (R225) -/
  | yTladv (x : LayYTl)
  /-- Reads DONE of a timeline counter. (R226) -/
  | yTlread (x : LayYTlr)
  /-- Joins a phaser with a kind. (R227) -/
  | yPhreg (x : LayYPhr)
  /-- Leaves a phaser. (R227) -/
  | yPhdrop (x : LayYPh)
  /-- Signals a phaser phase. (R227) -/
  | yPhsig (x : LayYPh)
  /-- Waits for a phaser phase. (R227) -/
  | yPhwait (x : LayYPh)
  /-- Orders the core's accesses at a scope. (R228) -/
  | yFence (x : LayYScope)
  /-- Orders and waits for the core's accesses to perform at a scope. (R229) -/
  | yDrain (x : LayYScope)
  /-- Proposes a value for a key to a claim group. (R232) -/
  | yClm (x : LayYClm)
  /-- Objects to pending claims on a key. (R232) -/
  | yObj (x : LayYObj)
  /-- Waits until the die holds no claim on a key before its effect tick. (R232) -/
  | yClwait (x : LayYObj)
  /-- Reads the value in effect for a key. (R232) -/
  | yClread (x : LayYClr)
  /-- Hands cores of the gang to a sibling sequencer that starts at a new address. (R233) -/
  | ySpawn (x : LayYSpawn)
  /-- Waits for a sibling to retire and takes its cores back. (R234) -/
  | yJoin (x : LayYJoin)
  /-- Ends the sequencer's stream after its results and engine operations settle. (R235) -/
  | yRetire (x : LayYNone)
  /-- Raises the TRAP cause with an immediate. (R242) -/
  | yTrap (x : LayYImm)
  /-- Returns from a trap handler to TPC. (R243) -/
  | yTret (x : LayYNone)
  /-- Steps the context's generation to a value from the pool. (R244) -/
  | yGeninc (x : LayYNone)
  /-- Posts a record to the partition's event ring. (R245) -/
  | yEvt (x : LayYEvt)
  /-- Halts the sequencer for the debug port where debugging is allowed. (R246) -/
  | yDbg (x : LayYImm)
  /-- The sequencer issues the next bundle of its gang once no core stalls it, reading sources and starting every slot. (R57) -/
  | issueBundle (q : Nat)
  /-- Once the yield waits end, the gang's state outside the graph position is cleared. (R282) -/
  | yieldClear (q : Nat)
  /-- A copy into a bobbin that can no longer progress during a yield or landing is cancelled and its number failed. (R281) -/
  | copyCancel (c ch : Nat)
  /-- After the landing waits end, the sequencer and core records are saved, scratchpad cleared and the context parked. (R286) -/
  | preemptSave (q : Nat)
  /-- A pending asynchronous cause is taken before the next bundle of the affected sequencer issues. (R239) -/
  | asyncTrap (q : Nat)
  /-- A bundle held by counted waits reaches LIMIT and traps with WAITTO. (R360) -/
  | waitTimeout (q : Nat)
  /-- A tenant bundle would issue with RUNLEFT at zero, raising OVERRUN. (R276) -/
  | runOverrun (q : Nat)
  /-- SLEFT reaches zero before a yield and the device requests a forced pre-emption. (R277) -/
  | sliceExpire (q : Nat)
  /-- At a decision point the creel arbiter chooses the next context for a gang and switches to it. (R311) -/
  | arbiterDecision (q : Nat)
  /-- A long load, atomic return or link receive result is written over its path in a free cycle. (R56) -/
  | longResultWrite (n k : Nat) (bad : Bool)
  /-- An own-scratchpad load or store reaches its bank in cycle c + 3 of its bundle. (R183) -/
  | spadAccess (n : Nat)
  /-- A matrix step retires, writing its tile and popping its ring operands. (R161) -/
  | matrixStepRetire (c : Nat)
  /-- An m.st, m.save or m.rest performs its bytes and frees its tile. (R173) -/
  | tileStoreComplete (c : Nat)
  /-- The 64 bytes read by an l.scl arrive and are pushed as a scale-queue entry. (R166) -/
  | scaleEntryArrive (n : Nat)
  /-- The copy engine moves one chunk of a queued copy, reading it whole before writing it. (R207) -/
  | copyChunk (c ch : Nat) (ext : Option (List Byte))
  /-- A copy's last chunk performs and its number completes on its timeline counter. (R209) -/
  | copyComplete (c ch : Nat)
  /-- A waiting full/empty request is applied at the owning bank when the granule state allows. (R370) -/
  | feRequestApply (n : Nat)
  /-- A bundle leaving issue sends a withdrawal of its waiting near full/empty request to the bank. (R195) -/
  | feWithdrawal (q : Nat)
  /-- The bank's answer to a withdrawal arrives and the bundle issues or leaves issue. (R195) -/
  | feWithdrawalAnswer (q : Nat)
  /-- An atomic, compare-and-swap or reduction is applied whole at the unit that owns its location. (R196) -/
  | atomicApply (n k : Nat) (bad : Bool)
  /-- The destination acknowledges a posted remote write and OUT of its window decreases. (R201) -/
  | postedWriteAck (n : Nat)
  /-- Every participant's input on a wired-AND line is high and the line releases them to issue in the next cycle. (R363) -/
  | lineRelease (d line : Nat)
  /-- SC operations of a wheel position are applied at their units at the fixed tick in stamp order. (R380) -/
  | scApply (d r n : Nat)
  /-- A partition's sync-message bucket gains SRATE tokens every 256 cycles. (R358) -/
  | syncBucketRefill (d p : Nat)
  /-- A context's L2 token bucket gains RATE tokens every 256 cycles. (R271) -/
  | l2BucketRefill (d slice x : Nat)
  /-- A window of 65,536 critical reads ends, setting P99 and MISS and adjusting best-effort rates. (R274) -/
  | criticalWindowEnd (d p p99 : Nat)
  /-- A write to a control or BAR register that has no behaviour of its own stores its fields. (R476) -/
  | registerWrite (p : RegPage) (off n : Nat) (v : Word)
  /-- A PCFG write with EN = 1 enables an Off partition if its conditions hold. (R249) -/
  | partitionEnable (p : Nat) (v : Word)
  /-- A PCFG write with EN = 0 drains or turns off the partition. (R249) -/
  | partitionDisable (p : Nat) (v : Word)
  /-- A PL2 write changes SHARE or DIRECT, writing back ways that leave the cache. (R251) -/
  | pl2Write (d p : Nat) (v : Word)
  /-- A driver write of L2DIR sets DIRECT of the partition on every present die. (R305) -/
  | l2dirWrite (p : Nat) (v : Word)
  /-- A write of PQSYNC or PQTL is accepted only while the partition is Off with disjoint ranges. (R356) -/
  | quotaWrite (d p : Nat) (tl : Bool) (v : Word)
  /-- A write of the claim-slot quota is accepted under the quota conditions. (R427) -/
  | pqclmWrite (d p : Nat) (v : Word)
  /-- A write of the pool size is accepted only when every value above it is Free. (R264) -/
  | gpoolWrite (v : Word)
  /-- A Draining generation value with no operation in flight becomes Quiet. (R265) -/
  | genQuiet (g : Nat)
  /-- The carder starts a pass over the Quiet values, dropping matching L2 lines. (R267) -/
  | carderPassStart 
  /-- Once queued writebacks are gone, the carder sets Z on every matching storage unit of the die. (R267) -/
  | carderStorageSweep (d : Nat)
  /-- Every unfenced die has finished the pass and its values return to Free. (R267) -/
  | carderPassEnd 
  /-- A host write to context memory enters the ingress buffer or is applied directly. (R260) -/
  | hostWrite (x d : Nat) (va : Word) (bytes : List Byte)
  /-- The LOAD command checks an image and places it into a new context. (R323) -/
  | load (d : Nat) (plan : LoadPlan)
  /-- The UNLOAD command destroys the key, releases placement and retires the context's generation. (R314) -/
  | unload (d : Nat)
  /-- The BIND queue command reads and checks the control block and takes an on-chip copy. (R302) -/
  | bind (n : Nat)
  /-- The STOP queue command stops the queue, pending until a launch completes. (R304) -/
  | stop (n : Nat)
  /-- The START queue command makes a stopped queue Idle or Pending. (R304) -/
  | start (n : Nat)
  /-- The EXPORT queue command compares and writes the control block from on-chip state. (R303) -/
  | exportQueue (n : Nat)
  /-- The UNBIND queue command releases the queue's context and polling slot. (R304) -/
  | unbind (n : Nat)
  /-- A write of QDB offers a new producer index to a queue. (R305) -/
  | queueDoorbell (p q : Nat) (v : BitVec 32)
  /-- A write of EVCFG sets the event ring and resets its head and tail. (R305) -/
  | evcfgWrite (p : Nat) (v : Word)
  /-- The Whorl polling slot reads the head packet of a Pending queue and handles it. (R307) -/
  | queueServe (n : Nat)
  /-- A launch completes, advancing CONS and posting the completion record. (R308) -/
  | launchComplete (n : Nat)
  /-- The PLACE command checks and records a context's placement on gangs. (R339) -/
  | place (x : Nat)
  /-- The RELEASE command clears a context's placement. (R339) -/
  | release (x : Nat)
  /-- The EVICT command saves one gang of a running group while the others continue. (R347) -/
  | evict (x g : Nat)
  /-- The READMIT command restores an evicted gang on the same cores. (R347) -/
  | readmit (x g : Nat)
  /-- A write of CBIND binds a logical core position to a sequencer or changes its skew. (R335) -/
  | cbindWrite (c : Nat) (v : Word)
  /-- A write of PAIR enables redundant pairing of sequencers if the gangs match. (R349) -/
  | pairWrite (d j : Nat) (v : Word)
  /-- The start agreement takes effect and every gang issues its entry bundle. (R343) -/
  | groupStartAgreement (x : Nat)
  /-- Gang 0's yield decision is applied on every gang at one cycle or tick. (R344) -/
  | groupYieldDecision (x : Nat)
  /-- The pre-emption agreement sets REQ on every gang of the group. (R343) -/
  | groupPreemptAgreement (x : Nat)
  /-- The self-test of a mismatched pair ends and the group reruns or faults. (R352) -/
  | pairSelftestEnd (q lasting creel p : Nat)
  /-- A write of REQ in PREQ requests a forced pre-emption. (R284) -/
  | preemptRequest (x : Nat)
  /-- A system write of ACCOWN spills and restores matrix state between contexts. (R295) -/
  | accownWrite (c : Nat)
  /-- The debug port halts a context at a bundle boundary. (R297) -/
  | debugHalt (q : Nat)
  /-- The debug port resumes a halted context. (R297) -/
  | debugResume (q : Nat)
  /-- The debug port writes registers or special registers of a halted context. (R297) -/
  | debugStateWrite (q c : Nat) (r : DebugReg) (v : Tile)
  /-- The debug port views, edits or cancels a landing-queue entry of a halted core. (R61) -/
  | debugLqWrite (q c k : Nat) (d : Word) (mask : Pred) (value : VWord)
  /-- A write of CMD in TLBINVC starts an invalidation of an ASID range. (R399) -/
  | tlbInvalidate (d : Nat) (v : Word)
  /-- An invalidation completes once earlier pins are released and guests acknowledge. (R400) -/
  | tlbInvalidateDone (d : Nat)
  /-- An access held on a leaf with MIG set re-reads the entry every 256 cycles. (R395) -/
  | migRewalk (q : Nat)
  /-- The MIGRATE command copies DRAM frames with their metadata. (R405) -/
  | migrate (d : Nat) (v : Word)
  /-- A frame migration completes and DONE is set. (R405) -/
  | migrateDone (d : Nat)
  /-- The TRAIN link command starts training a port. (R414) -/
  | train (d p : Nat)
  /-- The INSTALL link command makes the staged key the next key. (R415) -/
  | install (d p : Nat)
  /-- Both ends of a link finish training and the port becomes Up. (R414) -/
  | linkTrainComplete (d p delay : Nat)
  /-- Training does not complete within 1 ms and the port returns to Down. (R414) -/
  | linkTrainTimeout (d p : Nat)
  /-- A port sends a flit under the next counter value, entering Held at exhaustion. (R416) -/
  | flitSend (d p : Nat)
  /-- A flit arrives at a station and is routed, written pending or held for verification. (R418) -/
  | flitReceive (d p : Nat) (ext : Option (BitVec 704 × Nat)) (busy : Bool)
  /-- A tag group is verified, clearing PEND and applying held flits, or failed and poisoned. (R418) -/
  | tagGroupVerify (d p : Nat) (ok : Bool)
  /-- A final refusal reaches the sender, faulting the request and writing LFAULT. (R413) -/
  | refusalReceive (d : Nat)
  /-- LWDOG expires on a send-credit stall, an unaccepted or an unacknowledged flit. (R420) -/
  | linkWatchdogExpire (kind d n : Nat)
  /-- A port switches to its next key at a group boundary at or after LSWT. (R417) -/
  | keySwitch (d p : Nat)
  /-- The self-test of a contained port ends and STEST is written. (R419) -/
  | linkSelftestEnd (d p result : Nat)
  /-- Every 1024 ticks each link carries a time flit with the sender's count. (R421) -/
  | timeFlitSend (d p : Nat)
  /-- A write of a claim group entry's word 0 validates or clears the group. (R424) -/
  | clgrpWrite (d k w : Nat) (v : Word)
  /-- A write of CLSIDX latches a claim slot for reading. (R437) -/
  | clsidxWrite (d : Nat) (v : Word)
  /-- A claim proposal arrives, takes a slot and is tested against rivals. (R430) -/
  | claimProposalArrive (d : Nat) (src : BitVec 18) (payload : Line)
  /-- An objection arrives and marks the claim Objected or triggers a late notice. (R433) -/
  | claimObjectionArrive (d : Nat) (src : BitVec 18) (payload : Line)
  /-- At TEFF a claim takes effect on its value cell or is defeated, freeing its slot. (R432) -/
  | claimEffect (d : Nat)
  /-- A late notice reaches the objector's die and makes LATEOBJ pending. (R433) -/
  | lateNoticeArrive (d : Nat) (src : BitVec 18) (payload : Line)
  /-- A break notice arrives and the group becomes Broken on the die. (R435) -/
  | breakNoticeArrive (d : Nat) (src : BitVec 18) (payload : Line)
  /-- The TRAIN socket command starts UCIe training of the distaff socket. (R446) -/
  | guestTrain (d : Nat)
  /-- The RESET socket command resets a fenced socket to Down once pins are released. (R446) -/
  | guestReset (d : Nat)
  /-- The socket link trains with a valid DVSEC and becomes Up. (R446) -/
  | guestTrainComplete (d : Nat)
  /-- Socket training fails or times out and the socket returns to Down. (R446) -/
  | guestTrainFail (d : Nat)
  /-- The port delivers a packet into the lowest Free slot. (R442) -/
  | pkt (d : Nat)
  /-- A guest D2H request is translated, checked and applied for its slot. (R441) -/
  | guestRequest (d code : Nat) (addr : BitVec 52) (data : Line)
  /-- The guest completes a packet and its slot becomes Free. (R443) -/
  | cpl (d : Nat) (bytes : List Byte)
  /-- The guest reports a packet fault and its number fails. (R443) -/
  | flt (d : Nat) (bytes : List Byte)
  /-- The guest acknowledges an invalidation. (R445) -/
  | invack (d : Nat) (bytes : List Byte)
  /-- The guest reports the checkpoint of a context's slots. (R445) -/
  | ckpt (d : Nat) (bytes : List Byte)
  /-- A write of REQ in GPRE sends PRE for a context. (R445) -/
  | guestPreempt (d x : Nat)
  /-- A write of RES in GPRE resumes a context's suspended packets. (R445) -/
  | guestResume (d x : Nat)
  /-- A guest fails to answer INV or PRE within its limit. (R445) -/
  | guestDutyTimeout (d : Nat)
  /-- The socket link is lost. (R446) -/
  | guestLinkLoss (d : Nat)
  /-- A package reset wipes all eight dies. (R464) -/
  | packageReset 
  /-- A die reset wipes one die, its DRAM and its link keys. (R464) -/
  | dieReset (d : Nat)
  /-- The Whorl ROM self-tests, verifies firmware and brings the die into service. (R465) -/
  | dieBoot (d : Nat) (ok : Bool)
  /-- A write of RCVPIECE copies a firmware piece from the staging window. (R467) -/
  | recoveryPiece (d : Nat) (v : Word)
  /-- A write of RCVPIECE with END verifies and installs the recovery image. (R467) -/
  | recoveryEnd (d : Nat) (v : Word)
  /-- The PROVISION life-cycle command fuses the key slots. (R468) -/
  | provision 
  /-- The DEPLOY life-cycle command locks the debug port. (R468) -/
  | deploy 
  /-- The RETURN life-cycle command revokes non-firmware key slots. (R468) -/
  | lcReturn 
  /-- A parity error in a core fences its gang. (R469) -/
  | coreParityError (c : Nat)
  /-- The Whorl watchdog or a ring-station error fences the die. (R469) -/
  | whorlWatchdog (d : Nat)
  /-- The self-test of a fenced unit ends and classifies the error as transient or lasting. (R469) -/
  | fenceSelftestEnd (die : Bool) (n : Nat) (lasting : Bool) (creel p : Nat)
  /-- A sensor reads 105 degrees or more and the die throttles to 425 MHz. (R471) -/
  | throttleEnter (d : Nat) (t : BitVec 8)
  /-- Every sensor has read below 95 degrees for 1 ms and the die returns to 850 MHz. (R471) -/
  | throttleExit (d : Nat) (t : BitVec 8)
  /-- A die reaching 125 degrees or 880 W for 1 ms is fenced. (R471) -/
  | thermalFence (d : Nat)
  /-- A store of class near, or a guest write through the port, reaches the owning bank or L2 slice and performs there. (R192) -/
  | nearStorePerform (guest : Option Nat) (n k : Nat) (bad : Bool)
  /-- A c.icinv, c.l2wb or c.l2inv finishes on every die it acts on, and its timeline number completes. (R217) -/
  | cacheMaintenanceComplete (n d : Nat)
  /-- The guest answers an H2D SnpInv or SnpData from the port, so that a write counts as performed at guest scope. (R439) -/
  | guestSnoopResponse (d loc : Nat)
  /-- An IEEE 1149.1 instruction is loaded and acts, or acts as BYPASS while the state is Deployed. (R474) -/
  | boundaryScanInstruction (code : Nat)
  deriving DecidableEq, Repr

end Sys2Proof
end

