-- ==== Sys2Proof/WellFormed.lean ====
section
/-! DEFINITION. The encoding checks of one operation (R64, items 2 to 4): which field values an entry assigns. The port
allotment and the header (items 6 and 7) belong to the bundle and stand in Decode; items 8 to 10 need the landing queue
and stand in Machine/Issue. -/

namespace Sys2Proof

/-- Why an encoding is refused: the items of R64 that the bits alone decide. -/
inductive DecodeErr where
  /-- R64 item 1. -/
  | unassignedOpcode
  /-- R64 item 2. -/
  | unassignedFunction
  /-- R64 item 3. -/
  | reservedField
  /-- R64 item 4. -/
  | reservedOperand
  /-- R64 item 5. -/
  | opcodeZeroBits
  /-- R64 item 6. -/
  | portAllotment
  /-- R64 item 7. -/
  | badHeader
  deriving DecidableEq, Repr

/-- The first failing check of a list, in the order given. -/
def firstErr : List (Bool × DecodeErr) → Option DecodeErr
  | [] => none
  | (ok, e) :: r => if ok then firstErr r else some e

/-- A scalar source code of the scalar slot (R48, R49): s0 to s31, ls0, ls1. -/
def srcOk (c : BitVec 6) : Bool := decide (c.toNat < 34)
/-- A scalar code of any other slot, and every scalar destination (R48, R49, R221): s0 to s31. -/
def sregOk (c : BitVec 6) : Bool := decide (c.toNat < 32)
/-- A vector source code (R48). -/
def vsrcOk (c : BitVec 7) : Bool := decide (c.toNat < 76)
/-- A vector destination code (R48). -/
def vdstOk (c : BitVec 7) : Bool := decide (c.toNat < 72)
/-- A vector register read through a data port: v1 to v63 (R158, R191). -/
def vportOk (c : BitVec 7) : Bool := decide (1 ≤ c.toNat ∧ c.toNat < 64)

/-- Scope codes of R75. -/
def scopeOk (c : BitVec 4) : Bool := decide (c.toNat ≤ 6 ∨ (8 ≤ c.toNat ∧ c.toNat ≤ 11))

/-- The assigned special-register codes (R119). -/
def srOk (c : BitVec 10) : Bool :=
  let n := c.toNat
  decide (n ≤ 3 ∨ n = 8 ∨ n = 9 ∨ (0x10 ≤ n ∧ n ≤ 0x14) ∨ (0x18 ≤ n ∧ n ≤ 0x1C) ∨ (0x20 ≤ n ∧ n ≤ 0x22) ∨ n = 0x30
    ∨ (0x40 ≤ n ∧ n ≤ 0x45) ∨ (0x48 ≤ n ∧ n ≤ 0x4D) ∨ (0x50 ≤ n ∧ n ≤ 0x55) ∨ (0x58 ≤ n ∧ n ≤ 0x5D))

/-- How a shift, count or other layout-A operation constrains its second operand (R104). -/
inductive AKind where
  /-- Register or any immediate. -/
  | plain
  /-- An immediate amount lies between 0 and 63. -/
  | shift
  /-- Only `a` is read; i and b are zero. -/
  | unary
  deriving DecidableEq, Repr

/-- Layout A (R103, R104). -/
def wfA (k : AKind) (x : LayA) : Option DecodeErr :=
  firstErr [
    (sregOk x.d, .reservedOperand),
    (srcOk x.a, .reservedOperand),
    (decide (k = .unary → x.i = 0 ∧ x.b = 0), .unassignedFunction),
    (decide (x.i = 0 → x.b.toNat % 2 ^ 34 = 0), .reservedField),
    (decide (x.i = 0 → srcOk (x.b.extractLsb' 34 6) = true), .reservedOperand),
    (decide (k = .shift → x.i = 1 → x.b.toNat < 64), .reservedField)]

/-- Layout C (R103, R107). -/
def wfC (x : LayC) : Option DecodeErr :=
  firstErr [
    (decide (x.cond.toNat ≤ 9), .unassignedFunction),
    (srcOk x.a, .reservedOperand),
    (decide (x.i = 0 → x.b.toNat % 2 ^ 33 = 0), .reservedField),
    (decide (x.i = 0 → srcOk (x.b.extractLsb' 33 6) = true), .reservedOperand)]

/-- Layout F (R110). -/
def wfF (x : LayF) : Option DecodeErr :=
  firstErr [
    (sregOk x.d, .reservedOperand),
    (srcOk x.a, .reservedOperand),
    (decide (1 ≤ x.width.toNat ∧ x.lsb.toNat + x.width.toNat ≤ 64), .unassignedFunction)]

/-- Layout P (R115). -/
def wfP (x : LayP) : Option DecodeErr :=
  firstErr [
    (decide (x.lvl.toNat ≤ 5), .unassignedFunction),
    (decide (x.len ≠ 0), .unassignedFunction),
    (decide (x.i = 0 → x.cnt.toNat % 2 ^ 15 = 0), .reservedField),
    (decide (x.i = 0 → srcOk (x.cnt.extractLsb' 15 6) = true), .reservedOperand)]

/-! ### Vector operations (R130, R131): one description per operation -/

/-- What a vector operand field names. -/
inductive VOper where
  /-- The entry does not use the field. -/
  | unused
  /-- A vector code of R48. -/
  | vec
  /-- A predicate p0 to p7 in bits [2:0]. -/
  | pred
  /-- A scalar destination in bits [5:0]. -/
  | scal
  /-- ls0 or ls1 (`froms`, R151). -/
  | last
  deriving DecidableEq, Repr

/-- What the field fn of a vector operation holds. -/
inductive VFn where
  | unused
  /-- A condition code up to the bound (R139, R145). -/
  | cond (max : Nat)
  /-- A target type of `vcvt` (R143). -/
  | cvtTarget
  /-- A target type of `vqnt` (R149). -/
  | qntTarget
  deriving DecidableEq, Repr

/-- How the immediate k of a vector operation is bounded. -/
inductive VK where
  | unused
  /-- A part: below r of R143 or R149. -/
  | part
  /-- An element index: below q (R146). -/
  | elem
  /-- 0 or 1 (R146). -/
  | bit
  /-- A 64-bit word index, 0 to 31 (R150). -/
  | word
  /-- A lane count of `pset` (R147). -/
  | count
  /-- The amount of a shift with i = 1 (R145). -/
  | amount
  deriving DecidableEq, Repr

/-- Which rm and sat a vector operation lists (R131, R133, R143, R144, R149). -/
inductive VRound where
  | neither
  | both
  | rmOnly
  | satOnly
  /-- By the kinds of the two types of a conversion (R143). -/
  | cvt
  /-- `vredsum`: rm for floating point, sat for s32 (R144). -/
  | redsum
  /-- `vqnt`: rm, and sat unless the target is s8 (R149). -/
  | qnt
  deriving DecidableEq, Repr

/-- The entry of one vector operation. -/
structure VSpec where
  d : VOper
  a : VOper
  b : VOper := .unused
  c : VOper := .unused
  /-- The type codes of R78 the entry lists; none when ty encodes as zero. -/
  types : List Nat
  round : VRound := .neither
  /-- A shift, whose i selects k as the amount (R145). -/
  shift : Bool := false
  fn : VFn := .unused
  k : VK := .unused
  deriving DecidableEq, Repr

/-- f32, bf16, f16 (R133). -/
def tyFloat : List Nat := [0, 1, 2]
/-- The integer types of the vector slots (R145). -/
def tyInt : List Nat := [5, 6, 7, 8, 9, 10]
/-- Every type of 0x0 to 0xA. -/
def tyAll : List Nat := [0, 1, 2, 3, 4, 5, 6, 7, 8, 9, 10]
/-- The 32- and 16-bit integer types (`vicmp`). -/
def tyIntWide : List Nat := [5, 6, 8, 9]
/-- The 32- and 16-bit types (`pset`). -/
def tyWide : List Nat := [0, 1, 2, 5, 6, 8, 9]

/-- Element width of a type code (R78, R127). -/
def tyWidth (ty : Nat) : Nat :=
  match ty with
  | 0 | 5 | 8 => 32
  | 1 | 2 | 6 | 9 => 16
  | _ => 8

/-- The codes 0x0 to 0x4 are floating point. -/
def tyIsFloat (ty : Nat) : Bool := decide (ty < 5)

/-- Binary floating-point operations with rounding. -/
def vsBin : VSpec := { d := .vec, a := .vec, b := .vec, types := tyFloat, round := .both }
/-- The fused operations. -/
def vsTri : VSpec := { d := .vec, a := .vec, b := .vec, c := .vec, types := tyFloat, round := .both }
/-- Unary operations with rounding. -/
def vsUn : VSpec := { d := .vec, a := .vec, types := tyFloat, round := .both }
/-- Integer operations that may saturate. -/
def vsIntSat : VSpec := { d := .vec, a := .vec, b := .vec, types := tyInt, round := .satOnly }
/-- Integer operations of two sources. -/
def vsInt : VSpec := { d := .vec, a := .vec, b := .vec, types := tyInt }
/-- Shifts. -/
def vsShift : VSpec := { d := .vec, a := .vec, b := .vec, types := tyInt, shift := true, k := .amount }
/-- Integer operations of one source. -/
def vsIntUn : VSpec := { d := .vec, a := .vec, types := tyInt }
/-- Predicate operations of two sources. -/
def vsPred : VSpec := { d := .pred, a := .pred, b := .pred, types := [] }

/-- The registers a vector entry allows in a field (R131). -/
def vOperOk (o : VOper) (dst : Bool) (c : BitVec 7) : Option DecodeErr :=
  match o with
  | .unused => if c = 0 then none else some .reservedField
  | .vec => if dst then (if vdstOk c then none else some .reservedOperand)
            else (if vsrcOk c then none else some .reservedOperand)
  | .pred => if c.toNat < 8 then none else some .reservedField
  | .scal => if c.toNat < 32 then none else if c.toNat < 64 then some .reservedOperand else some .reservedField
  | .last => if c.toNat < 2 then none else some .reservedOperand

/-- The number of parts of a conversion or quantisation (R143, R149). -/
def partCount (a b : Nat) : Nat := if a ≥ b then a / b else b / a

/-- Which of rm and sat may be non-zero. -/
def vRoundAllowed (r : VRound) (ty fn : Nat) : Bool × Bool :=
  match r with
  | .neither => (false, false)
  | .both => (true, true)
  | .rmOnly => (true, false)
  | .satOnly => (false, true)
  | .cvt =>
    match tyIsFloat ty, tyIsFloat fn with
    | true, true => (true, true)
    | true, false => (true, false)
    | false, true => (true, true)
    | false, false => (false, false)
  | .redsum => if tyIsFloat ty then (true, false) else (false, true)
  | .qnt => (true, decide (fn ≠ 7))

/-- The bound check of k. -/
def vKOk (s : VSpec) (ty fn k : Nat) (i : Bool) : Bool :=
  match s.k with
  | .unused => k == 0
  | .part => decide (k < partCount (tyWidth ty) (tyWidth fn))
  | .elem => decide (k < 2048 / tyWidth ty)
  | .bit => decide (k < 2)
  | .word => decide (k < 32)
  | .count => decide (k ≤ if tyWidth ty = 32 then 64 else 128)
  | .amount => i || k == 0

/-- The check of fn. -/
def vFnOk (f : VFn) (ty fn : Nat) : Bool :=
  match f with
  | .unused => fn == 0
  | .cond m => decide (fn ≤ m)
  | .cvtTarget => decide (fn ≤ 10 ∧ fn ≠ ty)
  | .qntTarget => decide (fn = 3 ∨ fn = 4 ∨ fn = 7)

/-- The first of two errors. -/
def orErr (a b : Option DecodeErr) : Option DecodeErr := a.or b

/-- The checks of a vector operation (R127, R128, R131). -/
def wfV (s : VSpec) (x : VFields) : Option DecodeErr :=
  let ty := x.ty.toNat
  let i := decide (x.i = 1)
  let b := if s.shift && i then VOper.unused else s.b
  let allow := vRoundAllowed s.round ty x.fn.toNat
  orErr (firstErr [
    (decide (ty < 13), .reservedOperand),
    (if s.types.isEmpty then decide (ty = 0) else s.types.contains ty,
      if s.types.isEmpty then .reservedField else .unassignedFunction),
    (decide (s.d = .scal → x.grd = 0), .reservedField),
    (i → s.shift, .unassignedFunction),
    (decide (x.rm ≠ 0) → allow.1, .reservedField),
    (decide (x.sat ≠ 0) → allow.2, .reservedField),
    (vFnOk s.fn ty x.fn.toNat, if s.fn = .unused then .reservedField else .unassignedFunction),
    (vKOk s ty x.fn.toNat x.k.toNat i, if s.k = .unused then .reservedField else .unassignedFunction)])
  (orErr (vOperOk s.d true x.d) (orErr (vOperOk s.a false x.a) (orErr (vOperOk b false x.b) (vOperOk s.c false x.c))))

/-! ### The entry of each vector operation -/

def vsMinMax : VSpec := { d := .vec, a := .vec, b := .vec, types := tyFloat }
def vsAbsNeg : VSpec := { d := .vec, a := .vec, types := tyFloat }
def vsCmp : VSpec := { d := .pred, a := .vec, b := .vec, types := tyFloat, fn := .cond 5 }
def vsRnd : VSpec := { d := .vec, a := .vec, types := tyFloat, round := .rmOnly }
def vsCvt : VSpec := { d := .vec, a := .vec, types := tyAll, round := .cvt, fn := .cvtTarget, k := .part }
def vsRedsum : VSpec := { d := .vec, a := .vec, types := [0, 1, 2, 5], round := .redsum }
def vsRedMM : VSpec := { d := .vec, a := .vec, types := [0, 1, 2, 5, 8] }
def vsMad : VSpec := { d := .vec, a := .vec, b := .vec, c := .vec, types := tyInt, round := .satOnly }
def vsIcmp : VSpec := { d := .pred, a := .vec, b := .vec, types := tyIntWide, fn := .cond 9 }
def vsPerm : VSpec := { d := .vec, a := .vec, b := .vec, types := tyAll }
def vsBcast : VSpec := { d := .vec, a := .vec, types := tyAll, k := .elem }
def vsLsh : VSpec := { d := .vec, a := .vec, b := .vec, types := tyAll, k := .elem }
def vsZip : VSpec := { d := .vec, a := .vec, b := .vec, types := tyAll, k := .bit }
def vsRev : VSpec := { d := .vec, a := .vec, types := tyAll }
def vsSel : VSpec := { d := .vec, a := .vec, b := .vec, c := .pred, types := tyAll }
def vsComp : VSpec := { d := .vec, a := .vec, c := .pred, types := tyAll }
def vsPnot : VSpec := { d := .pred, a := .pred, types := [] }
def vsPcnt : VSpec := { d := .scal, a := .pred, types := [] }
def vsPset : VSpec := { d := .pred, a := .unused, types := tyWide, k := .count }
def vsQnt : VSpec := { d := .vec, a := .vec, b := .vec, types := tyFloat, round := .qnt, fn := .qntTarget, k := .part }
def vsGmax : VSpec := { d := .vec, a := .vec, types := tyFloat }
def vsTos : VSpec := { d := .scal, a := .vec, types := [], k := .word }
def vsFroms : VSpec := { d := .vec, a := .last, types := tyAll }

/-! ### Load and store sizes -/

/-- `w.atom`, `w.red`: an operation and its type (R197). -/
def aopTyOk (aop : BitVec 4) (ty : BitVec 2) : Bool :=
  decide (aop.toNat ≤ 9 ∧ (aop.toNat = 9 ↔ ty.toNat = 3))

/-- `w.red` (R199). -/
def wfRed (x : LayWRed) : Option DecodeErr :=
  firstErr [
    (aopTyOk x.aop x.ty && decide (x.aop.toNat ≠ 8), .unassignedFunction),
    (decide (x.vec = 0 → x.src.toNat < 64), .reservedField),
    (decide (x.vec = 0 → x.src.toNat < 32), .reservedOperand),
    (decide (x.vec = 1 → vportOk x.src = true), .unassignedFunction),
    (decide (x.vec = 1 → x.ty.toNat ≠ 0), .unassignedFunction)]

/-- `m.mma`, `m.mms` (R158). -/
def wfMma (x : LayMma) : Option DecodeErr :=
  firstErr [
    (decide (x.ba ≠ x.bw), .unassignedFunction),
    (decide (x.v = 0 → x.vr = 0 ∧ x.sel = 0), .reservedField),
    (decide (x.v = 1 → x.vr ≠ 0), .unassignedFunction)]

/-- A tile store offset (R157, R158). -/
def wfOff (x : LayMOff) : Option DecodeErr := firstErr [(decide (x.off.toNat ≤ 8176), .unassignedFunction)]

/-- `l.s`, `l.v`, `l.vp`, `l.b`, `l.fe` (R184, R185, R187): the greatest size code, the qualifier allowed. -/
def wfL (scalarDst : Bool) (maxSz : Nat) (fe : Bool) (x : LayL) : Option DecodeErr :=
  firstErr [
    (!scalarDst || sregOk x.d, .reservedOperand),
    (decide (x.sz.toNat ≤ maxSz), .unassignedFunction),
    (if fe then decide (x.fq.toNat = 1 ∨ x.fq.toNat = 2) else decide (x.fq = 0), .unassignedFunction)]

/-- `w.v`, `w.vp`, `w.fe` (R191, R192, R194): the greatest size code and the number of parts for each. -/
def wfWv (maxSz : Nat) (parts : Nat → Nat) (x : LayW) : Option DecodeErr :=
  firstErr [
    (vportOk x.src, .unassignedFunction),
    (decide (x.sz.toNat ≤ maxSz), .unassignedFunction),
    (decide (x.k.toNat < parts x.sz.toNat), .unassignedFunction)]

/-- R64 items 2 to 4 for one operation. Events carry no encoding and pass. -/
def Instr.wfError : Instr → Option DecodeErr
  | .sAdd x => wfA .plain x
  | .sSub x => wfA .plain x
  | .sMul x => wfA .plain x
  | .sMulh x => wfA .plain x
  | .sMulhz x => wfA .plain x
  | .sDiv x => wfA .plain x
  | .sDivz x => wfA .plain x
  | .sRem x => wfA .plain x
  | .sAnd x => wfA .plain x
  | .sOr x => wfA .plain x
  | .sXor x => wfA .plain x
  | .sAndn x => wfA .plain x
  | .sShl x => wfA .shift x
  | .sShr x => wfA .shift x
  | .sSra x => wfA .shift x
  | .sRot x => wfA .shift x
  | .sClz x => wfA .unary x
  | .sCtz x => wfA .unary x
  | .sPopc x => wfA .unary x
  | .sMin x => wfA .plain x
  | .sMax x => wfA .plain x
  | .sMinz x => wfA .plain x
  | .sMaxz x => wfA .plain x
  | .sCmp x => wfC x
  | .sSel x => firstErr [(sregOk x.d && srcOk x.a && srcOk x.sb, .reservedOperand)]
  | .sLi x => firstErr [(sregOk x.d, .reservedOperand)]
  | .sLih x => firstErr [(sregOk x.d, .reservedOperand)]
  | .sExt x => wfF x
  | .sIns x => wfF x
  | .sBr _ => none
  | .sBrc x => firstErr [(decide (x.cond.toNat ≤ 9), .unassignedFunction), (srcOk x.a && srcOk x.sb, .reservedOperand)]
  | .sCall _ => none
  | .sRet _ => none
  | .sJr x => firstErr [(srcOk x.a, .reservedOperand)]
  | .sLoop x => wfP x
  | .sLbrk x => firstErr [(decide (x.lvl.toNat ≤ 5), .unassignedFunction)]
  | .sRdsr x => firstErr [(sregOk x.r && srOk x.sr, .reservedOperand)]
  | .sWrsr x => firstErr [(srcOk x.r && srOk x.sr, .reservedOperand)]
  | .sFromv x => firstErr [(sregOk x.d && decide (x.vsel.toNat < 20), .reservedOperand)]
  | .sFroma x => firstErr [(sregOk x.d, .reservedOperand)]
  | .vadd _ x => wfV vsBin x
  | .vsub _ x => wfV vsBin x
  | .vmul _ x => wfV vsBin x
  | .vfma _ x => wfV vsTri x
  | .vfms _ x => wfV vsTri x
  | .vfnma _ x => wfV vsTri x
  | .vmin _ x => wfV vsMinMax x
  | .vmax _ x => wfV vsMinMax x
  | .vabs _ x => wfV vsAbsNeg x
  | .vneg _ x => wfV vsAbsNeg x
  | .vcmp _ x => wfV vsCmp x
  | .vclass _ x => wfV vsAbsNeg x
  | .vrcp _ x => wfV vsUn x
  | .vrsqrt _ x => wfV vsUn x
  | .vsqrt _ x => wfV vsUn x
  | .vdiv _ x => wfV vsBin x
  | .vexp2 _ x => wfV vsUn x
  | .vlog2 _ x => wfV vsUn x
  | .vrnd _ x => wfV vsRnd x
  | .vscale _ x => wfV vsBin x
  | .vcvt _ x => wfV vsCvt x
  | .vredsum _ x => wfV vsRedsum x
  | .vredmax _ x => wfV vsRedMM x
  | .vredmin _ x => wfV vsRedMM x
  | .viadd _ x => wfV vsIntSat x
  | .visub _ x => wfV vsIntSat x
  | .vimul _ x => wfV vsIntSat x
  | .vimulh _ x => wfV vsInt x
  | .vimad _ x => wfV vsMad x
  | .vand _ x => wfV vsInt x
  | .vor _ x => wfV vsInt x
  | .vxor _ x => wfV vsInt x
  | .vandn _ x => wfV vsInt x
  | .vshl _ x => wfV vsShift x
  | .vshr _ x => wfV vsShift x
  | .vsra _ x => wfV vsShift x
  | .vimin _ x => wfV vsInt x
  | .vimax _ x => wfV vsInt x
  | .vpopc _ x => wfV vsIntUn x
  | .vclz _ x => wfV vsIntUn x
  | .vicmp _ x => wfV vsIcmp x
  | .vperm _ x => wfV vsPerm x
  | .vbcast _ x => wfV vsBcast x
  | .vlsh _ x => wfV vsLsh x
  | .vzip _ x => wfV vsZip x
  | .vunzip _ x => wfV vsZip x
  | .vrev _ x => wfV vsRev x
  | .vsel _ x => wfV vsSel x
  | .vcompress _ x => wfV vsComp x
  | .vexpand _ x => wfV vsComp x
  | .pand _ x => wfV vsPred x
  | .por _ x => wfV vsPred x
  | .pxor _ x => wfV vsPred x
  | .pnot _ x => wfV vsPnot x
  | .pcnt _ x => wfV vsPcnt x
  | .pfirst _ x => wfV vsPcnt x
  | .pset _ x => wfV vsPset x
  | .vqnt _ x => wfV vsQnt x
  | .vgmax _ x => wfV vsGmax x
  | .tos _ x => wfV vsTos x
  | .froms _ x => wfV vsFroms x
  | .mMma x => wfMma x
  | .mMms x => wfMma x
  | .mZero _ => none
  | .mAcc _ => none
  | .mRd x => firstErr [(decide (x.d.toNat < 64), .unassignedFunction)]
  | .mWr x => firstErr [(vportOk x.vs, .unassignedFunction)]
  | .mSt x => wfOff x
  | .mFmt x => firstErr [(decide (1 ≤ x.n.toNat ∧ x.n.toNat ≤ 16 ∧ x.lvl.toNat ≤ 5), .unassignedFunction)]
  | .mSave x => wfOff x
  | .mRest x => wfOff x
  | .mWait _ => none
  | .lS x => wfL true 6 false x
  | .lV x => wfL false 0 false x
  | .lVp x => wfL false 2 false x
  | .lG _ => none
  | .lB x => wfL false 2 false x
  | .lFe x => wfL false 0 true x
  | .lScl _ => none
  | .lRcv _ => none
  | .lAadd x => firstErr [(decide (x.i = 0 → x.b.toNat % 2 ^ 38 = 0), .reservedField),
      (decide (x.i = 0 → sregOk (x.b.extractLsb' 38 6) = true), .reservedOperand)]
  | .lAli _ => none
  | .lAmov x => firstErr [(sregOk x.sa, .reservedOperand)]
  | .lMpc _ => none
  | .wS x => firstErr [(decide (x.src.toNat < 64), .reservedField), (decide (x.src.toNat < 32), .reservedOperand),
      (decide (x.sz.toNat ≤ 3), .unassignedFunction), (decide (x.k = 0), .reservedField)]
  | .wV x => wfWv 0 (fun _ => 1) x
  | .wVp x => wfWv 2 (fun sz => 64 / 2 ^ sz) x
  | .wSc x => firstErr [(vportOk x.vs && vportOk x.vi, .unassignedFunction)]
  | .wFe x => wfWv 0 (fun _ => 16) x
  | .wAtom x => firstErr [(sregOk x.sd && sregOk x.sv, .reservedOperand), (aopTyOk x.aop x.ty, .unassignedFunction)]
  | .wCas x => firstErr [(sregOk x.sd && sregOk x.sc && sregOk x.sn, .reservedOperand), (decide (x.ty.toNat ≤ 2), .unassignedFunction)]
  | .wRed x => wfRed x
  | .wSnd x => firstErr [(vportOk x.vs, .unassignedFunction)]
  | .cShp x => firstErr [(sregOk x.sa, .reservedOperand)]
  | .cGo _ => none
  | .cRing x => firstErr [(decide (1 ≤ x.size.toNat ∧ x.base.toNat + x.size.toNat ≤ 8192), .unassignedFunction)]
  | .cIcinv x => firstErr [(sregOk x.sl, .reservedOperand), (decide (x.scope.toNat ≤ 4), .unassignedFunction)]
  | .cL2wb x => firstErr [(sregOk x.sl, .reservedOperand)]
  | .cL2inv x => firstErr [(sregOk x.sl, .reservedOperand)]
  | .cGq _ => none
  | .cSeal x => firstErr [(decide (x.mode.toNat ≤ 2), .unassignedFunction)]
  | .yTlwait x => firstErr [(sregOk x.sa, .reservedOperand)]
  | .yTladv x => firstErr [(sregOk x.sa, .reservedOperand)]
  | .yTlread x => firstErr [(sregOk x.sd, .reservedOperand)]
  | .yPhreg x => firstErr [(decide (x.mode.toNat ≤ 2), .unassignedFunction)]
  | .yPhdrop _ => none
  | .yPhsig _ => none
  | .yPhwait _ => none
  | .yFence x => firstErr [(scopeOk x.scope, .unassignedFunction)]
  | .yDrain x => firstErr [(scopeOk x.scope, .unassignedFunction)]
  | .yClm x => firstErr [(sregOk x.sk && sregOk x.sv && sregOk x.sh, .reservedOperand)]
  | .yObj x => firstErr [(sregOk x.sk && sregOk x.sh, .reservedOperand)]
  | .yClwait x => firstErr [(sregOk x.sk && sregOk x.sh, .reservedOperand)]
  | .yClread x => firstErr [(sregOk x.sd && sregOk x.sk && sregOk x.sh, .reservedOperand)]
  | .ySpawn x => firstErr [(sregOk x.se && sregOk x.sm, .reservedOperand), (decide (1 ≤ x.ab.toNat ∧ x.ab.toNat ≤ 24), .unassignedFunction)]
  | .yJoin _ => none
  | .yRetire _ => none
  | .yTrap _ => none
  | .yTret _ => none
  | .yGeninc _ => none
  | .yEvt x => firstErr [(sregOk x.sa, .reservedOperand)]
  | .yDbg _ => none
  | _ => none

/-- An operation whose fields hold only values its entry assigns. -/
def Instr.wf (i : Instr) : Bool := i.wfError.isNone

end Sys2Proof
end

