-- ==== Sys2Proof/Decode.lean ====
section
/-! DEFINITION. The decoder, total on every bundle and refusing by name, and after it the encoder, both written from the
encoding tables of the spec (R37 to R44, R103, R130, R157, R184, R191, R204, R222). A slot or a bundle is read as one number
whose bit 0 is its least significant bit (R38, R39). -/

namespace Sys2Proof

/-- Bits [lo + n - 1 : lo] of a number. -/
def fld (w lo n : Nat) : BitVec n := BitVec.ofNat n (w / 2 ^ lo)

/-! ### Layouts: the fields of a slot word, and the word of the fields -/

/-- Layout A (R103): `s.add` to `s.maxz`. -/
def LayA.ofWord (w : Nat) : LayA :=
  { grd := fld w 53 3, d := fld w 47 6, a := fld w 41 6, i := fld w 40 1, b := fld w 0 40 }
/-- The slot word with major opcode `opc` and the fields of the layout; reserved fields are zero. -/
def LayA.toWord (opc : Nat) (x : LayA) : Nat :=
  opc * 2 ^ 56 + x.grd.toNat * 2 ^ 53 + x.d.toNat * 2 ^ 47 + x.a.toNat * 2 ^ 41 + x.i.toNat * 2 ^ 40 + x.b.toNat

/-- Layout C (R103): `s.cmp`. -/
def LayC.ofWord (w : Nat) : LayC :=
  { grd := fld w 53 3, cond := fld w 49 4, qd := fld w 46 3, a := fld w 40 6, i := fld w 39 1, b := fld w 0 39 }
/-- The slot word with major opcode `opc` and the fields of the layout; reserved fields are zero. -/
def LayC.toWord (opc : Nat) (x : LayC) : Nat :=
  opc * 2 ^ 56 + x.grd.toNat * 2 ^ 53 + x.cond.toNat * 2 ^ 49 + x.qd.toNat * 2 ^ 46 + x.a.toNat * 2 ^ 40 + x.i.toNat * 2 ^ 39 + x.b.toNat

/-- Layout S (R103): `s.sel`. -/
def LayS.ofWord (w : Nat) : LayS :=
  { grd := fld w 53 3, d := fld w 47 6, a := fld w 41 6, sb := fld w 35 6, qc := fld w 32 3 }
/-- The slot word with major opcode `opc` and the fields of the layout; reserved fields are zero. -/
def LayS.toWord (opc : Nat) (x : LayS) : Nat :=
  opc * 2 ^ 56 + x.grd.toNat * 2 ^ 53 + x.d.toNat * 2 ^ 47 + x.a.toNat * 2 ^ 41 + x.sb.toNat * 2 ^ 35 + x.qc.toNat * 2 ^ 32

/-- Layout K (R103): `s.li`. -/
def LayK.ofWord (w : Nat) : LayK :=
  { grd := fld w 53 3, d := fld w 47 6, imm := fld w 0 47 }
/-- The slot word with major opcode `opc` and the fields of the layout; reserved fields are zero. -/
def LayK.toWord (opc : Nat) (x : LayK) : Nat :=
  opc * 2 ^ 56 + x.grd.toNat * 2 ^ 53 + x.d.toNat * 2 ^ 47 + x.imm.toNat

/-- Layout H (R103): `s.lih`. -/
def LayH.ofWord (w : Nat) : LayH :=
  { grd := fld w 53 3, d := fld w 47 6, imm := fld w 0 32 }
/-- The slot word with major opcode `opc` and the fields of the layout; reserved fields are zero. -/
def LayH.toWord (opc : Nat) (x : LayH) : Nat :=
  opc * 2 ^ 56 + x.grd.toNat * 2 ^ 53 + x.d.toNat * 2 ^ 47 + x.imm.toNat

/-- Layout F (R103): `s.ext`, `s.ins`. -/
def LayF.ofWord (w : Nat) : LayF :=
  { grd := fld w 53 3, d := fld w 47 6, a := fld w 41 6, lsb := fld w 35 6, width := fld w 28 7 }
/-- The slot word with major opcode `opc` and the fields of the layout; reserved fields are zero. -/
def LayF.toWord (opc : Nat) (x : LayF) : Nat :=
  opc * 2 ^ 56 + x.grd.toNat * 2 ^ 53 + x.d.toNat * 2 ^ 47 + x.a.toNat * 2 ^ 41 + x.lsb.toNat * 2 ^ 35 + x.width.toNat * 2 ^ 28

/-- Layout B (R103): `s.br`, `s.call`. -/
def LayB.ofWord (w : Nat) : LayB :=
  { grd := fld w 53 3, off := fld w 0 32 }
/-- The slot word with major opcode `opc` and the fields of the layout; reserved fields are zero. -/
def LayB.toWord (opc : Nat) (x : LayB) : Nat :=
  opc * 2 ^ 56 + x.grd.toNat * 2 ^ 53 + x.off.toNat

/-- Layout J (R103): `s.brc`. -/
def LayJ.ofWord (w : Nat) : LayJ :=
  { grd := fld w 53 3, cond := fld w 49 4, a := fld w 43 6, sb := fld w 37 6, off := fld w 0 32 }
/-- The slot word with major opcode `opc` and the fields of the layout; reserved fields are zero. -/
def LayJ.toWord (opc : Nat) (x : LayJ) : Nat :=
  opc * 2 ^ 56 + x.grd.toNat * 2 ^ 53 + x.cond.toNat * 2 ^ 49 + x.a.toNat * 2 ^ 43 + x.sb.toNat * 2 ^ 37 + x.off.toNat

/-- Layout I (R103): `s.jr`. -/
def LayI.ofWord (w : Nat) : LayI :=
  { grd := fld w 53 3, a := fld w 41 6 }
/-- The slot word with major opcode `opc` and the fields of the layout; reserved fields are zero. -/
def LayI.toWord (opc : Nat) (x : LayI) : Nat :=
  opc * 2 ^ 56 + x.grd.toNat * 2 ^ 53 + x.a.toNat * 2 ^ 41

/-- Layout Z (R103): `s.ret`. -/
def LayZ.ofWord (w : Nat) : LayZ :=
  { grd := fld w 53 3 }
/-- The slot word with major opcode `opc` and the fields of the layout; reserved fields are zero. -/
def LayZ.toWord (opc : Nat) (x : LayZ) : Nat :=
  opc * 2 ^ 56 + x.grd.toNat * 2 ^ 53

/-- Layout P (R103): `s.loop`; with i = 0 the top six bits of `cnt` are sc. -/
def LayP.ofWord (w : Nat) : LayP :=
  { grd := fld w 53 3, lvl := fld w 50 3, i := fld w 49 1, cnt := fld w 28 21, len := fld w 0 28 }
/-- The slot word with major opcode `opc` and the fields of the layout; reserved fields are zero. -/
def LayP.toWord (opc : Nat) (x : LayP) : Nat :=
  opc * 2 ^ 56 + x.grd.toNat * 2 ^ 53 + x.lvl.toNat * 2 ^ 50 + x.i.toNat * 2 ^ 49 + x.cnt.toNat * 2 ^ 28 + x.len.toNat

/-- Layout Q (R103): `s.lbrk`. -/
def LayQ.ofWord (w : Nat) : LayQ :=
  { grd := fld w 53 3, lvl := fld w 50 3 }
/-- The slot word with major opcode `opc` and the fields of the layout; reserved fields are zero. -/
def LayQ.toWord (opc : Nat) (x : LayQ) : Nat :=
  opc * 2 ^ 56 + x.grd.toNat * 2 ^ 53 + x.lvl.toNat * 2 ^ 50

/-- Layout T (R103): `s.rdsr` (r is d), `s.wrsr` (r is a). -/
def LayT.ofWord (w : Nat) : LayT :=
  { grd := fld w 53 3, r := fld w 47 6, sr := fld w 37 10 }
/-- The slot word with major opcode `opc` and the fields of the layout; reserved fields are zero. -/
def LayT.toWord (opc : Nat) (x : LayT) : Nat :=
  opc * 2 ^ 56 + x.grd.toNat * 2 ^ 53 + x.r.toNat * 2 ^ 47 + x.sr.toNat * 2 ^ 37

/-- Layout V (R103): `s.fromv`. -/
def LayV.ofWord (w : Nat) : LayV :=
  { grd := fld w 53 3, d := fld w 47 6, vsel := fld w 42 5, word := fld w 37 5 }
/-- The slot word with major opcode `opc` and the fields of the layout; reserved fields are zero. -/
def LayV.toWord (opc : Nat) (x : LayV) : Nat :=
  opc * 2 ^ 56 + x.grd.toNat * 2 ^ 53 + x.d.toNat * 2 ^ 47 + x.vsel.toNat * 2 ^ 42 + x.word.toNat * 2 ^ 37

/-- Layout M (R103): `s.froma`. -/
def LayM.ofWord (w : Nat) : LayM :=
  { grd := fld w 53 3, d := fld w 47 6, an := fld w 43 4 }
/-- The slot word with major opcode `opc` and the fields of the layout; reserved fields are zero. -/
def LayM.toWord (opc : Nat) (x : LayM) : Nat :=
  opc * 2 ^ 56 + x.grd.toNat * 2 ^ 53 + x.d.toNat * 2 ^ 47 + x.an.toNat * 2 ^ 43

/-- The layout of every vector operation (R130). -/
def VFields.ofWord (w : Nat) : VFields :=
  { grd := fld w 53 3, d := fld w 46 7, a := fld w 39 7, b := fld w 32 7, c := fld w 25 7, ty := fld w 21 4, rm := fld w 19 2, sat := fld w 18 1, i := fld w 17 1, fn := fld w 13 4, k := fld w 4 9 }
/-- The slot word with major opcode `opc` and the fields of the layout; reserved fields are zero. -/
def VFields.toWord (opc : Nat) (x : VFields) : Nat :=
  opc * 2 ^ 56 + x.grd.toNat * 2 ^ 53 + x.d.toNat * 2 ^ 46 + x.a.toNat * 2 ^ 39 + x.b.toNat * 2 ^ 32 + x.c.toNat * 2 ^ 25 + x.ty.toNat * 2 ^ 21 + x.rm.toNat * 2 ^ 19 + x.sat.toNat * 2 ^ 18 + x.i.toNat * 2 ^ 17 + x.fn.toNat * 2 ^ 13 + x.k.toNat * 2 ^ 4

/-- `m.mma`, `m.mms` (R157). -/
def LayMma.ofWord (w : Nat) : LayMma :=
  { grd := fld w 53 3, td := fld w 50 3, ba := fld w 46 4, bw := fld w 42 4, v := fld w 41 1, vr := fld w 35 6, sel := fld w 33 2 }
/-- The slot word with major opcode `opc` and the fields of the layout; reserved fields are zero. -/
def LayMma.toWord (opc : Nat) (x : LayMma) : Nat :=
  opc * 2 ^ 56 + x.grd.toNat * 2 ^ 53 + x.td.toNat * 2 ^ 50 + x.ba.toNat * 2 ^ 46 + x.bw.toNat * 2 ^ 42 + x.v.toNat * 2 ^ 41 + x.vr.toNat * 2 ^ 35 + x.sel.toNat * 2 ^ 33

/-- `m.zero`, `m.wait` (R157): one tile. -/
def LayMT.ofWord (w : Nat) : LayMT :=
  { grd := fld w 53 3, t := fld w 50 3 }
/-- The slot word with major opcode `opc` and the fields of the layout; reserved fields are zero. -/
def LayMT.toWord (opc : Nat) (x : LayMT) : Nat :=
  opc * 2 ^ 56 + x.grd.toNat * 2 ^ 53 + x.t.toNat * 2 ^ 50

/-- `m.acc` (R157). -/
def LayMAcc.ofWord (w : Nat) : LayMAcc :=
  { grd := fld w 53 3, td := fld w 50 3, ts := fld w 47 3 }
/-- The slot word with major opcode `opc` and the fields of the layout; reserved fields are zero. -/
def LayMAcc.toWord (opc : Nat) (x : LayMAcc) : Nat :=
  opc * 2 ^ 56 + x.grd.toNat * 2 ^ 53 + x.td.toNat * 2 ^ 50 + x.ts.toNat * 2 ^ 47

/-- `m.rd` (R157). -/
def LayMRd.ofWord (w : Nat) : LayMRd :=
  { grd := fld w 53 3, d := fld w 46 7, ts := fld w 43 3, k := fld w 39 4 }
/-- The slot word with major opcode `opc` and the fields of the layout; reserved fields are zero. -/
def LayMRd.toWord (opc : Nat) (x : LayMRd) : Nat :=
  opc * 2 ^ 56 + x.grd.toNat * 2 ^ 53 + x.d.toNat * 2 ^ 46 + x.ts.toNat * 2 ^ 43 + x.k.toNat * 2 ^ 39

/-- `m.wr` (R157). -/
def LayMWr.ofWord (w : Nat) : LayMWr :=
  { grd := fld w 53 3, td := fld w 50 3, vs := fld w 43 7, k := fld w 39 4 }
/-- The slot word with major opcode `opc` and the fields of the layout; reserved fields are zero. -/
def LayMWr.toWord (opc : Nat) (x : LayMWr) : Nat :=
  opc * 2 ^ 56 + x.grd.toNat * 2 ^ 53 + x.td.toNat * 2 ^ 50 + x.vs.toNat * 2 ^ 43 + x.k.toNat * 2 ^ 39

/-- `m.st`, `m.save`, `m.rest` (R157): a tile and an offset in units of 256 bytes. -/
def LayMOff.ofWord (w : Nat) : LayMOff :=
  { grd := fld w 53 3, t := fld w 50 3, off := fld w 37 13 }
/-- The slot word with major opcode `opc` and the fields of the layout; reserved fields are zero. -/
def LayMOff.toWord (opc : Nat) (x : LayMOff) : Nat :=
  opc * 2 ^ 56 + x.grd.toNat * 2 ^ 53 + x.t.toNat * 2 ^ 50 + x.off.toNat * 2 ^ 37

/-- `m.fmt` (R157). -/
def LayMFmt.ofWord (w : Nat) : LayMFmt :=
  { grd := fld w 53 3, fb := fld w 49 4, n := fld w 44 5, lvl := fld w 41 3 }
/-- The slot word with major opcode `opc` and the fields of the layout; reserved fields are zero. -/
def LayMFmt.toWord (opc : Nat) (x : LayMFmt) : Nat :=
  opc * 2 ^ 56 + x.grd.toNat * 2 ^ 53 + x.fb.toNat * 2 ^ 49 + x.n.toNat * 2 ^ 44 + x.lvl.toNat * 2 ^ 41

/-- `l.s`, `l.v`, `l.vp`, `l.b`, `l.fe` (R184). -/
def LayL.ofWord (w : Nat) : LayL :=
  { grd := fld w 53 3, d := fld w 47 6, an := fld w 43 4, sz := fld w 40 3, fq := fld w 24 2, off := fld w 0 24 }
/-- The slot word with major opcode `opc` and the fields of the layout; reserved fields are zero. -/
def LayL.toWord (opc : Nat) (x : LayL) : Nat :=
  opc * 2 ^ 56 + x.grd.toNat * 2 ^ 53 + x.d.toNat * 2 ^ 47 + x.an.toNat * 2 ^ 43 + x.sz.toNat * 2 ^ 40 + x.fq.toNat * 2 ^ 24 + x.off.toNat

/-- `l.g` (R184). -/
def LayLG.ofWord (w : Nat) : LayLG :=
  { grd := fld w 53 3, d := fld w 47 6, ab := fld w 43 4, ai := fld w 39 4, off := fld w 0 24 }
/-- The slot word with major opcode `opc` and the fields of the layout; reserved fields are zero. -/
def LayLG.toWord (opc : Nat) (x : LayLG) : Nat :=
  opc * 2 ^ 56 + x.grd.toNat * 2 ^ 53 + x.d.toNat * 2 ^ 47 + x.ab.toNat * 2 ^ 43 + x.ai.toNat * 2 ^ 39 + x.off.toNat

/-- `l.scl`, `l.mpc` (R184). -/
def LayLAn.ofWord (w : Nat) : LayLAn :=
  { grd := fld w 53 3, an := fld w 43 4, off := fld w 0 24 }
/-- The slot word with major opcode `opc` and the fields of the layout; reserved fields are zero. -/
def LayLAn.toWord (opc : Nat) (x : LayLAn) : Nat :=
  opc * 2 ^ 56 + x.grd.toNat * 2 ^ 53 + x.an.toNat * 2 ^ 43 + x.off.toNat

/-- `l.rcv` (R184). -/
def LayLRcv.ofWord (w : Nat) : LayLRcv :=
  { grd := fld w 53 3, d := fld w 47 6, ch := fld w 43 4 }
/-- The slot word with major opcode `opc` and the fields of the layout; reserved fields are zero. -/
def LayLRcv.toWord (opc : Nat) (x : LayLRcv) : Nat :=
  opc * 2 ^ 56 + x.grd.toNat * 2 ^ 53 + x.d.toNat * 2 ^ 47 + x.ch.toNat * 2 ^ 43

/-- `l.aadd` (R184). -/
def LayLAadd.ofWord (w : Nat) : LayLAadd :=
  { grd := fld w 53 3, ad := fld w 49 4, an := fld w 45 4, i := fld w 44 1, b := fld w 0 44 }
/-- The slot word with major opcode `opc` and the fields of the layout; reserved fields are zero. -/
def LayLAadd.toWord (opc : Nat) (x : LayLAadd) : Nat :=
  opc * 2 ^ 56 + x.grd.toNat * 2 ^ 53 + x.ad.toNat * 2 ^ 49 + x.an.toNat * 2 ^ 45 + x.i.toNat * 2 ^ 44 + x.b.toNat

/-- `l.ali` (R184). -/
def LayLAli.ofWord (w : Nat) : LayLAli :=
  { grd := fld w 53 3, ad := fld w 49 4, imm := fld w 0 48 }
/-- The slot word with major opcode `opc` and the fields of the layout; reserved fields are zero. -/
def LayLAli.toWord (opc : Nat) (x : LayLAli) : Nat :=
  opc * 2 ^ 56 + x.grd.toNat * 2 ^ 53 + x.ad.toNat * 2 ^ 49 + x.imm.toNat

/-- `l.amov` (R184). -/
def LayLAmov.ofWord (w : Nat) : LayLAmov :=
  { grd := fld w 53 3, ad := fld w 49 4, sa := fld w 43 6 }
/-- The slot word with major opcode `opc` and the fields of the layout; reserved fields are zero. -/
def LayLAmov.toWord (opc : Nat) (x : LayLAmov) : Nat :=
  opc * 2 ^ 56 + x.grd.toNat * 2 ^ 53 + x.ad.toNat * 2 ^ 49 + x.sa.toNat * 2 ^ 43

/-- `w.s`, `w.v`, `w.vp`, `w.fe` (R191). -/
def LayW.ofWord (w : Nat) : LayW :=
  { grd := fld w 53 3, src := fld w 46 7, an := fld w 42 4, sz := fld w 39 3, k := fld w 32 7, off := fld w 0 24 }
/-- The slot word with major opcode `opc` and the fields of the layout; reserved fields are zero. -/
def LayW.toWord (opc : Nat) (x : LayW) : Nat :=
  opc * 2 ^ 56 + x.grd.toNat * 2 ^ 53 + x.src.toNat * 2 ^ 46 + x.an.toNat * 2 ^ 42 + x.sz.toNat * 2 ^ 39 + x.k.toNat * 2 ^ 32 + x.off.toNat

/-- `w.sc` (R191). -/
def LayWSc.ofWord (w : Nat) : LayWSc :=
  { grd := fld w 53 3, vs := fld w 46 7, an := fld w 42 4, vi := fld w 35 7, off := fld w 0 24 }
/-- The slot word with major opcode `opc` and the fields of the layout; reserved fields are zero. -/
def LayWSc.toWord (opc : Nat) (x : LayWSc) : Nat :=
  opc * 2 ^ 56 + x.grd.toNat * 2 ^ 53 + x.vs.toNat * 2 ^ 46 + x.an.toNat * 2 ^ 42 + x.vi.toNat * 2 ^ 35 + x.off.toNat

/-- `w.atom` (R191). -/
def LayWAtom.ofWord (w : Nat) : LayWAtom :=
  { grd := fld w 53 3, sd := fld w 47 6, sv := fld w 41 6, an := fld w 37 4, aop := fld w 33 4, ty := fld w 31 2, off := fld w 0 24 }
/-- The slot word with major opcode `opc` and the fields of the layout; reserved fields are zero. -/
def LayWAtom.toWord (opc : Nat) (x : LayWAtom) : Nat :=
  opc * 2 ^ 56 + x.grd.toNat * 2 ^ 53 + x.sd.toNat * 2 ^ 47 + x.sv.toNat * 2 ^ 41 + x.an.toNat * 2 ^ 37 + x.aop.toNat * 2 ^ 33 + x.ty.toNat * 2 ^ 31 + x.off.toNat

/-- `w.cas` (R191). -/
def LayWCas.ofWord (w : Nat) : LayWCas :=
  { grd := fld w 53 3, sd := fld w 47 6, sc := fld w 41 6, sn := fld w 35 6, an := fld w 31 4, ty := fld w 29 2, off := fld w 0 24 }
/-- The slot word with major opcode `opc` and the fields of the layout; reserved fields are zero. -/
def LayWCas.toWord (opc : Nat) (x : LayWCas) : Nat :=
  opc * 2 ^ 56 + x.grd.toNat * 2 ^ 53 + x.sd.toNat * 2 ^ 47 + x.sc.toNat * 2 ^ 41 + x.sn.toNat * 2 ^ 35 + x.an.toNat * 2 ^ 31 + x.ty.toNat * 2 ^ 29 + x.off.toNat

/-- `w.red` (R191). -/
def LayWRed.ofWord (w : Nat) : LayWRed :=
  { grd := fld w 53 3, src := fld w 46 7, vec := fld w 45 1, an := fld w 41 4, aop := fld w 37 4, ty := fld w 35 2, off := fld w 0 24 }
/-- The slot word with major opcode `opc` and the fields of the layout; reserved fields are zero. -/
def LayWRed.toWord (opc : Nat) (x : LayWRed) : Nat :=
  opc * 2 ^ 56 + x.grd.toNat * 2 ^ 53 + x.src.toNat * 2 ^ 46 + x.vec.toNat * 2 ^ 45 + x.an.toNat * 2 ^ 41 + x.aop.toNat * 2 ^ 37 + x.ty.toNat * 2 ^ 35 + x.off.toNat

/-- `w.snd` (R191). -/
def LayWSnd.ofWord (w : Nat) : LayWSnd :=
  { grd := fld w 53 3, vs := fld w 46 7, ch := fld w 42 4 }
/-- The slot word with major opcode `opc` and the fields of the layout; reserved fields are zero. -/
def LayWSnd.toWord (opc : Nat) (x : LayWSnd) : Nat :=
  opc * 2 ^ 56 + x.grd.toNat * 2 ^ 53 + x.vs.toNat * 2 ^ 46 + x.ch.toNat * 2 ^ 42

/-- `c.shp` (R204). -/
def LayCShp.ofWord (w : Nat) : LayCShp :=
  { grd := fld w 39 3, hd := fld w 35 4, sa := fld w 29 6 }
/-- The slot word with major opcode `opc` and the fields of the layout; reserved fields are zero. -/
def LayCShp.toWord (opc : Nat) (x : LayCShp) : Nat :=
  opc * 2 ^ 42 + x.grd.toNat * 2 ^ 39 + x.hd.toNat * 2 ^ 35 + x.sa.toNat * 2 ^ 29

/-- `c.go` (R204). -/
def LayCGo.ofWord (w : Nat) : LayCGo :=
  { grd := fld w 39 3, dk := fld w 38 1, dst := fld w 34 4, src := fld w 30 4, hs := fld w 26 4, tl := fld w 14 12 }
/-- The slot word with major opcode `opc` and the fields of the layout; reserved fields are zero. -/
def LayCGo.toWord (opc : Nat) (x : LayCGo) : Nat :=
  opc * 2 ^ 42 + x.grd.toNat * 2 ^ 39 + x.dk.toNat * 2 ^ 38 + x.dst.toNat * 2 ^ 34 + x.src.toNat * 2 ^ 30 + x.hs.toNat * 2 ^ 26 + x.tl.toNat * 2 ^ 14

/-- `c.ring` (R204). -/
def LayCRing.ofWord (w : Nat) : LayCRing :=
  { grd := fld w 39 3, b := fld w 35 4, base := fld w 22 13, size := fld w 8 14 }
/-- The slot word with major opcode `opc` and the fields of the layout; reserved fields are zero. -/
def LayCRing.toWord (opc : Nat) (x : LayCRing) : Nat :=
  opc * 2 ^ 42 + x.grd.toNat * 2 ^ 39 + x.b.toNat * 2 ^ 35 + x.base.toNat * 2 ^ 22 + x.size.toNat * 2 ^ 8

/-- `c.icinv` (R204). -/
def LayCIc.ofWord (w : Nat) : LayCIc :=
  { grd := fld w 39 3, an := fld w 35 4, sl := fld w 29 6, scope := fld w 25 4, tl := fld w 13 12 }
/-- The slot word with major opcode `opc` and the fields of the layout; reserved fields are zero. -/
def LayCIc.toWord (opc : Nat) (x : LayCIc) : Nat :=
  opc * 2 ^ 42 + x.grd.toNat * 2 ^ 39 + x.an.toNat * 2 ^ 35 + x.sl.toNat * 2 ^ 29 + x.scope.toNat * 2 ^ 25 + x.tl.toNat * 2 ^ 13

/-- `c.l2wb`, `c.l2inv` (R204). -/
def LayCL2.ofWord (w : Nat) : LayCL2 :=
  { grd := fld w 39 3, an := fld w 35 4, sl := fld w 29 6, tl := fld w 13 12 }
/-- The slot word with major opcode `opc` and the fields of the layout; reserved fields are zero. -/
def LayCL2.toWord (opc : Nat) (x : LayCL2) : Nat :=
  opc * 2 ^ 42 + x.grd.toNat * 2 ^ 39 + x.an.toNat * 2 ^ 35 + x.sl.toNat * 2 ^ 29 + x.tl.toNat * 2 ^ 13

/-- `c.gq` (R204). -/
def LayCGq.ofWord (w : Nat) : LayCGq :=
  { grd := fld w 39 3, an := fld w 35 4, gq := fld w 31 4, tl := fld w 19 12 }
/-- The slot word with major opcode `opc` and the fields of the layout; reserved fields are zero. -/
def LayCGq.toWord (opc : Nat) (x : LayCGq) : Nat :=
  opc * 2 ^ 42 + x.grd.toNat * 2 ^ 39 + x.an.toNat * 2 ^ 35 + x.gq.toNat * 2 ^ 31 + x.tl.toNat * 2 ^ 19

/-- `c.seal` (R204). -/
def LayCSeal.ofWord (w : Nat) : LayCSeal :=
  { grd := fld w 39 3, tpl := fld w 34 5, mode := fld w 32 2 }
/-- The slot word with major opcode `opc` and the fields of the layout; reserved fields are zero. -/
def LayCSeal.toWord (opc : Nat) (x : LayCSeal) : Nat :=
  opc * 2 ^ 42 + x.grd.toNat * 2 ^ 39 + x.tpl.toNat * 2 ^ 34 + x.mode.toNat * 2 ^ 32

/-- `y.tlwait`, `y.tladv` (R222). -/
def LayYTl.ofWord (w : Nat) : LayYTl :=
  { grd := fld w 39 3, tl := fld w 27 12, sa := fld w 21 6 }
/-- The slot word with major opcode `opc` and the fields of the layout; reserved fields are zero. -/
def LayYTl.toWord (opc : Nat) (x : LayYTl) : Nat :=
  opc * 2 ^ 42 + x.grd.toNat * 2 ^ 39 + x.tl.toNat * 2 ^ 27 + x.sa.toNat * 2 ^ 21

/-- `y.tlread` (R222). -/
def LayYTlr.ofWord (w : Nat) : LayYTlr :=
  { grd := fld w 39 3, sd := fld w 33 6, tl := fld w 21 12 }
/-- The slot word with major opcode `opc` and the fields of the layout; reserved fields are zero. -/
def LayYTlr.toWord (opc : Nat) (x : LayYTlr) : Nat :=
  opc * 2 ^ 42 + x.grd.toNat * 2 ^ 39 + x.sd.toNat * 2 ^ 33 + x.tl.toNat * 2 ^ 21

/-- `y.phreg` (R222). -/
def LayYPhr.ofWord (w : Nat) : LayYPhr :=
  { grd := fld w 39 3, ph := fld w 29 10, mode := fld w 27 2 }
/-- The slot word with major opcode `opc` and the fields of the layout; reserved fields are zero. -/
def LayYPhr.toWord (opc : Nat) (x : LayYPhr) : Nat :=
  opc * 2 ^ 42 + x.grd.toNat * 2 ^ 39 + x.ph.toNat * 2 ^ 29 + x.mode.toNat * 2 ^ 27

/-- `y.phdrop`, `y.phsig`, `y.phwait` (R222). -/
def LayYPh.ofWord (w : Nat) : LayYPh :=
  { grd := fld w 39 3, ph := fld w 29 10 }
/-- The slot word with major opcode `opc` and the fields of the layout; reserved fields are zero. -/
def LayYPh.toWord (opc : Nat) (x : LayYPh) : Nat :=
  opc * 2 ^ 42 + x.grd.toNat * 2 ^ 39 + x.ph.toNat * 2 ^ 29

/-- `y.fence`, `y.drain` (R222). -/
def LayYScope.ofWord (w : Nat) : LayYScope :=
  { grd := fld w 39 3, scope := fld w 35 4 }
/-- The slot word with major opcode `opc` and the fields of the layout; reserved fields are zero. -/
def LayYScope.toWord (opc : Nat) (x : LayYScope) : Nat :=
  opc * 2 ^ 42 + x.grd.toNat * 2 ^ 39 + x.scope.toNat * 2 ^ 35

/-- `y.clm` (R222). -/
def LayYClm.ofWord (w : Nat) : LayYClm :=
  { grd := fld w 39 3, sk := fld w 33 6, sv := fld w 27 6, sh := fld w 21 6 }
/-- The slot word with major opcode `opc` and the fields of the layout; reserved fields are zero. -/
def LayYClm.toWord (opc : Nat) (x : LayYClm) : Nat :=
  opc * 2 ^ 42 + x.grd.toNat * 2 ^ 39 + x.sk.toNat * 2 ^ 33 + x.sv.toNat * 2 ^ 27 + x.sh.toNat * 2 ^ 21

/-- `y.obj`, `y.clwait` (R222). -/
def LayYObj.ofWord (w : Nat) : LayYObj :=
  { grd := fld w 39 3, sk := fld w 33 6, sh := fld w 27 6 }
/-- The slot word with major opcode `opc` and the fields of the layout; reserved fields are zero. -/
def LayYObj.toWord (opc : Nat) (x : LayYObj) : Nat :=
  opc * 2 ^ 42 + x.grd.toNat * 2 ^ 39 + x.sk.toNat * 2 ^ 33 + x.sh.toNat * 2 ^ 27

/-- `y.clread` (R222). -/
def LayYClr.ofWord (w : Nat) : LayYClr :=
  { grd := fld w 39 3, sd := fld w 33 6, sk := fld w 27 6, sh := fld w 21 6 }
/-- The slot word with major opcode `opc` and the fields of the layout; reserved fields are zero. -/
def LayYClr.toWord (opc : Nat) (x : LayYClr) : Nat :=
  opc * 2 ^ 42 + x.grd.toNat * 2 ^ 39 + x.sd.toNat * 2 ^ 33 + x.sk.toNat * 2 ^ 27 + x.sh.toNat * 2 ^ 21

/-- `y.spawn` (R222). -/
def LayYSpawn.ofWord (w : Nat) : LayYSpawn :=
  { grd := fld w 39 3, sib := fld w 37 2, se := fld w 31 6, sm := fld w 25 6, ab := fld w 20 5 }
/-- The slot word with major opcode `opc` and the fields of the layout; reserved fields are zero. -/
def LayYSpawn.toWord (opc : Nat) (x : LayYSpawn) : Nat :=
  opc * 2 ^ 42 + x.grd.toNat * 2 ^ 39 + x.sib.toNat * 2 ^ 37 + x.se.toNat * 2 ^ 31 + x.sm.toNat * 2 ^ 25 + x.ab.toNat * 2 ^ 20

/-- `y.join` (R222). -/
def LayYJoin.ofWord (w : Nat) : LayYJoin :=
  { grd := fld w 39 3, sib := fld w 37 2 }
/-- The slot word with major opcode `opc` and the fields of the layout; reserved fields are zero. -/
def LayYJoin.toWord (opc : Nat) (x : LayYJoin) : Nat :=
  opc * 2 ^ 42 + x.grd.toNat * 2 ^ 39 + x.sib.toNat * 2 ^ 37

/-- `y.retire`, `y.tret`, `y.geninc` (R222). -/
def LayYNone.ofWord (w : Nat) : LayYNone :=
  { grd := fld w 39 3 }
/-- The slot word with major opcode `opc` and the fields of the layout; reserved fields are zero. -/
def LayYNone.toWord (opc : Nat) (x : LayYNone) : Nat :=
  opc * 2 ^ 42 + x.grd.toNat * 2 ^ 39

/-- `y.trap`, `y.dbg` (R222): a 16-bit immediate or code. -/
def LayYImm.ofWord (w : Nat) : LayYImm :=
  { grd := fld w 39 3, imm := fld w 23 16 }
/-- The slot word with major opcode `opc` and the fields of the layout; reserved fields are zero. -/
def LayYImm.toWord (opc : Nat) (x : LayYImm) : Nat :=
  opc * 2 ^ 42 + x.grd.toNat * 2 ^ 39 + x.imm.toNat * 2 ^ 23

/-- `y.evt` (R222). -/
def LayYEvt.ofWord (w : Nat) : LayYEvt :=
  { grd := fld w 39 3, sa := fld w 33 6, code := fld w 17 16 }
/-- The slot word with major opcode `opc` and the fields of the layout; reserved fields are zero. -/
def LayYEvt.toWord (opc : Nat) (x : LayYEvt) : Nat :=
  opc * 2 ^ 42 + x.grd.toNat * 2 ^ 39 + x.sa.toNat * 2 ^ 33 + x.code.toNat * 2 ^ 17

/-! ### Slots -/

/-- The eight slots of a bundle, in the order of R43. -/
inductive Slot where
  | scalar
  | va
  | vb
  | matrix
  | load
  | store
  | copy
  | sync
  deriving DecidableEq, Repr

/-- Position of a slot in a bundle (R37). -/
def Slot.lo : Slot → Nat
  | .scalar => 32 | .va => 96 | .vb => 160 | .matrix => 224 | .load => 288 | .store => 352 | .copy => 416 | .sync => 464

/-- Width of a slot (R37). -/
def Slot.width : Slot → Nat
  | .copy | .sync => 48
  | _ => 64

/-- The code TCAUSE.SLOT gives a slot (R241). -/
def Slot.code : Slot → Nat
  | .scalar => 0 | .va => 1 | .vb => 2 | .matrix => 3 | .load => 4 | .store => 5 | .copy => 6 | .sync => 7

/-- The slots in order. -/
def Slot.all : List Slot := [.scalar, .va, .vb, .matrix, .load, .store, .copy, .sync]

/-- The slot a vector operation stands in. -/
def VSide.slot : VSide → Slot
  | .va => .va
  | .vb => .vb

/-- The operations of the scalar slot's map (R68), by major opcode, with their fields as they stand. -/
def rawScalar (w : Nat) : Option Instr :=
  match w / 2 ^ 56 % 256 with
  | 0x01 => some (.sAdd (LayA.ofWord w))
  | 0x02 => some (.sSub (LayA.ofWord w))
  | 0x03 => some (.sMul (LayA.ofWord w))
  | 0x04 => some (.sMulh (LayA.ofWord w))
  | 0x05 => some (.sMulhz (LayA.ofWord w))
  | 0x06 => some (.sDiv (LayA.ofWord w))
  | 0x07 => some (.sDivz (LayA.ofWord w))
  | 0x08 => some (.sRem (LayA.ofWord w))
  | 0x09 => some (.sAnd (LayA.ofWord w))
  | 0x0A => some (.sOr (LayA.ofWord w))
  | 0x0B => some (.sXor (LayA.ofWord w))
  | 0x0C => some (.sAndn (LayA.ofWord w))
  | 0x0D => some (.sShl (LayA.ofWord w))
  | 0x0E => some (.sShr (LayA.ofWord w))
  | 0x0F => some (.sSra (LayA.ofWord w))
  | 0x10 => some (.sRot (LayA.ofWord w))
  | 0x11 => some (.sClz (LayA.ofWord w))
  | 0x12 => some (.sCtz (LayA.ofWord w))
  | 0x13 => some (.sPopc (LayA.ofWord w))
  | 0x14 => some (.sMin (LayA.ofWord w))
  | 0x15 => some (.sMax (LayA.ofWord w))
  | 0x16 => some (.sMinz (LayA.ofWord w))
  | 0x17 => some (.sMaxz (LayA.ofWord w))
  | 0x18 => some (.sCmp (LayC.ofWord w))
  | 0x19 => some (.sSel (LayS.ofWord w))
  | 0x1A => some (.sLi (LayK.ofWord w))
  | 0x1B => some (.sLih (LayH.ofWord w))
  | 0x1C => some (.sExt (LayF.ofWord w))
  | 0x1D => some (.sIns (LayF.ofWord w))
  | 0x20 => some (.sBr (LayB.ofWord w))
  | 0x21 => some (.sBrc (LayJ.ofWord w))
  | 0x22 => some (.sCall (LayB.ofWord w))
  | 0x23 => some (.sRet (LayZ.ofWord w))
  | 0x24 => some (.sJr (LayI.ofWord w))
  | 0x28 => some (.sLoop (LayP.ofWord w))
  | 0x29 => some (.sLbrk (LayQ.ofWord w))
  | 0x30 => some (.sRdsr (LayT.ofWord w))
  | 0x31 => some (.sWrsr (LayT.ofWord w))
  | 0x38 => some (.sFromv (LayV.ofWord w))
  | 0x39 => some (.sFroma (LayM.ofWord w))
  | _ => none

/-- The operations of the vector slots' map (R69), by major opcode, with their fields as they stand. -/
def rawVector (side : VSide) (w : Nat) : Option Instr :=
  match w / 2 ^ 56 % 256 with
  | 0x01 => some (.vadd side (VFields.ofWord w))
  | 0x02 => some (.vsub side (VFields.ofWord w))
  | 0x03 => some (.vmul side (VFields.ofWord w))
  | 0x04 => some (.vfma side (VFields.ofWord w))
  | 0x05 => some (.vfms side (VFields.ofWord w))
  | 0x06 => some (.vfnma side (VFields.ofWord w))
  | 0x07 => some (.vmin side (VFields.ofWord w))
  | 0x08 => some (.vmax side (VFields.ofWord w))
  | 0x09 => some (.vabs side (VFields.ofWord w))
  | 0x0A => some (.vneg side (VFields.ofWord w))
  | 0x0B => some (.vcmp side (VFields.ofWord w))
  | 0x0C => some (.vclass side (VFields.ofWord w))
  | 0x0D => some (.vrcp side (VFields.ofWord w))
  | 0x0E => some (.vrsqrt side (VFields.ofWord w))
  | 0x0F => some (.vsqrt side (VFields.ofWord w))
  | 0x10 => some (.vdiv side (VFields.ofWord w))
  | 0x11 => some (.vexp2 side (VFields.ofWord w))
  | 0x12 => some (.vlog2 side (VFields.ofWord w))
  | 0x13 => some (.vrnd side (VFields.ofWord w))
  | 0x14 => some (.vscale side (VFields.ofWord w))
  | 0x15 => some (.vcvt side (VFields.ofWord w))
  | 0x18 => some (.vredsum side (VFields.ofWord w))
  | 0x19 => some (.vredmax side (VFields.ofWord w))
  | 0x1A => some (.vredmin side (VFields.ofWord w))
  | 0x20 => some (.viadd side (VFields.ofWord w))
  | 0x21 => some (.visub side (VFields.ofWord w))
  | 0x22 => some (.vimul side (VFields.ofWord w))
  | 0x23 => some (.vimulh side (VFields.ofWord w))
  | 0x24 => some (.vimad side (VFields.ofWord w))
  | 0x25 => some (.vand side (VFields.ofWord w))
  | 0x26 => some (.vor side (VFields.ofWord w))
  | 0x27 => some (.vxor side (VFields.ofWord w))
  | 0x28 => some (.vandn side (VFields.ofWord w))
  | 0x29 => some (.vshl side (VFields.ofWord w))
  | 0x2A => some (.vshr side (VFields.ofWord w))
  | 0x2B => some (.vsra side (VFields.ofWord w))
  | 0x2C => some (.vimin side (VFields.ofWord w))
  | 0x2D => some (.vimax side (VFields.ofWord w))
  | 0x2E => some (.vpopc side (VFields.ofWord w))
  | 0x2F => some (.vclz side (VFields.ofWord w))
  | 0x30 => some (.vicmp side (VFields.ofWord w))
  | 0x38 => some (.vperm side (VFields.ofWord w))
  | 0x39 => some (.vbcast side (VFields.ofWord w))
  | 0x3A => some (.vlsh side (VFields.ofWord w))
  | 0x3B => some (.vzip side (VFields.ofWord w))
  | 0x3C => some (.vunzip side (VFields.ofWord w))
  | 0x3D => some (.vrev side (VFields.ofWord w))
  | 0x3E => some (.vsel side (VFields.ofWord w))
  | 0x3F => some (.vcompress side (VFields.ofWord w))
  | 0x40 => some (.vexpand side (VFields.ofWord w))
  | 0x48 => some (.pand side (VFields.ofWord w))
  | 0x49 => some (.por side (VFields.ofWord w))
  | 0x4A => some (.pxor side (VFields.ofWord w))
  | 0x4B => some (.pnot side (VFields.ofWord w))
  | 0x4C => some (.pcnt side (VFields.ofWord w))
  | 0x4D => some (.pfirst side (VFields.ofWord w))
  | 0x4E => some (.pset side (VFields.ofWord w))
  | 0x50 => some (.vqnt side (VFields.ofWord w))
  | 0x51 => some (.vgmax side (VFields.ofWord w))
  | 0x58 => some (.tos side (VFields.ofWord w))
  | 0x59 => some (.froms side (VFields.ofWord w))
  | _ => none

/-- The operations of the matrix slot's map (R70), by major opcode, with their fields as they stand. -/
def rawMatrix (w : Nat) : Option Instr :=
  match w / 2 ^ 56 % 256 with
  | 0x01 => some (.mMma (LayMma.ofWord w))
  | 0x02 => some (.mMms (LayMma.ofWord w))
  | 0x03 => some (.mZero (LayMT.ofWord w))
  | 0x04 => some (.mAcc (LayMAcc.ofWord w))
  | 0x08 => some (.mRd (LayMRd.ofWord w))
  | 0x09 => some (.mWr (LayMWr.ofWord w))
  | 0x0A => some (.mSt (LayMOff.ofWord w))
  | 0x10 => some (.mFmt (LayMFmt.ofWord w))
  | 0x18 => some (.mSave (LayMOff.ofWord w))
  | 0x19 => some (.mRest (LayMOff.ofWord w))
  | 0x1A => some (.mWait (LayMT.ofWord w))
  | _ => none

/-- The operations of the load slot's map (R71), by major opcode, with their fields as they stand. -/
def rawLoad (w : Nat) : Option Instr :=
  match w / 2 ^ 56 % 256 with
  | 0x01 => some (.lS (LayL.ofWord w))
  | 0x02 => some (.lV (LayL.ofWord w))
  | 0x03 => some (.lVp (LayL.ofWord w))
  | 0x04 => some (.lG (LayLG.ofWord w))
  | 0x05 => some (.lB (LayL.ofWord w))
  | 0x06 => some (.lFe (LayL.ofWord w))
  | 0x08 => some (.lScl (LayLAn.ofWord w))
  | 0x09 => some (.lRcv (LayLRcv.ofWord w))
  | 0x10 => some (.lAadd (LayLAadd.ofWord w))
  | 0x11 => some (.lAli (LayLAli.ofWord w))
  | 0x12 => some (.lAmov (LayLAmov.ofWord w))
  | 0x13 => some (.lMpc (LayLAn.ofWord w))
  | _ => none

/-- The operations of the store slot's map (R72), by major opcode, with their fields as they stand. -/
def rawStore (w : Nat) : Option Instr :=
  match w / 2 ^ 56 % 256 with
  | 0x01 => some (.wS (LayW.ofWord w))
  | 0x02 => some (.wV (LayW.ofWord w))
  | 0x03 => some (.wVp (LayW.ofWord w))
  | 0x04 => some (.wSc (LayWSc.ofWord w))
  | 0x05 => some (.wFe (LayW.ofWord w))
  | 0x08 => some (.wAtom (LayWAtom.ofWord w))
  | 0x09 => some (.wCas (LayWCas.ofWord w))
  | 0x0A => some (.wRed (LayWRed.ofWord w))
  | 0x0C => some (.wSnd (LayWSnd.ofWord w))
  | _ => none

/-- The operations of the copy slot's map (R73), by major opcode, with their fields as they stand. -/
def rawCopy (w : Nat) : Option Instr :=
  match w / 2 ^ 42 % 64 with
  | 0x01 => some (.cShp (LayCShp.ofWord w))
  | 0x02 => some (.cGo (LayCGo.ofWord w))
  | 0x03 => some (.cRing (LayCRing.ofWord w))
  | 0x08 => some (.cIcinv (LayCIc.ofWord w))
  | 0x09 => some (.cL2wb (LayCL2.ofWord w))
  | 0x0A => some (.cL2inv (LayCL2.ofWord w))
  | 0x10 => some (.cGq (LayCGq.ofWord w))
  | 0x18 => some (.cSeal (LayCSeal.ofWord w))
  | _ => none

/-- The operations of the sync slot's map (R74), by major opcode, with their fields as they stand. -/
def rawSync (w : Nat) : Option Instr :=
  match w / 2 ^ 42 % 64 with
  | 0x01 => some (.yTlwait (LayYTl.ofWord w))
  | 0x02 => some (.yTladv (LayYTl.ofWord w))
  | 0x03 => some (.yTlread (LayYTlr.ofWord w))
  | 0x08 => some (.yPhreg (LayYPhr.ofWord w))
  | 0x09 => some (.yPhdrop (LayYPh.ofWord w))
  | 0x0A => some (.yPhsig (LayYPh.ofWord w))
  | 0x0B => some (.yPhwait (LayYPh.ofWord w))
  | 0x10 => some (.yFence (LayYScope.ofWord w))
  | 0x11 => some (.yDrain (LayYScope.ofWord w))
  | 0x18 => some (.yClm (LayYClm.ofWord w))
  | 0x19 => some (.yObj (LayYObj.ofWord w))
  | 0x1A => some (.yClwait (LayYObj.ofWord w))
  | 0x1B => some (.yClread (LayYClr.ofWord w))
  | 0x20 => some (.ySpawn (LayYSpawn.ofWord w))
  | 0x21 => some (.yJoin (LayYJoin.ofWord w))
  | 0x22 => some (.yRetire (LayYNone.ofWord w))
  | 0x28 => some (.yTrap (LayYImm.ofWord w))
  | 0x29 => some (.yTret (LayYNone.ofWord w))
  | 0x30 => some (.yGeninc (LayYNone.ofWord w))
  | 0x38 => some (.yEvt (LayYEvt.ofWord w))
  | 0x39 => some (.yDbg (LayYImm.ofWord w))
  | _ => none

/-- The operation of a slot, before its fields are checked. -/
def rawSlot (s : Slot) (w : Nat) : Option Instr :=
  match s with
  | .scalar => rawScalar w
  | .va => rawVector .va w
  | .vb => rawVector .vb w
  | .matrix => rawMatrix w
  | .load => rawLoad w
  | .store => rawStore w
  | .copy => rawCopy w
  | .sync => rawSync w

/-- The slot word of an operation; an event has none and gives 0. -/
def encodeSlot : Instr → Nat
  | .sAdd x => LayA.toWord 0x01 x
  | .sSub x => LayA.toWord 0x02 x
  | .sMul x => LayA.toWord 0x03 x
  | .sMulh x => LayA.toWord 0x04 x
  | .sMulhz x => LayA.toWord 0x05 x
  | .sDiv x => LayA.toWord 0x06 x
  | .sDivz x => LayA.toWord 0x07 x
  | .sRem x => LayA.toWord 0x08 x
  | .sAnd x => LayA.toWord 0x09 x
  | .sOr x => LayA.toWord 0x0A x
  | .sXor x => LayA.toWord 0x0B x
  | .sAndn x => LayA.toWord 0x0C x
  | .sShl x => LayA.toWord 0x0D x
  | .sShr x => LayA.toWord 0x0E x
  | .sSra x => LayA.toWord 0x0F x
  | .sRot x => LayA.toWord 0x10 x
  | .sClz x => LayA.toWord 0x11 x
  | .sCtz x => LayA.toWord 0x12 x
  | .sPopc x => LayA.toWord 0x13 x
  | .sMin x => LayA.toWord 0x14 x
  | .sMax x => LayA.toWord 0x15 x
  | .sMinz x => LayA.toWord 0x16 x
  | .sMaxz x => LayA.toWord 0x17 x
  | .sCmp x => LayC.toWord 0x18 x
  | .sSel x => LayS.toWord 0x19 x
  | .sLi x => LayK.toWord 0x1A x
  | .sLih x => LayH.toWord 0x1B x
  | .sExt x => LayF.toWord 0x1C x
  | .sIns x => LayF.toWord 0x1D x
  | .sBr x => LayB.toWord 0x20 x
  | .sBrc x => LayJ.toWord 0x21 x
  | .sCall x => LayB.toWord 0x22 x
  | .sRet x => LayZ.toWord 0x23 x
  | .sJr x => LayI.toWord 0x24 x
  | .sLoop x => LayP.toWord 0x28 x
  | .sLbrk x => LayQ.toWord 0x29 x
  | .sRdsr x => LayT.toWord 0x30 x
  | .sWrsr x => LayT.toWord 0x31 x
  | .sFromv x => LayV.toWord 0x38 x
  | .sFroma x => LayM.toWord 0x39 x
  | .vadd _ x => VFields.toWord 0x01 x
  | .vsub _ x => VFields.toWord 0x02 x
  | .vmul _ x => VFields.toWord 0x03 x
  | .vfma _ x => VFields.toWord 0x04 x
  | .vfms _ x => VFields.toWord 0x05 x
  | .vfnma _ x => VFields.toWord 0x06 x
  | .vmin _ x => VFields.toWord 0x07 x
  | .vmax _ x => VFields.toWord 0x08 x
  | .vabs _ x => VFields.toWord 0x09 x
  | .vneg _ x => VFields.toWord 0x0A x
  | .vcmp _ x => VFields.toWord 0x0B x
  | .vclass _ x => VFields.toWord 0x0C x
  | .vrcp _ x => VFields.toWord 0x0D x
  | .vrsqrt _ x => VFields.toWord 0x0E x
  | .vsqrt _ x => VFields.toWord 0x0F x
  | .vdiv _ x => VFields.toWord 0x10 x
  | .vexp2 _ x => VFields.toWord 0x11 x
  | .vlog2 _ x => VFields.toWord 0x12 x
  | .vrnd _ x => VFields.toWord 0x13 x
  | .vscale _ x => VFields.toWord 0x14 x
  | .vcvt _ x => VFields.toWord 0x15 x
  | .vredsum _ x => VFields.toWord 0x18 x
  | .vredmax _ x => VFields.toWord 0x19 x
  | .vredmin _ x => VFields.toWord 0x1A x
  | .viadd _ x => VFields.toWord 0x20 x
  | .visub _ x => VFields.toWord 0x21 x
  | .vimul _ x => VFields.toWord 0x22 x
  | .vimulh _ x => VFields.toWord 0x23 x
  | .vimad _ x => VFields.toWord 0x24 x
  | .vand _ x => VFields.toWord 0x25 x
  | .vor _ x => VFields.toWord 0x26 x
  | .vxor _ x => VFields.toWord 0x27 x
  | .vandn _ x => VFields.toWord 0x28 x
  | .vshl _ x => VFields.toWord 0x29 x
  | .vshr _ x => VFields.toWord 0x2A x
  | .vsra _ x => VFields.toWord 0x2B x
  | .vimin _ x => VFields.toWord 0x2C x
  | .vimax _ x => VFields.toWord 0x2D x
  | .vpopc _ x => VFields.toWord 0x2E x
  | .vclz _ x => VFields.toWord 0x2F x
  | .vicmp _ x => VFields.toWord 0x30 x
  | .vperm _ x => VFields.toWord 0x38 x
  | .vbcast _ x => VFields.toWord 0x39 x
  | .vlsh _ x => VFields.toWord 0x3A x
  | .vzip _ x => VFields.toWord 0x3B x
  | .vunzip _ x => VFields.toWord 0x3C x
  | .vrev _ x => VFields.toWord 0x3D x
  | .vsel _ x => VFields.toWord 0x3E x
  | .vcompress _ x => VFields.toWord 0x3F x
  | .vexpand _ x => VFields.toWord 0x40 x
  | .pand _ x => VFields.toWord 0x48 x
  | .por _ x => VFields.toWord 0x49 x
  | .pxor _ x => VFields.toWord 0x4A x
  | .pnot _ x => VFields.toWord 0x4B x
  | .pcnt _ x => VFields.toWord 0x4C x
  | .pfirst _ x => VFields.toWord 0x4D x
  | .pset _ x => VFields.toWord 0x4E x
  | .vqnt _ x => VFields.toWord 0x50 x
  | .vgmax _ x => VFields.toWord 0x51 x
  | .tos _ x => VFields.toWord 0x58 x
  | .froms _ x => VFields.toWord 0x59 x
  | .mMma x => LayMma.toWord 0x01 x
  | .mMms x => LayMma.toWord 0x02 x
  | .mZero x => LayMT.toWord 0x03 x
  | .mAcc x => LayMAcc.toWord 0x04 x
  | .mRd x => LayMRd.toWord 0x08 x
  | .mWr x => LayMWr.toWord 0x09 x
  | .mSt x => LayMOff.toWord 0x0A x
  | .mFmt x => LayMFmt.toWord 0x10 x
  | .mSave x => LayMOff.toWord 0x18 x
  | .mRest x => LayMOff.toWord 0x19 x
  | .mWait x => LayMT.toWord 0x1A x
  | .lS x => LayL.toWord 0x01 x
  | .lV x => LayL.toWord 0x02 x
  | .lVp x => LayL.toWord 0x03 x
  | .lG x => LayLG.toWord 0x04 x
  | .lB x => LayL.toWord 0x05 x
  | .lFe x => LayL.toWord 0x06 x
  | .lScl x => LayLAn.toWord 0x08 x
  | .lRcv x => LayLRcv.toWord 0x09 x
  | .lAadd x => LayLAadd.toWord 0x10 x
  | .lAli x => LayLAli.toWord 0x11 x
  | .lAmov x => LayLAmov.toWord 0x12 x
  | .lMpc x => LayLAn.toWord 0x13 x
  | .wS x => LayW.toWord 0x01 x
  | .wV x => LayW.toWord 0x02 x
  | .wVp x => LayW.toWord 0x03 x
  | .wSc x => LayWSc.toWord 0x04 x
  | .wFe x => LayW.toWord 0x05 x
  | .wAtom x => LayWAtom.toWord 0x08 x
  | .wCas x => LayWCas.toWord 0x09 x
  | .wRed x => LayWRed.toWord 0x0A x
  | .wSnd x => LayWSnd.toWord 0x0C x
  | .cShp x => LayCShp.toWord 0x01 x
  | .cGo x => LayCGo.toWord 0x02 x
  | .cRing x => LayCRing.toWord 0x03 x
  | .cIcinv x => LayCIc.toWord 0x08 x
  | .cL2wb x => LayCL2.toWord 0x09 x
  | .cL2inv x => LayCL2.toWord 0x0A x
  | .cGq x => LayCGq.toWord 0x10 x
  | .cSeal x => LayCSeal.toWord 0x18 x
  | .yTlwait x => LayYTl.toWord 0x01 x
  | .yTladv x => LayYTl.toWord 0x02 x
  | .yTlread x => LayYTlr.toWord 0x03 x
  | .yPhreg x => LayYPhr.toWord 0x08 x
  | .yPhdrop x => LayYPh.toWord 0x09 x
  | .yPhsig x => LayYPh.toWord 0x0A x
  | .yPhwait x => LayYPh.toWord 0x0B x
  | .yFence x => LayYScope.toWord 0x10 x
  | .yDrain x => LayYScope.toWord 0x11 x
  | .yClm x => LayYClm.toWord 0x18 x
  | .yObj x => LayYObj.toWord 0x19 x
  | .yClwait x => LayYObj.toWord 0x1A x
  | .yClread x => LayYClr.toWord 0x1B x
  | .ySpawn x => LayYSpawn.toWord 0x20 x
  | .yJoin x => LayYJoin.toWord 0x21 x
  | .yRetire x => LayYNone.toWord 0x22 x
  | .yTrap x => LayYImm.toWord 0x28 x
  | .yTret x => LayYNone.toWord 0x29 x
  | .yGeninc x => LayYNone.toWord 0x30 x
  | .yEvt x => LayYEvt.toWord 0x38 x
  | .yDbg x => LayYImm.toWord 0x39 x
  | _ => 0

/-- The slot an operation stands in; none for an event. -/
def Instr.slot? : Instr → Option Slot
  | .sAdd _ => some .scalar
  | .sSub _ => some .scalar
  | .sMul _ => some .scalar
  | .sMulh _ => some .scalar
  | .sMulhz _ => some .scalar
  | .sDiv _ => some .scalar
  | .sDivz _ => some .scalar
  | .sRem _ => some .scalar
  | .sAnd _ => some .scalar
  | .sOr _ => some .scalar
  | .sXor _ => some .scalar
  | .sAndn _ => some .scalar
  | .sShl _ => some .scalar
  | .sShr _ => some .scalar
  | .sSra _ => some .scalar
  | .sRot _ => some .scalar
  | .sClz _ => some .scalar
  | .sCtz _ => some .scalar
  | .sPopc _ => some .scalar
  | .sMin _ => some .scalar
  | .sMax _ => some .scalar
  | .sMinz _ => some .scalar
  | .sMaxz _ => some .scalar
  | .sCmp _ => some .scalar
  | .sSel _ => some .scalar
  | .sLi _ => some .scalar
  | .sLih _ => some .scalar
  | .sExt _ => some .scalar
  | .sIns _ => some .scalar
  | .sBr _ => some .scalar
  | .sBrc _ => some .scalar
  | .sCall _ => some .scalar
  | .sRet _ => some .scalar
  | .sJr _ => some .scalar
  | .sLoop _ => some .scalar
  | .sLbrk _ => some .scalar
  | .sRdsr _ => some .scalar
  | .sWrsr _ => some .scalar
  | .sFromv _ => some .scalar
  | .sFroma _ => some .scalar
  | .vadd side _ => some side.slot
  | .vsub side _ => some side.slot
  | .vmul side _ => some side.slot
  | .vfma side _ => some side.slot
  | .vfms side _ => some side.slot
  | .vfnma side _ => some side.slot
  | .vmin side _ => some side.slot
  | .vmax side _ => some side.slot
  | .vabs side _ => some side.slot
  | .vneg side _ => some side.slot
  | .vcmp side _ => some side.slot
  | .vclass side _ => some side.slot
  | .vrcp side _ => some side.slot
  | .vrsqrt side _ => some side.slot
  | .vsqrt side _ => some side.slot
  | .vdiv side _ => some side.slot
  | .vexp2 side _ => some side.slot
  | .vlog2 side _ => some side.slot
  | .vrnd side _ => some side.slot
  | .vscale side _ => some side.slot
  | .vcvt side _ => some side.slot
  | .vredsum side _ => some side.slot
  | .vredmax side _ => some side.slot
  | .vredmin side _ => some side.slot
  | .viadd side _ => some side.slot
  | .visub side _ => some side.slot
  | .vimul side _ => some side.slot
  | .vimulh side _ => some side.slot
  | .vimad side _ => some side.slot
  | .vand side _ => some side.slot
  | .vor side _ => some side.slot
  | .vxor side _ => some side.slot
  | .vandn side _ => some side.slot
  | .vshl side _ => some side.slot
  | .vshr side _ => some side.slot
  | .vsra side _ => some side.slot
  | .vimin side _ => some side.slot
  | .vimax side _ => some side.slot
  | .vpopc side _ => some side.slot
  | .vclz side _ => some side.slot
  | .vicmp side _ => some side.slot
  | .vperm side _ => some side.slot
  | .vbcast side _ => some side.slot
  | .vlsh side _ => some side.slot
  | .vzip side _ => some side.slot
  | .vunzip side _ => some side.slot
  | .vrev side _ => some side.slot
  | .vsel side _ => some side.slot
  | .vcompress side _ => some side.slot
  | .vexpand side _ => some side.slot
  | .pand side _ => some side.slot
  | .por side _ => some side.slot
  | .pxor side _ => some side.slot
  | .pnot side _ => some side.slot
  | .pcnt side _ => some side.slot
  | .pfirst side _ => some side.slot
  | .pset side _ => some side.slot
  | .vqnt side _ => some side.slot
  | .vgmax side _ => some side.slot
  | .tos side _ => some side.slot
  | .froms side _ => some side.slot
  | .mMma _ => some .matrix
  | .mMms _ => some .matrix
  | .mZero _ => some .matrix
  | .mAcc _ => some .matrix
  | .mRd _ => some .matrix
  | .mWr _ => some .matrix
  | .mSt _ => some .matrix
  | .mFmt _ => some .matrix
  | .mSave _ => some .matrix
  | .mRest _ => some .matrix
  | .mWait _ => some .matrix
  | .lS _ => some .load
  | .lV _ => some .load
  | .lVp _ => some .load
  | .lG _ => some .load
  | .lB _ => some .load
  | .lFe _ => some .load
  | .lScl _ => some .load
  | .lRcv _ => some .load
  | .lAadd _ => some .load
  | .lAli _ => some .load
  | .lAmov _ => some .load
  | .lMpc _ => some .load
  | .wS _ => some .store
  | .wV _ => some .store
  | .wVp _ => some .store
  | .wSc _ => some .store
  | .wFe _ => some .store
  | .wAtom _ => some .store
  | .wCas _ => some .store
  | .wRed _ => some .store
  | .wSnd _ => some .store
  | .cShp _ => some .copy
  | .cGo _ => some .copy
  | .cRing _ => some .copy
  | .cIcinv _ => some .copy
  | .cL2wb _ => some .copy
  | .cL2inv _ => some .copy
  | .cGq _ => some .copy
  | .cSeal _ => some .copy
  | .yTlwait _ => some .sync
  | .yTladv _ => some .sync
  | .yTlread _ => some .sync
  | .yPhreg _ => some .sync
  | .yPhdrop _ => some .sync
  | .yPhsig _ => some .sync
  | .yPhwait _ => some .sync
  | .yFence _ => some .sync
  | .yDrain _ => some .sync
  | .yClm _ => some .sync
  | .yObj _ => some .sync
  | .yClwait _ => some .sync
  | .yClread _ => some .sync
  | .ySpawn _ => some .sync
  | .yJoin _ => some .sync
  | .yRetire _ => some .sync
  | .yTrap _ => some .sync
  | .yTret _ => some .sync
  | .yGeninc _ => some .sync
  | .yEvt _ => some .sync
  | .yDbg _ => some .sync
  | _ => none

/-- The entry of a vector operation (R130); none for any other. -/
def Instr.vspec? : Instr → Option (VSpec × VFields)
  | .vadd _ x => some (vsBin, x)
  | .vsub _ x => some (vsBin, x)
  | .vmul _ x => some (vsBin, x)
  | .vfma _ x => some (vsTri, x)
  | .vfms _ x => some (vsTri, x)
  | .vfnma _ x => some (vsTri, x)
  | .vmin _ x => some (vsMinMax, x)
  | .vmax _ x => some (vsMinMax, x)
  | .vabs _ x => some (vsAbsNeg, x)
  | .vneg _ x => some (vsAbsNeg, x)
  | .vcmp _ x => some (vsCmp, x)
  | .vclass _ x => some (vsAbsNeg, x)
  | .vrcp _ x => some (vsUn, x)
  | .vrsqrt _ x => some (vsUn, x)
  | .vsqrt _ x => some (vsUn, x)
  | .vdiv _ x => some (vsBin, x)
  | .vexp2 _ x => some (vsUn, x)
  | .vlog2 _ x => some (vsUn, x)
  | .vrnd _ x => some (vsRnd, x)
  | .vscale _ x => some (vsBin, x)
  | .vcvt _ x => some (vsCvt, x)
  | .vredsum _ x => some (vsRedsum, x)
  | .vredmax _ x => some (vsRedMM, x)
  | .vredmin _ x => some (vsRedMM, x)
  | .viadd _ x => some (vsIntSat, x)
  | .visub _ x => some (vsIntSat, x)
  | .vimul _ x => some (vsIntSat, x)
  | .vimulh _ x => some (vsInt, x)
  | .vimad _ x => some (vsMad, x)
  | .vand _ x => some (vsInt, x)
  | .vor _ x => some (vsInt, x)
  | .vxor _ x => some (vsInt, x)
  | .vandn _ x => some (vsInt, x)
  | .vshl _ x => some (vsShift, x)
  | .vshr _ x => some (vsShift, x)
  | .vsra _ x => some (vsShift, x)
  | .vimin _ x => some (vsInt, x)
  | .vimax _ x => some (vsInt, x)
  | .vpopc _ x => some (vsIntUn, x)
  | .vclz _ x => some (vsIntUn, x)
  | .vicmp _ x => some (vsIcmp, x)
  | .vperm _ x => some (vsPerm, x)
  | .vbcast _ x => some (vsBcast, x)
  | .vlsh _ x => some (vsLsh, x)
  | .vzip _ x => some (vsZip, x)
  | .vunzip _ x => some (vsZip, x)
  | .vrev _ x => some (vsRev, x)
  | .vsel _ x => some (vsSel, x)
  | .vcompress _ x => some (vsComp, x)
  | .vexpand _ x => some (vsComp, x)
  | .pand _ x => some (vsPred, x)
  | .por _ x => some (vsPred, x)
  | .pxor _ x => some (vsPred, x)
  | .pnot _ x => some (vsPnot, x)
  | .pcnt _ x => some (vsPcnt, x)
  | .pfirst _ x => some (vsPcnt, x)
  | .pset _ x => some (vsPset, x)
  | .vqnt _ x => some (vsQnt, x)
  | .vgmax _ x => some (vsGmax, x)
  | .tos _ x => some (vsTos, x)
  | .froms _ x => some (vsFroms, x)
  | _ => none

/-- One slot word: a no-op, an operation, or the item of R64 that refuses it. -/
def decodeSlot (s : Slot) (w : Nat) : Except DecodeErr (Option Instr) :=
  if w = 0 then .ok none
  else
    match rawSlot s w with
    | none => .error (if w / 2 ^ (if s.width = 64 then 56 else 42) = 0 then .opcodeZeroBits else .unassignedOpcode)
    | some i =>
      if encodeSlot i = w then
        match i.wfError with
        | none => .ok (some i)
        | some e => .error e
      else .error .reservedField

/-! ### The header and the port allotment -/

/-- The header of a bundle (R41). -/
structure Header where
  runpos : BitVec 10
  brk : BitVec 1
  whl : BitVec 1
  hwn : BitVec 1
  syn : BitVec 1
  yld : BitVec 1
  spa : BitVec 9
  vpa : BitVec 8
  deriving DecidableEq, Repr

/-- The fields of a header word (R41). -/
def Header.ofWord (w : Nat) : Header :=
  { runpos := fld w 22 10, brk := fld w 21 1, whl := fld w 20 1, hwn := fld w 19 1, syn := fld w 18 1, yld := fld w 17 1,
    spa := fld w 8 9, vpa := fld w 0 8 }

/-- The header word of the fields (R41). -/
def Header.toWord (h : Header) : Nat :=
  h.runpos.toNat * 2 ^ 22 + h.brk.toNat * 2 ^ 21 + h.whl.toNat * 2 ^ 20 + h.hwn.toNat * 2 ^ 19 + h.syn.toNat * 2 ^ 18
    + h.yld.toNat * 2 ^ 17 + h.spa.toNat * 2 ^ 8 + h.vpa.toNat

/-- The header conditions of R44. -/
def Header.ok (h : Header) : Bool :=
  !(h.yld == 1 && h.whl == 1) && !(h.yld == 1 && h.runpos == 0) && (h.runpos == 0 || h.yld == 1 || h.whl == 1)

/-- How many of the used vector sources of an entry name v0 to v63 (R43). -/
def vecReads (s : VSpec) (x : VFields) : Nat :=
  let one (o : VOper) (c : BitVec 7) : Nat := if o = .vec ∧ c.toNat < 64 then 1 else 0
  one s.a x.a + (if s.shift && x.i == 1 then 0 else one s.b x.b) + one s.c x.c

/-- Port reads of the vector file by an operation (R43). -/
def Instr.vPorts (i : Instr) : Nat :=
  match i with
  | .mMma x | .mMms x => if x.v = 1 then 1 else 0
  | .mWr _ | .wV _ | .wVp _ | .wFe _ | .wSnd _ => 1
  | .wSc _ => 2
  | .wRed x => if x.vec = 1 then 1 else 0
  | i =>
    match i.vspec? with
    | some (s, x) => vecReads s x
    | none => 0

/-- One port when a scalar source code names s1 to s31 (R43). -/
def sPort (c : BitVec 6) : Nat := if 1 ≤ c.toNat ∧ c.toNat < 32 then 1 else 0

/-- Port reads of the scalar file by an operation (R43). -/
def Instr.sPorts : Instr → Nat
  | .sAdd x => sPort x.a + (if x.i = 0 then sPort (x.b.extractLsb' 34 6) else 0)
  | .sSub x => sPort x.a + (if x.i = 0 then sPort (x.b.extractLsb' 34 6) else 0)
  | .sMul x => sPort x.a + (if x.i = 0 then sPort (x.b.extractLsb' 34 6) else 0)
  | .sMulh x => sPort x.a + (if x.i = 0 then sPort (x.b.extractLsb' 34 6) else 0)
  | .sMulhz x => sPort x.a + (if x.i = 0 then sPort (x.b.extractLsb' 34 6) else 0)
  | .sDiv x => sPort x.a + (if x.i = 0 then sPort (x.b.extractLsb' 34 6) else 0)
  | .sDivz x => sPort x.a + (if x.i = 0 then sPort (x.b.extractLsb' 34 6) else 0)
  | .sRem x => sPort x.a + (if x.i = 0 then sPort (x.b.extractLsb' 34 6) else 0)
  | .sAnd x => sPort x.a + (if x.i = 0 then sPort (x.b.extractLsb' 34 6) else 0)
  | .sOr x => sPort x.a + (if x.i = 0 then sPort (x.b.extractLsb' 34 6) else 0)
  | .sXor x => sPort x.a + (if x.i = 0 then sPort (x.b.extractLsb' 34 6) else 0)
  | .sAndn x => sPort x.a + (if x.i = 0 then sPort (x.b.extractLsb' 34 6) else 0)
  | .sShl x => sPort x.a + (if x.i = 0 then sPort (x.b.extractLsb' 34 6) else 0)
  | .sShr x => sPort x.a + (if x.i = 0 then sPort (x.b.extractLsb' 34 6) else 0)
  | .sSra x => sPort x.a + (if x.i = 0 then sPort (x.b.extractLsb' 34 6) else 0)
  | .sRot x => sPort x.a + (if x.i = 0 then sPort (x.b.extractLsb' 34 6) else 0)
  | .sClz x => sPort x.a
  | .sCtz x => sPort x.a
  | .sPopc x => sPort x.a
  | .sMin x => sPort x.a + (if x.i = 0 then sPort (x.b.extractLsb' 34 6) else 0)
  | .sMax x => sPort x.a + (if x.i = 0 then sPort (x.b.extractLsb' 34 6) else 0)
  | .sMinz x => sPort x.a + (if x.i = 0 then sPort (x.b.extractLsb' 34 6) else 0)
  | .sMaxz x => sPort x.a + (if x.i = 0 then sPort (x.b.extractLsb' 34 6) else 0)
  | .sCmp x => sPort x.a + (if x.i = 0 then sPort (x.b.extractLsb' 33 6) else 0)
  | .sSel x => sPort x.a + sPort x.sb
  | .sLih x => sPort x.d
  | .sExt x => sPort x.a
  | .sIns x => sPort x.d + sPort x.a
  | .sBrc x => sPort x.a + sPort x.sb
  | .sRet _ => 1
  | .sJr x => sPort x.a
  | .sLoop x => if x.i = 0 then sPort (x.cnt.extractLsb' 15 6) else 0
  | .sWrsr x => sPort x.r
  | .lAadd x => if x.i = 0 then sPort (x.b.extractLsb' 38 6) else 0
  | .lAmov x => sPort x.sa
  | .wS x => sPort (x.src.extractLsb' 0 6)
  | .wAtom x => sPort x.sv
  | .wCas x => sPort x.sc + sPort x.sn
  | .wRed x => if x.vec = 0 then sPort (x.src.extractLsb' 0 6) else 0
  | .cShp x => sPort x.sa
  | .cIcinv x => sPort x.sl
  | .cL2wb x | .cL2inv x => sPort x.sl
  | .yTlwait x | .yTladv x => sPort x.sa
  | .yClm x => sPort x.sk + sPort x.sv + sPort x.sh
  | .yObj x | .yClwait x => sPort x.sk + sPort x.sh
  | .yClread x => sPort x.sk + sPort x.sh
  | .ySpawn x => sPort x.se + sPort x.sm
  | .yEvt x => sPort x.sa
  | _ => 0

/-- The VPA code of a slot (R42). -/
def Slot.vpaCode : Slot → Nat
  | .va => 1 | .vb => 2 | _ => 3
/-- The SPA code of a slot (R42). -/
def Slot.spaCode : Slot → Nat
  | .scalar => 1 | .copy => 2 | .sync => 3 | .load => 4 | .store => 5 | _ => 0

/-- The allotment word of port codes, port 0 lowest (R41). -/
def portWord (bits : Nat) : List Nat → Nat
  | [] => 0
  | c :: r => c + 2 ^ bits * portWord bits r

/-- The codes of the vector ports the operations need, in slot order (R43). -/
def vpaOf (ops : List Instr) : List Nat :=
  ops.flatMap fun i => List.replicate i.vPorts (i.slot?.elim 0 Slot.vpaCode)
/-- The codes of the scalar ports the operations need, in slot order (R43). -/
def spaOf (ops : List Instr) : List Nat :=
  ops.flatMap fun i => List.replicate i.sPorts (i.slot?.elim 0 Slot.spaCode)

/-- The allotment of a bundle is legal (R43, R64 item 6). -/
def portsOk (h : Header) (ops : List Instr) : Bool :=
  let v := vpaOf ops
  let s := spaOf ops
  decide (v.length ≤ 4 ∧ s.length ≤ 3 ∧ h.vpa.toNat = portWord 2 v ∧ h.spa.toNat = portWord 3 s)

/-! ### Bundles -/

/-- A decoded bundle: its header and its operations in slot order. -/
structure Bundle where
  hdr : Header
  ops : List Instr
  deriving DecidableEq, Repr

/-- The operations of the slots of a bundle word. -/
def decodeSlots (w : Nat) : List Slot → Except DecodeErr (List Instr)
  | [] => .ok []
  | s :: r =>
    match decodeSlot s (w / 2 ^ s.lo % 2 ^ s.width) with
    | .error e => .error e
    | .ok o =>
      match decodeSlots w r with
      | .error e => .error e
      | .ok l => .ok (o.toList ++ l)

/-- A bundle, or the item of R64 (1 to 7) that makes it illegal. -/
def decodeBundle (w : Nat) : Except DecodeErr Bundle :=
  let h := Header.ofWord (w % 2 ^ 32)
  match decodeSlots w Slot.all with
  | .error e => .error e
  | .ok ops =>
    if !h.ok then .error .badHeader
    else if !portsOk h ops then .error .portAllotment
    else .ok { hdr := h, ops := ops }

/-- The number whose bits are the bytes of a bundle, the byte at offset 0 lowest (R38). -/
def wordOfBytes : List Byte → Nat
  | [] => 0
  | b :: r => b.toNat + 256 * wordOfBytes r

/-- A bundle from the bytes of memory (R38): total on any bytes. -/
def decodeBytes (bs : List Byte) : Except DecodeErr Bundle := decodeBundle (wordOfBytes bs)

/-! ### The encoder -/

/-- The header the assembler writes for operations with no attribute (R13). -/
def plainHeader (ops : List Instr) : Header :=
  { runpos := 0, brk := 0, whl := 0, hwn := 0, syn := 0, yld := 0,
    spa := BitVec.ofNat 9 (portWord 3 (spaOf ops)), vpa := BitVec.ofNat 8 (portWord 2 (vpaOf ops)) }

/-- The bundle word of a header and operations (R37). -/
def encodeBundle (b : Bundle) : Nat :=
  b.hdr.toWord + (b.ops.map fun i => encodeSlot i * 2 ^ (i.slot?.elim 0 Slot.lo)).sum

/-- The bundle that holds one operation and nothing else. -/
def encode (i : Instr) : Nat := encodeBundle { hdr := plainHeader [i], ops := [i] }

/-- The low `n` bytes of a number, lowest first. -/
def bytesOfWord : (n : Nat) → Nat → List Byte
  | 0, _ => []
  | n + 1, w => BitVec.ofNat 8 w :: bytesOfWord n (w / 256)

/-- The 64 bytes of the bundle of one operation (R38). -/
def encodeBytes (i : Instr) : List Byte := bytesOfWord 64 (encode i)

/-- The one operation of a bundle word that holds exactly one. The spec's table gives an operation no fixed bits, so the
word is the whole bundle, bit 0 the header's least significant bit. -/
def decodeTableWord (nbits w : Nat) : Option Instr :=
  match decodeBundle (w % 2 ^ nbits) with
  | .ok { hdr := _, ops := [i] } => some i
  | _ => none

end Sys2Proof
end

