-- ==== Sys2Proof/Machine/Maps.lean ====
section
/-! DEFINITION. Sparse maps from numbers in one canonical form: keys strictly rising, and no entry equal to what an
unlisted key reads as. Equal maps are equal lists. -/

namespace Sys2Proof.Machine

/-- A sparse map; what an unlisted key reads as is an argument of each operation. -/
abbrev SMap (α : Type) := List (Nat × α)

namespace SMap

variable {α : Type}

/-- The value at a key; `d` when no entry lists it. -/
def get (d : α) : SMap α → Nat → α
  | [], _ => d
  | (k, v) :: r, n => if n = k then v else get d r n

/-- The map without an entry at a key. -/
def erase : SMap α → Nat → SMap α
  | [], _ => []
  | (k, v) :: r, n => if n = k then erase r n else (k, v) :: erase r n

/-- The map with an entry at a key. -/
def insert (v : α) : SMap α → Nat → SMap α
  | [], n => [(n, v)]
  | (k, u) :: r, n => if n = k then (k, v) :: r else if n < k then (n, v) :: (k, u) :: r else (k, u) :: insert v r n

/-- The map with a value at a key: an entry, or none when the value is what an unlisted key reads as. -/
def set [DecidableEq α] (d : α) (m : SMap α) (n : Nat) (v : α) : SMap α :=
  if v = d then erase m n else insert v m n

/-- The map with the value at a key changed by a function. -/
def modify [DecidableEq α] (d : α) (m : SMap α) (n : Nat) (f : α → α) : SMap α := set d m n (f (get d m n))

/-- The canonical form: every key above `lo` (when given) and rising, no entry equal to `d`. -/
def wfFrom [DecidableEq α] (d : α) : (lo : Option Nat) → SMap α → Bool
  | _, [] => true
  | lo, (k, v) :: r => (lo.elim true fun l => decide (l < k)) && decide (v ≠ d) && wfFrom d (some k) r

/-- The canonical form. -/
def wf [DecidableEq α] (d : α) (m : SMap α) : Bool := wfFrom d none m

/-- Every entry's value changed by a function; an entry that comes to read as an unlisted key goes. -/
def mapVals [DecidableEq α] (d : α) (f : Nat → α → α) : SMap α → SMap α
  | [] => []
  | (k, v) :: r => let u := f k v; if u = d then mapVals d f r else (k, u) :: mapVals d f r

/-- The entries whose keys meet a condition. -/
def keep (p : Nat → Bool) (m : SMap α) : SMap α := m.filter fun e => p e.1

/-- The keys listed. -/
def keys (m : SMap α) : List Nat := m.map Prod.fst

end SMap

/-- The numbers from `lo` to `lo + n - 1`. -/
def upFrom (lo n : Nat) : List Nat := (List.range n).map (lo + ·)

/-- An element put before the first that does not come before it. -/
def insertBy {α : Type} (le : α → α → Bool) (x : α) : List α → List α
  | [] => [x]
  | y :: r => if le x y then x :: y :: r else y :: insertBy le x r
/-- A list in order; elements that compare equal keep theirs. -/
def sortBy {α : Type} (le : α → α → Bool) : List α → List α
  | [] => []
  | x :: r => insertBy le x (sortBy le r)

end Sys2Proof.Machine
end

