-- ==== Sys2Proof/Machine/State.lean ====
section
/-! DEFINITION. The state of the package as plain data: everything the spec gives the machine (INVENTORY.md, "State").
Cores, sequencers, dies, partitions and contexts are numbered through the package: core = die * 160 + creel * 16 +
position, sequencer = die * 40 + creel * 4 + its index in the creel. -/

namespace Sys2Proof.Machine

/-! ### Tags (R256) and registers (R46, R55) -/

/-- A generation tag: a unit matches generation g when z is false and gen = g (R256). -/
structure Tag where
  z : Bool
  gen : Gen
  deriving DecidableEq, Repr

/-- The tag of a wiped unit (R256). -/
def Tag.wiped : Tag := { z := true, gen := 0 }
/-- The tag a write under a generation stamps (R256). -/
def Tag.of (g : Gen) : Tag := { z := false, gen := g }
/-- Whether a unit matches a generation (R256). -/
def Tag.is (t : Tag) (g : Gen) : Bool := !t.z && t.gen == g

/-- A tagged register of width n (R55). -/
structure Reg (n : Nat) where
  val : BitVec n
  tag : Tag
  deriving DecidableEq, Repr

/-- A wiped register. -/
def Reg.wiped (n : Nat) : Reg n := { val := 0, tag := Tag.wiped }
/-- A register under a generation: zero when its tag differs (R55). -/
def Reg.read {n : Nat} (r : Reg n) (g : Gen) : BitVec n := if r.tag.is g then r.val else 0
/-- A register written under a generation. -/
def Reg.of {n : Nat} (v : BitVec n) (g : Gen) : Reg n := { val := v, tag := Tag.of g }

/-- What the metadata of a storage unit holds beside its data (R256, R402). -/
structure TagUnit where
  tag : Tag
  poison : Bool
  pend : Bool
  deriving DecidableEq, Repr

def TagUnit.wiped : TagUnit := { tag := Tag.wiped, poison := false, pend := false }

/-! ### The landing queue (R59, R60) -/

/-- The register files of R60: 0 s, 1 q, 2 v (physical), 3 oa, 4 ob, 5 p, 6 a. -/
inductive RFile where
  | s | q | v | oa | ob | p | a
  deriving DecidableEq, Repr

/-- The write paths of R60: 0 S, 1 scalar L, 2 X, 3 VA, 4 VB, 5 vector L, 6 memory L. -/
inductive WPath where
  | s | lS | x | va | vb | lV | lA
  deriving DecidableEq, Repr

/-- A result in flight (R60). `load` names the own-scratchpad load whose read cycle has not come (R183). -/
structure LqEntry where
  rem : Nat
  path : WPath
  file : RFile
  index : Nat
  gen : Gen
  mask : Pred
  value : VWord
  held : Bool
  load : Option Nat
  deriving DecidableEq, Repr

/-- A register a long result is addressed to (R62): s or v (physical). -/
structure Dest where
  file : RFile
  index : Nat
  deriving DecidableEq, Repr

/-! ### Accesses in flight (R62, R180, R183, R192 to R202) -/

/-- How the bytes of a load become the value of a register (R185). -/
inductive LoadForm where
  /-- A scalar of some bytes, sign-extended or zero-extended. -/
  | scalar (signed : Bool)
  /-- Bytes placed from byte 0; the rest of the register is zero. -/
  | vector
  /-- One element copied across the register. -/
  | spread
  deriving DecidableEq, Repr

/-- The operations of R197, by aop. -/
inductive Aop where
  | add | min | max | minz | maxz | and | or | xor | xchg | fadd
  deriving DecidableEq, Repr

/-- What an access in flight does when it performs. -/
inductive FlightOp where
  /-- A load; `own` names a landing-queue load of the own scratchpad, which lands with its entry (R183). -/
  | load (form : LoadForm) (own : Bool)
  | store
  /-- `w.atom` and scalar `w.red` (R197, R199); `ret` when the old value returns. -/
  | atom (aop : Aop) (ty : Nat) (v : Word) (ret : Bool)
  /-- `w.cas` (R198). -/
  | cas (ty : Nat) (cmp new : Word)
  /-- Vector `w.red`: element e on the word at byte 4e (R199). -/
  | redv (aop : Aop) (ty : Nat) (v : VWord)
  /-- `l.fe` (R187). -/
  | fe (take own : Bool)
  /-- `w.fe` (R194). -/
  | wfe
  /-- `l.scl` (R188). -/
  | scl
  /-- The data taken by `l.rcv` on its way to its register (R189). -/
  | rcv
  /-- `w.snd`: 256 bytes for the receive queue of a core (R202). -/
  | send (toCore : Nat) (ch : Nat)
  /-- The record of `y.evt`, which follows the earlier writes of the gang's cores (R245). -/
  | event (cores : List Nat)
  deriving DecidableEq, Repr

/-- A part of an access that performs at once: `off` is its place in the access's bytes (R383, R384). -/
structure Piece where
  loc : Nat
  off : Nat
  len : Nat
  /-- False for untagged pages and host memory (R258, R401). -/
  tagged : Bool
  done : Bool
  deriving DecidableEq, Repr

/-- The stamp of a sequentially consistent operation (R380). -/
structure ScStamp where
  rev : Nat
  pos : Nat
  grank : Nat
  slot : Nat
  deriving DecidableEq, Repr

/-- An access from its issue until it has written everything it will write (R266). -/
structure Flight where
  id : Nat
  /-- The bundle that issued it, by the number of its first operation. -/
  bnd : Nat
  core : Nat
  ctx : Nat
  gen : Gen
  op : FlightOp
  pieces : List Piece
  /-- The bytes to write, or the bytes read so far. -/
  data : List Byte
  dest : Option Dest
  /-- An own-scratchpad access: cycles until its cycle c + 3 (R183). -/
  due : Option Nat
  /-- The cause a finished request has failed with; the first use of its destination traps (R402, R413). -/
  failed : Option Nat
  /-- The remote window of a posted write (R201). -/
  window : Option Nat
  /-- The ASID and virtual pages (in units of 64 KiB) that its translation pins tie (R400). -/
  pins : List (Nat × Nat)
  sc : Option ScStamp
  /-- Every remote destination has answered (R201, R202). -/
  acked : Bool
  /-- The tick at which its flits left, once they have (R410, R420); of a full/empty request, the tick at which it reached its bank
  (R371). -/
  sent : Option Nat
  /-- Its result is complete and waits for its write path (R56). -/
  ready : Bool
  /-- A failed result that has been written and waits for the first use of its register (R266, R402). -/
  written : Bool
  deriving DecidableEq, Repr

/-- A fence whose earlier accesses have not all performed (R228): accesses numbered below `upto`, and acquired copies. -/
structure FenceMark where
  scope : Nat
  upto : Nat
  deriving DecidableEq, Repr

/-! ### Copies (R205 to R215) -/

/-- A template bound on chip with a key (R214). -/
structure SealSlot where
  /-- The context that made the binding. -/
  owner : Nat
  tpl : Nat
  words : List Word
  key : Nat
  kctx : Nat
  opening : Bool
  deriving DecidableEq, Repr

/-- The additions of a sealed or opened copy (R215). -/
structure SealRun where
  key : Nat
  kctx : Nat
  tpl : Nat
  opening : Bool
  /-- Its place in the order of all starts: an open waits for the earlier opens of its KCTX (R333). -/
  order : Nat
  trailer : Word
  savectr : Word
  sseq : Nat
  /-- Ciphertext bytes so far, in copy order. -/
  done : List Byte
  /-- The trailer that an open has read. -/
  head : Option (List Byte)
  deriving DecidableEq, Repr

/-- A copy on a channel (R207). `idx` is the index tuple i1 first, `off` the bytes of the row moved. -/
structure CopyRun where
  ctx : Nat
  /-- The ASID that its context held, once that context has been unloaded (R406). -/
  gone : Option Nat
  asid : Nat
  /-- The generation it reads and writes under, and the one it counts as in flight for (R207, R332). -/
  gen : Gen
  held : Gen
  sys : Bool
  tl : Nat
  num : Nat
  src : Word
  dst : Word
  bobbin : Option Nat
  len : Nat
  dims : List (Nat × Int × Int)
  idx : List Nat
  off : Nat
  sealed : Option SealRun
  /-- Cycles before the first chunk may read the own scratchpad (R183). -/
  wait : Nat
  /-- A cause it has failed with (R209). -/
  failed : Option Nat
  finished : Bool
  deriving DecidableEq, Repr

/-! ### The matrix engine (R159 to R177) -/

/-- A step or `m.acc` that holds the engine, with the cycles left (R159). -/
inductive EngOp where
  /-- A step: result, and the bytes each bobbin releases (R161). -/
  | step (td : Nat) (result : Tile) (gen : Gen) (ba bw : Nat) (sa sw : Nat)
  | acc (td ts : Nat) (result : Tile) (gen : Gen)
  deriving DecidableEq, Repr

/-- A tile-store operation (R173, R177). -/
inductive TileOp where
  /-- Bytes for the own scratchpad at an offset; `tags` gives the tag each 256-byte row takes. -/
  | write (ts : Nat) (off : Nat) (bytes : List Byte) (tag : Tag)
  /-- `m.rest`: the tile is read when the operation completes. -/
  | read (td : Nat) (off : Nat) (gen : Gen) (sys : Bool)
  deriving DecidableEq, Repr

/-- A unit's operation and the cycles it still holds the unit (R159). -/
structure Busy (α : Type) where
  left : Nat
  /-- The number of the bundle that started it. -/
  bnd : Nat
  op : α
  deriving DecidableEq, Repr

/-- A scale-queue entry (R96, R166, R188). -/
structure ScaleEntry where
  val : Line
  tag : Tag
  poisoned : Bool
  deriving DecidableEq, Repr

/-- A receive queue of link channel data (R202): entries with their tags, the senders' credits left. -/
structure RcvQueue where
  entries : List (Reg 2048)
  credits : Nat
  deriving DecidableEq, Repr

def RcvQueue.reset : RcvQueue := { entries := [], credits := 16 }

/-! ### A core (R26, R46) -/

/-- The scalar class. -/
structure ScalarRegs where
  s : SMap (Reg 64)
  q : SMap (Reg 1)
  ls : SMap (Reg 64)
  deriving DecidableEq, Repr

/-- The vector class; v by physical number (R52). -/
structure VectorRegs where
  v : SMap (Reg 2048)
  p : SMap (Reg 128)
  oa : SMap (Reg 2048)
  ob : SMap (Reg 2048)
  la : SMap (Reg 2048)
  lb : SMap (Reg 2048)
  deriving DecidableEq, Repr

/-- The memory class, with the writes of `c.shp` still pending: register, bundles left, value, generation (R206). -/
structure MemoryRegs where
  a : SMap (Reg 64)
  h : SMap (Reg 64)
  b : SMap (Reg 128)
  shp : List (Nat × Nat × Word × Gen)
  deriving DecidableEq, Repr

/-- The matrix class, the scale queue, the format binding and its ownership (R91, R153, R166, R168, R175). -/
structure MatrixRegs where
  t : SMap (Reg 32768)
  f : SMap (Reg 128)
  scq : List ScaleEntry
  half : Bool
  fbind : Word
  /-- The context whose binding FBIND holds, where the owner is another (R94, R282): the model's own. -/
  fbOf : Option Nat
  accown : Word
  eng : Option (Busy EngOp)
  tst : Option (Busy TileOp)
  deriving DecidableEq, Repr

/-- Special registers held for each core (R53, R54, R241, R337, R359, R378). -/
structure CoreSpecials where
  rrb : Reg 64
  lived : Reg 64
  clipped : Reg 64
  waitlim : Word
  tpc : Word
  tcause : Word
  crank : Nat
  gangsz : Nat
  grank : Nat
  drank : Nat
  skew : Nat
  deriving DecidableEq, Repr

/-- What moves in a core: the landing queue (R60), fences (R228), and the model's own record of the bundle at issue:
`fresh` results that join the queue at its end and `post` special-register writes (R121). -/
structure Pipe where
  lq : List LqEntry
  fresh : List LqEntry
  post : List (Nat × Word)
  fences : List FenceMark
  /-- Cycles the bundle at issue has counted against WAITLIM (R360). -/
  waitCnt : Nat
  /-- The slot of the counted wait that held it last (R360). -/
  waitSlot : Nat
  /-- The near full/empty requests the bundle at issue has sent: slot and access (R195). -/
  fed : List (Nat × Nat)
  /-- The bundle whose `l.scl` has left while it stood at issue (R166; log entry 22). -/
  sclSent : Option Word
  /-- Timeline numbers acquired, by counter: the greatest number (R224, R228). -/
  acquired : SMap Nat
  /-- A system write of ACCOWN whose effect has not finished (R295), and the cycles of its move still to come. -/
  accw : Option Word
  accLeft : Nat
  /-- Write paths of long results used in the current cycle (R56): the model's own. -/
  busy : List WPath
  deriving DecidableEq, Repr

/-- A core and everything it holds. -/
structure Core where
  sc : ScalarRegs
  ve : VectorRegs
  me : MemoryRegs
  mx : MatrixRegs
  sp : CoreSpecials
  pp : Pipe
  /-- Copy-engine channels 0 to 7 (R207, R213). -/
  chan : SMap (List CopyRun)
  seals : List SealSlot
  rcvq : SMap RcvQueue
  deriving DecidableEq, Repr

def ScalarRegs.reset : ScalarRegs := { s := [], q := [], ls := [] }
def VectorRegs.reset : VectorRegs := { v := [], p := [], oa := [], ob := [], la := [], lb := [] }
def MemoryRegs.reset : MemoryRegs := { a := [], h := [], b := [], shp := [] }
/-- FBIND resets with CNT = 1 (R168). -/
def MatrixRegs.reset : MatrixRegs :=
  { t := [], f := [], scq := [], half := false, fbind := 8, fbOf := none, accown := 0, eng := none, tst := none }
/-- WAITLIM resets to 0x0100_0000 (R359); a core outside any gang has GANGSZ 1 (R337). -/
def CoreSpecials.reset : CoreSpecials :=
  { rrb := Reg.wiped 64, lived := Reg.wiped 64, clipped := Reg.wiped 64, waitlim := 0x01000000, tpc := 0, tcause := 0,
    crank := 0, gangsz := 1, grank := 0, drank := 0, skew := 0 }
def Pipe.reset : Pipe :=
  { lq := [], fresh := [], post := [], fences := [], waitCnt := 0, waitSlot := 0, fed := [], sclSent := none, acquired := [],
    accw := none, accLeft := 0, busy := [] }
/-- A core after reset. -/
def Core.reset : Core :=
  { sc := .reset, ve := .reset, me := .reset, mx := .reset, sp := .reset, pp := .reset, chan := [], seals := [],
    rcvq := [] }

/-! ### A sequencer (R112 to R118, R219, R235, R276) -/

/-- What a sequencer is doing. -/
inductive Phase where
  /-- It runs no stream. -/
  | idle
  /-- Bundles issue. -/
  | run
  /-- Inserted cycles of a taken transfer, this many left (R112). -/
  | bubble (left : Nat)
  /-- The switch to a context: its first bundle issues once these cycles have passed (R311). -/
  | start (left : Nat)
  /-- The restore of a state saved by a forced pre-emption, this many cycles left: its slice begins once it is done (R290, R298). -/
  | restore (left : Nat)
  /-- The waits of a yield (R280 items 1 to 3); the results have committed once `committed` holds. -/
  | yieldWait (committed : Bool)
  /-- The clear of a yield, this many of its 16 cycles left (R280 item 4). -/
  | yieldClear (left : Nat)
  /-- The clear is done; the gang stands at its yield for a decision (R310, R344). -/
  | atYield
  /-- The waits of a forced pre-emption's landing (R286 step 1). -/
  | landWait
  /-- The waits of `y.retire` (R235). -/
  | retireWait
  /-- A `y.tret` has issued and an own-scratchpad load of the handler still has its read cycle to come (R243). -/
  | tretWait
  /-- A retired sibling held for its spawner's join (R235). -/
  | retired
  /-- Halted for the debug port (R297). -/
  | halted
  /-- Stopped by a trap in a nested handler (R240). -/
  | stopped
  /-- The bundle at issue waits for a withdrawal's answer before it leaves issue; `landing` before a landing (R195). -/
  | withdraw (landing : Bool)
  /-- Waiting in a group that is not running: Checking, Broken or fenced (R343, R351). -/
  | held
  deriving DecidableEq, Repr

/-- A spawned sibling, with the gang as it stood before the spawn (R233, R234). -/
structure Sibling where
  seq : Nat
  gangBefore : List Nat
  deriving DecidableEq, Repr

/-- What a bundle leaves to be done once its results have landed. -/
inductive Fin where
  | tret
  | retire
  /-- `y.dbg` halts with its code (R246). -/
  | halt (code : Nat)
  /-- `y.spawn`: the sibling, its entry, the cores by old CRANK, and s(ab) to s(ab + 7) of each donated core (R233). -/
  | spawn (sib : Nat) (entry : Word) (mask : Nat) (vals : List (Nat × List Word))
  | join (sib : Nat)
  | geninc
  deriving DecidableEq, Repr

/-- What a graph position keeps of a core (R22): s1 to s8, and special registers. -/
structure CoreSnap where
  core : Nat
  low : SMap (Reg 64)
  f : SMap (Reg 128)
  waitlim : Word
  clipped : Reg 64
  tpc : Word
  tcause : Word
  deriving DecidableEq, Repr

/-- A graph position as R22 keeps it, with the run left (R352). -/
structure PosSnap where
  pc : Word
  mpc : Reg 64
  lsta : SMap Word
  lend : SMap Word
  lcnt : SMap Word
  sys : Bool
  asid : Nat
  runleft : Nat
  cores : List CoreSnap
  deriving DecidableEq, Repr

/-- A sequencer. -/
structure Seq where
  ctx : Option Nat
  gidx : Nat
  gang : List Nat
  phase : Phase
  sys : Bool
  pc : Word
  mpc : Reg 64
  lsta : SMap Word
  lend : SMap Word
  lcnt : SMap Word
  sleft : Nat
  runleft : Nat
  /-- Throttled cycles of the slice (R278). -/
  thrCyc : Nat
  /-- The loop table in force, one byte for each level (R115, R320). -/
  loopTab : SMap Byte
  /-- The kernel of the launch (R341). -/
  kern : Nat
  /-- Pending asynchronous causes (R239). -/
  async : List Nat
  /-- The bundle that raised the last BRK trap, and the bundle that issues once with BRK ignored (R45, R243). -/
  brkAt : Option Word
  brkSkip : Option Word
  sibs : List Sibling
  parent : Option Nat
  /-- CLINE as taken at the last start (R361). -/
  cline : Word
  lineUp : Bool
  released : Bool
  /-- Full/empty granules, by location, reserved by a release for the bundle that issues next (R364). -/
  reserved : List Nat
  /-- The metadata word read by the `m.mms` at issue (R165). -/
  mword : Option Word
  /-- The ASID special register (R397). -/
  asid : Nat
  /-- The rotation pointer of each rank (R311); a rank not listed holds 0 (log entry 13). -/
  rot : SMap Nat
  /-- The position kept for a redundant pair (R352). -/
  snap : Option PosSnap
  /-- Arithmetic cycles and bundles issued: the model's counters (log entry 3). -/
  cyc : Nat
  issued : Nat
  /-- The model's own record of the bundle at issue: a transfer it makes, and special registers it writes (R121). -/
  xfer : Option Word
  post : List (Nat × Word)
  fin : Option Fin
  /-- The wheel position of the bundle at issue (R379). -/
  whl : Option Nat
  /-- The context that the arbiter has chosen to follow a group that parks (R311). -/
  chosen : Option Nat
  /-- Fenced by error containment: it runs nothing until a self-test ends (R348, R469). -/
  fenced : Bool
  /-- A debug halt waits for the answer to a withdrawal, or for the end of the bundle that the answer lets issue (R195). -/
  haltAsk : Bool
  /-- The bundle at issue finds no send credit: the bundles issued before it, and the tick of the package at which the stall began (R202,
  R420). -/
  creditAt : Option (Nat × Nat)
  deriving DecidableEq, Repr

/-- A sequencer after reset. -/
def Seq.reset : Seq :=
  { ctx := none, gidx := 0, gang := [], phase := .idle, sys := false, pc := 0, mpc := Reg.wiped 64, lsta := [],
    lend := [], lcnt := [], sleft := 0, runleft := 0, thrCyc := 0, loopTab := [], kern := 0, async := [],
    brkAt := none, brkSkip := none, sibs := [], parent := none, cline := 0, lineUp := false, released := false, reserved := [], mword := none,
    asid := 0, rot := [], snap := none, cyc := 0, issued := 0, xfer := none, post := [], fin := none, whl := none, chosen := none,
    fenced := false, haltAsk := false, creditAt := none }

/-! ### Images, launches and contexts (R252, R253, R314 to R327, R338 to R347) -/

/-- A scratchpad region of a kernel (R320). -/
structure Region where
  off : Nat
  size : Nat
  keep : Bool
  ring : Bool
  deriving DecidableEq, Repr

/-- A kernel of a placed image (R319, R320). -/
structure Kernel where
  entry : Word
  run : Nat
  maxpos : Nat
  loopTab : SMap Byte
  regions : List Region
  fmt : List QWord
  keep : Nat
  deriving DecidableEq, Repr

/-- A placed image (R314, R317). -/
structure Image where
  kernels : List Kernel
  handler : Option Word
  system : Bool
  isProtected : Bool
  deriving DecidableEq, Repr

/-- The states of a context (R253). -/
inductive CtxPhase where
  | loaded
  | ready
  | running
  | parkedYield
  | parkedState
  | halted
  deriving DecidableEq, Repr

/-- The states of a placed context's group (R343). -/
inductive GroupPhase where
  | unplaced
  | placed
  | starting
  | running
  | yielding
  | landing
  | parked
  | split
  | checking
  | faulted
  deriving DecidableEq, Repr

/-- One gang of a placed group (R338, R340): its sequencer, its DRANK and the GRANK of its first core. -/
structure GangPlace where
  seq : Nat
  mask : BitVec 16
  drank : Nat
  grank : Nat
  deriving DecidableEq, Repr

/-- A launch in progress (R307, R308): its queue and its packet. -/
structure Launch where
  queue : Nat
  kidx : Nat
  cookie : Word
  cevt : Bool
  args : List Word
  deriving DecidableEq, Repr

/-- What a gang keeps while its context is parked or evicted: the sequencer and its cores as cleared or saved
(R22, R275, R282, R290). -/
structure Parked where
  seq : Seq
  cores : List (Nat × Core)
  withState : Bool
  /-- The slice left and run left it resumes with (R279). -/
  sleft : Nat
  deriving DecidableEq, Repr

/-- An agreement of a group that is due at a claim's effect tick (R343). -/
inductive Agreement where
  | start
  /-- Continue; with a new slice where no other context was eligible (R311). -/
  | yieldCont (fresh : Bool)
  | yieldPark
  | preempt
  deriving DecidableEq, Repr

/-- A context that is loaded. -/
structure Ctx where
  phase : CtxPhase
  gen : Gen
  asid : Nat
  compat : BitVec 2
  image : Image
  /-- Location of its control page in die memory (R255; log entry 7). -/
  pageLoc : Nat
  /-- The stored registers of its control page, by offset (R255). -/
  cctl : SMap Word
  /-- OUT of each remote window (R200, R201). -/
  outs : SMap Nat
  key : Option Nat
  sseq : Nat
  savectr : Word
  group : GroupPhase
  gangs : List GangPlace
  ndie : Nat
  ncore : Nat
  queue : Option Nat
  launch : Option Launch
  /-- Gangs parked or evicted, by gang index. -/
  parkedAt : List (Nat × Parked)
  /-- Gangs that have taken the context (Starting), stand at their yield (Yielding), have landed, or have retired. -/
  taken : List Nat
  yielded : List Nat
  landed : List Nat
  retired : List Nat
  evicted : List Nat
  /-- The agreement proposed and not yet in effect (R343). -/
  agree : Option Agreement
  /-- Asynchronous causes kept with the context, by gang index (R413, R433). -/
  pending : List (Nat × Nat)
  deriving DecidableEq, Repr

/-! ### Queues (R299 to R309) -/

/-- The states of a queue (R304). -/
inductive QPhase where
  | unbound
  | stopped
  | idle
  | pending
  | launched
  | fenced
  deriving DecidableEq, Repr

/-- A queue: its registers and the on-chip copy of its control block. -/
structure Queue where
  phase : QPhase
  qcba : Word
  cmd : Nat
  mismatch : Bool
  dirty : Bool
  err : Bool
  die : Nat
  slot : Nat
  rbase : Word
  ctx : Nat
  rank : Nat
  logn : Nat
  prod : BitVec 32
  cons : BitVec 32
  lastck : Word
  stopPending : Bool
  /-- The block as it stood when BIND was asked for: the granules that BIND may have read by then (R302). -/
  seen : List Byte
  deriving DecidableEq, Repr

def Queue.reset : Queue :=
  { phase := .unbound, qcba := 0, cmd := 0, mismatch := false, dirty := false, err := false, die := 0, slot := 0,
    rbase := 0, ctx := 0, rank := 0, logn := 0, prod := 0, cons := 0, lastck := 0, stopPending := false, seen := [] }

/-! ### Links (R407 to R421) -/

/-- What the model keeps beside a flit (log entry 23): the access in flight of this package that it serves and the place of
its line among the access's bytes, the operation a request asks for, the direction chosen on the package ring (R408), how
often it has been refused for want of a buffer and when it was first sent (R412), and what a refusal is about (R413). -/
structure FlitNote where
  fid : Option Nat
  op : Option FlightOp
  clockwise : Option Bool
  tries : Nat
  since : Option Nat
  poison : Bool
  reason : Nat
  about : BitVec 4
  /-- A write that has been written with PEND and is not verified yet (R418). -/
  landed : Bool
  /-- The COMPAT level of the context that issued an atomic (R197). -/
  level : Nat
  /-- The claim unit that a claim flit is for has had its message already: its delivery bound had come (R429). -/
  told : Bool
  /-- No route was Up for the refusal of this flit: its sender learns of it when LWDOG expires (R413). -/
  lost : Bool
  deriving DecidableEq, Repr

def FlitNote.none : FlitNote :=
  { fid := .none, op := .none, clockwise := .none, tries := 0, since := .none, poison := false, reason := 0, about := 0,
    landed := false, level := 3, told := false, lost := false }

/-- A flit (R410). -/
structure Flit where
  mask : BitVec 64
  dst : BitVec 18
  src : BitVec 18
  kind : BitVec 4
  gen : Gen
  ctxid : BitVec 16
  addr : BitVec 46
  epoch : BitVec 1
  seq : BitVec 4
  rsv : BitVec 11
  payload : Line
  note : FlitNote
  deriving DecidableEq, Repr

/-- The states of a port (R414). -/
inductive PortPhase where
  | down | training | up | held | contained
  deriving DecidableEq, Repr

/-- A link port (R414 to R418). -/
structure Port where
  phase : PortPhase
  stest : Nat
  ifail : Nat
  err : Bool
  kexh : Bool
  kdue : Bool
  wdog : Bool
  cmd : Nat
  epoch : BitVec 16
  count : BitVec 48
  lswt : Word
  /-- The staged key words, LKEY0 lowest. -/
  staged : BitVec 256
  cur : Option (BitVec 256)
  nxt : Option (BitVec 256)
  /-- One-way delay measured in training, in ticks (R414, R421). -/
  delay : Nat
  /-- The tick of the package at which training began (R414). -/
  since : Nat
  /-- Flits waiting to be sent, oldest first. -/
  sendq : List Flit
  /-- Data flits sent in the open tag group (R418). -/
  open_ : Nat
  /-- Flits of the peer on their way to this port, oldest first. -/
  wire : List Flit
  /-- Flits received and not yet verified, oldest first. -/
  recv : List Flit
  deriving DecidableEq, Repr

def Port.reset : Port :=
  { phase := .down, stest := 0, ifail := 0, err := false, kexh := false, kdue := false, wdog := false, cmd := 0,
    epoch := 0, count := 0, lswt := 0, staged := 0, cur := none, nxt := none, delay := 0, since := 0, sendq := [], open_ := 0,
    wire := [], recv := [] }

/-! ### Claims (R423 to R437) -/

/-- The states of a slot that holds a claim (R430). -/
inductive ClaimPhase where
  | pending | beaten | objected
  deriving DecidableEq, Repr

/-- A claim as its proposal carries it (R428). -/
structure Claim where
  key : Word
  value : Word
  tp : Word
  teff : Word
  pfab : BitVec 18
  pslot : BitVec 12
  prio : BitVec 8
  cls : BitVec 4
  grp : BitVec 16
  deriving DecidableEq, Repr

/-- A held claim: its cut-off and the partition whose slot it holds (R426, R427). -/
structure ClaimSlot where
  phase : ClaimPhase
  claim : Claim
  cut : Word
  part : Nat
  deriving DecidableEq, Repr

/-- A claim-plane message on its way: the die that sent it and its payload (R428). -/
structure ClaimMsg where
  src : BitVec 18
  payload : Line
  deriving DecidableEq, Repr

/-- A claim group entry: its words and the member list held on chip (R423, R424). -/
structure ClaimGroup where
  w0 : Word
  w1 : Word
  w2 : Word
  members : List (BitVec 18)
  deriving DecidableEq, Repr

def ClaimGroup.reset : ClaimGroup := { w0 := 0, w1 := 0, w2 := 0, members := [] }

/-! ### Barrier objects (R361 to R369) -/

/-- The states of a wired-AND line (R363). -/
inductive LinePhase where
  | quiet | gathering | released
  deriving DecidableEq, Repr

structure AndLine where
  phase : LinePhase
  owner : Option Nat
  deriving DecidableEq, Repr

def AndLine.reset : AndLine := { phase := .quiet, owner := none }

/-- A member of a phaser: its kind (0 sigwait, 1 sig, 2 wait), S and W (R227). -/
structure PhMember where
  seq : Nat
  kind : Nat
  s : Nat
  w : Nat
  /-- The tick in which it joined: it is outside the completion test of that tick (R367). -/
  joined : Option Nat
  deriving DecidableEq, Repr

/-- A signal that counts once the gang's earlier writes have performed: the sequencer, and the accesses below `upto`
of its cores (R227). -/
structure PhSignal where
  seq : Nat
  phase : Nat
  cores : List Nat
  upto : Nat
  deriving DecidableEq, Repr

structure Phaser where
  p : Nat
  owner : Option Nat
  members : List PhMember
  /-- Signals given whose writes have not all performed. -/
  signals : List PhSignal
  /-- Phases signalled and counted, for each member: S as the completion test sees it. -/
  counted : SMap Nat
  deriving DecidableEq, Repr

def Phaser.reset : Phaser := { p := 0, owner := none, members := [], signals := [], counted := [] }

/-- A block of numbers that `y.tladv` took: it completes when accesses of the core below `upto` have performed (R225). -/
structure AdvBlock where
  core : Nat
  upto : Nat
  first : Nat
  count : Nat
  deriving DecidableEq, Repr

/-- A timeline counter (R223, R368). `ended` holds completed and failed numbers above DONE. -/
structure Timeline where
  next : Nat
  done : Nat
  ended : List Nat
  /-- Failure records: number and cause, at most 8. -/
  fails : List (Nat × Nat)
  /-- Failures held while 8 records stand. -/
  heldFails : List (Nat × Nat)
  blocks : List AdvBlock
  /-- A time in the cycle in which DONE or the records last changed, and what they were at its start: what a wait of that cycle sees
  (R368). -/
  stamp : Nat
  wasDone : Nat
  wasFails : List (Nat × Nat)
  deriving DecidableEq, Repr

def Timeline.reset : Timeline :=
  { next := 0, done := 0, ended := [], fails := [], heldFails := [], blocks := [],
    stamp := 0, wasDone := 0, wasFails := [] }

/-- Cache maintenance under way: the number it completes on each die still to finish (R216, R217). -/
structure Maint where
  id : Nat
  die : Nat
  tl : Nat
  num : Nat
  ctx : Nat
  gen : Gen
  /-- 0 `c.icinv`, 1 `c.l2wb`, 2 `c.l2inv`. -/
  kind : Nat
  asid : Nat
  lo : Word
  len : Word
  dies : List Nat
  deriving DecidableEq, Repr

/-! ### Translation state (R397 to R405) -/

/-- A TLB entry (R398): a leaf with its ASID and the page it maps. -/
structure TlbEntry where
  asid : Nat
  va : Word
  level : Nat
  leaf : Word
  deriving DecidableEq, Repr

/-- An instruction-cache line with the tag of its source granule (R257). -/
structure ILine where
  asid : Nat
  va : Word
  loc : Nat
  data : Line
  tag : Tag
  tagged : Bool
  deriving DecidableEq, Repr

/-- An invalidation under way (R399, R400): the pins and guests it waits for. -/
structure Inval where
  asid : Nat
  lo : Word
  npage : Nat
  pkg : Bool
  flights : List Nat
  /-- Running chunks are atomic here, so copies hold no pin between events. -/
  guests : List (Nat × Nat)
  forUnload : Option Nat
  deriving DecidableEq, Repr

/-! ### The host's writes and the distaff socket -/

/-- A host write that waits in an ingress buffer: one line part (R260, R382). -/
structure HostPart where
  part : Nat
  ctx : Nat
  /-- The address the host names. -/
  addr : Word
  gen : Gen
  loc : Nat
  tagged : Bool
  bytes : List Byte
  deriving DecidableEq, Repr

/-- A host-window bundle whose buffer has not applied yet: accesses of the context's cores on the die numbered below
`upto` come before it, and later ones after it (R382). -/
structure HwnMark where
  ctx : Nat
  upto : Nat
  /-- The cycle of the die in which the line released it, where the context has several gangs there (R363, R382). -/
  cyc : Option Nat
  deriving DecidableEq, Repr

/-- A guest packet (R218, R442). -/
structure Packet where
  ctx : Nat
  gen : Gen
  asid : Nat
  gq : Nat
  tl : Nat
  num : Nat
  pseq : Nat
  body : List Byte
  /-- The location of its 64 bytes while they have not been read, and the cycles before they may be (R442). -/
  from_ : Option Nat
  wait : Nat
  deriving DecidableEq, Repr

/-- The states of a packet slot (R447). -/
inductive SlotPhase where
  | free | delivered | checkpointing
  deriving DecidableEq, Repr

structure GuestSlot where
  phase : SlotPhase
  pkt : Option Packet
  deriving DecidableEq, Repr

def GuestSlot.reset : GuestSlot := { phase := .free, pkt := none }

/-- A guest write between its arrival and its performance at guest scope (R441, R373). -/
structure GuestWrite where
  id : Nat
  slot : Nat
  gen : Gen
  tagged : Bool
  loc : Nat
  bytes : List Byte
  asid : Nat
  page : Nat
  deriving DecidableEq, Repr

/-- A PRE that awaits its CKPT (R445). -/
structure PreDuty where
  id : Nat
  ctx : Nat
  abandon : Bool
  /-- GPRE.REQ asked for it (R449). -/
  asked : Bool
  slots : List Nat
  since : Nat
  deriving DecidableEq, Repr

/-- An INV that awaits its INVACK (R445). -/
structure InvDuty where
  id : Nat
  asid : Nat
  lo : Word
  bytes : Word
  since : Nat
  deriving DecidableEq, Repr

/-- The states of the socket (R446). -/
inductive SockPhase where
  | down | training | up | fenced
  deriving DecidableEq, Repr

/-- The distaff socket of a die (R440 to R449). -/
structure Socket where
  phase : SockPhase
  cmd : Nat
  err : Bool
  fovf : Bool
  fcode : Nat
  /-- The tick at which training began (R446). -/
  since : Nat
  pseq : Nat
  slots : SMap GuestSlot
  pq : SMap (List Packet)
  last : Nat
  suspended : List Packet
  resume : List Packet
  invs : List InvDuty
  pres : List PreDuty
  writes : List GuestWrite
  /-- Packets whose CPL has come and whose writes, by number, have not all performed (R443). -/
  closing : List (Packet × List Nat)
  /-- Lines the guest may hold: location, ASID, address (R373, R439). -/
  held : List (Nat × Nat × Nat)
  /-- Snoops sent and not yet answered, by line location. -/
  snoops : List Nat
  nextId : Nat
  deriving DecidableEq, Repr

def Socket.reset : Socket :=
  { phase := .down, cmd := 0, err := false, fovf := false, fcode := 0, since := 0, pseq := 0, slots := [], pq := [], last := 15,
    suspended := [], resume := [], invs := [], pres := [], writes := [], closing := [], held := [], snoops := [], nextId := 0 }

/-! ### A die -/

/-- How far a die has come (R465, R467, R469). -/
inductive DiePhase where
  /-- In service. -/
  | run
  /-- Reset and not yet booted. -/
  | boot
  /-- The boot failed (R467). -/
  | recovery
  /-- Fenced and under self-test, or fenced for good (R469). -/
  | fenced (lasting : Bool)
  deriving DecidableEq, Repr

/-- A die: everything held for it beside its cores and sequencers. -/
structure Die where
  phase : DiePhase
  /-- The time base less the package's tick count, before the slew under way (R31, R421). -/
  tbAdj : Int
  /-- Ticks still to gain or lose when the slew began, and the package's tick count at that time (R421). -/
  slew : Int
  slewAt : Nat
  /-- The tick of the package at which FREE became 1, while it is (R421). -/
  freeAt : Option Nat
  /-- What the die's own clock gains while FREE is 1, in ticks for each 10^9, as far as R421 bounds it: the model's own, a free value
  (log entry 86). -/
  drift : Int
  /-- The stored registers of its control page, by offset (R255). -/
  dctl : SMap Word
  throttled : Bool
  coolSince : Option Nat
  /-- The time at which the last throttling ended: the model's own, for the skewed TBASE reads that follow it (log entry 3). -/
  fastSince : Option Nat
  tlb : List TlbEntry
  icache : List ILine
  inval : List Inval
  /-- A MIGRATE under way: source, destination, frames, and the granules still to come (R405). -/
  mig : Option (Nat × Nat × Nat × List Nat)
  lines : SMap AndLine
  phasers : SMap Phaser
  tls : SMap Timeline
  claims : SMap (Option ClaimSlot)
  clgrp : SMap ClaimGroup
  /-- Value cells: key and value (R432). -/
  cells : SMap (Option (Word × Word))
  /-- Claim-plane messages on their way to this die (R429). -/
  claimIn : List ClaimMsg
  /-- Objections of this die that a late notice has answered: the stamp, and 64 × context + sequencer (R433). -/
  lateSeen : List (Word × Nat)
  /-- Final refusals that have reached this die as the sender, with their reasons (R413). -/
  refused : List (Flit × Nat)
  clsidx : BitVec 12
  clsrec : List Word
  ports : SMap Port
  ingress : List HostPart
  hwn : List HwnMark
  sock : Socket
  /-- Sync tokens spent, by partition (R358), and L2 tokens spent, by slice * 65536 + context (R271). -/
  syncSpent : SMap Nat
  l2Spent : SMap Nat
  /-- The times of the last refills of the sync buckets and of the L2 buckets (R271, R358). -/
  syncAt : SMap Nat
  l2At : SMap Nat
  /-- The security version of the firmware image it runs (R466). -/
  svn : Nat
  deriving DecidableEq, Repr

def Die.reset : Die :=
  { phase := .run, tbAdj := 0, slew := 0, slewAt := 0, freeAt := some 0, drift := 0, dctl := [], throttled := false, coolSince := none, fastSince := none, tlb := [], icache := [],
    inval := [], mig := none, lines := [], phasers := [], tls := [], claims := [], clgrp := [], cells := [],
    claimIn := [], lateSeen := [], refused := [], clsidx := 0, clsrec := [], ports := [], ingress := [], hwn := [], sock := .reset,
    syncSpent := [], l2Spent := [], syncAt := [], l2At := [], svn := 0 }

/-! ### The package -/

/-- The carder (R267, R269): the pass set, the dies whose storage is not yet swept, and whether the L2 lines of a die
have been dropped. -/
structure Carder where
  passes : BitVec 32
  active : Bool
  set : List Nat
  todo : List Nat
  deriving DecidableEq, Repr

/-- BAR 0 registers of a virtual function, or of the physical function's event ring (R305, R470). -/
structure VfRegs where
  evcfg : Word
  evhead : BitVec 32
  evtail : BitVec 32
  hwdisc : BitVec 32
  /-- Device records that wait for room in the ring, oldest first (log entry 21). -/
  waiting : List (List Byte)
  deriving DecidableEq, Repr

def VfRegs.reset : VfRegs := { evcfg := 0, evhead := 0, evtail := 0, hwdisc := 0, waiting := [] }

/-- A verification key slot (R466, R468): its purpose and its keys as one number. -/
structure KeySlot where
  purpose : Nat
  key : Nat
  deriving DecidableEq, Repr

/-- Fuses (R466 to R468): the life-cycle state, the firmware counter, the key slots. -/
structure Fuses where
  lcs : Nat
  fwctr : Nat
  slots : SMap (Option KeySlot)
  deriving DecidableEq, Repr

/-- What has left the package, in order (log entry 17). -/
inductive OutMsg where
  | flit (die port : Nat) (f : Flit)
  | guest (die : Nat) (bytes : List Byte)
  | snoop (die : Nat) (line : Nat)
  | debugRead (values : List Word)
  | scan (instruction : Nat)
  deriving DecidableEq, Repr

/-- A dirty L2 line: the partition that wrote it, and what the DRAM granule holds meanwhile (log entry 8). -/
structure L2Line where
  part : Nat
  old : Line
  oldMeta : TagUnit
  deriving DecidableEq, Repr

/-- The state of the package. -/
structure State where
  /-- Elapsed time in units of 1/17 ns (R2, R31; log entry 1). -/
  time : Nat
  /-- The schedule: events and inputs to come, each with the time units before it (log entry 1). -/
  agenda : List (Nat × Instr)
  /-- The sequencer whose bundle is at issue (log entry 1). -/
  focus : Nat
  /-- Free values drawn so far (log entry 9). -/
  free : Nat
  outside : List OutMsg
  /-- Bytes of every memory, by location (see Machine/Ops). -/
  mem : List Host.Cell
  /-- Metadata of tag units, by the location of their first byte (R256, R402). -/
  metas : SMap TagUnit
  /-- Full/empty bits of scratchpad granules, by location (R370). -/
  full : SMap Bool
  /-- Uncorrectable errors of DRAM: a granule, and the time from which an access to it meets the error (R402; an input). -/
  errors : List (Nat × Nat)
  /-- L2 lines that differ from their DRAM granule: what DRAM holds, by location (log entry 8). -/
  l2 : SMap (Option L2Line)
  cores : SMap Core
  seqs : SMap Seq
  dies : SMap Die
  ctxs : SMap (Option Ctx)
  /-- Unloaded contexts whose ASID is not free yet: their copies still translate (R406). -/
  leaving : List Ctx
  queues : SMap Queue
  flights : List Flight
  /-- The number of the next access or operation issued: the model's own. -/
  nextId : Nat
  maints : List Maint
  /-- PCFG of each partition (R250). -/
  parts : SMap Word
  gpool : Word
  gvstat : SMap Word
  carder : Carder
  whlmap : SMap Word
  /-- Writes of WHLMAP that wait for the next revolution: position, value, first revolution (R381). -/
  whlNext : List (Nat × Word × Nat)
  vfs : SMap VfRegs
  pfEv : VfRegs
  lcResult : Nat
  svn : Nat
  fuses : Fuses
  /-- The recorded core retirements: SPARE of each creel as a boot applies it again; no reset wipes them (R353, R465). -/
  spareRec : SMap Word
  deriving DecidableEq, Repr

/-- PCFG resets with SCOPEMAX = 8 (R250). -/
def pcfgReset : Word := 0x8000
/-- GPOOL resets to SIZE 0x400, LAST 0x3FF, FREE 0x400 (R264). -/
def gpoolReset : Word := 0x0000040003FF0400

/-- The package right after reset (R5, R464): every unit wiped, every register at the value of its map, memory with
nothing listed; every die reads present in DIEMAP (R35; log entry 5); nothing runs and nothing is scheduled (log entry 12). -/
def State.reset : State :=
  { time := 0, agenda := [], focus := 0, free := 0, outside := [], mem := [], metas := [], full := [], errors := [], l2 := [],
    cores := [], seqs := [], dies := [], ctxs := [], leaving := [], queues := [], flights := [], nextId := 0, maints := [], parts := [],
    gpool := gpoolReset, gvstat := [], carder := { passes := 0, active := false, set := [], todo := [] }, whlmap := [],
    whlNext := [], vfs := [], pfEv := .reset, lcResult := 0, svn := 0,
    fuses := { lcs := 0, fwctr := 0, slots := [] }, spareRec := [] }

/-- Why a step ends in a fault. No arm of this model raises one: every trap of the spec is a next state. -/
inductive Fault where
  /-- Raised by no arm. It keeps the type inhabited; safe. -/
  | none
  deriving DecidableEq, Repr

/-- Why a step is refused. -/
inductive Refusal where
  /-- Raised by an arm of `exec` whose instruction has no meaning yet. Safe: the run ends. -/
  | notModelled (mnemonic : String)
  deriving DecidableEq, Repr

end Sys2Proof.Machine
end

