-- ==== Sys2Proof/Machine/Mem.lean ====
section
/-! DEFINITION. The memories of the package: one canonical list of bytes by location, the metadata of their tag units and
the full/empty bits (R26, R182, R256, R257, R370, R402). -/

namespace Sys2Proof.Machine

/-! ### Locations -/

/-- A byte of the DRAM of die d (R392). -/
def locDram (d a : Nat) : Nat := d * 2 ^ 46 + a
/-- A byte of the directly addressed L2 storage of a partition on a die (R251, R396). -/
def locL2 (d part off : Nat) : Nat := 2 ^ 52 + (d * 64 + part) * 2 ^ 32 + off
/-- A byte of the scratchpad of a core (R26). -/
def locSpad (core off : Nat) : Nat := 2 ^ 56 + core * 2 ^ 21 + off
/-- A byte of host memory (R394). -/
def locHost (a : Nat) : Nat := 2 ^ 64 + a
/-- A byte of the firmware flash slots (R465). -/
def locFlash (a : Nat) : Nat := 2 ^ 66 + a
/-- A byte of the life-cycle command block (R468). -/
def locLcblk (a : Nat) : Nat := 2 ^ 67 + a
/-- A byte of the recovery staging window of a die (R467). -/
def locStage (d a : Nat) : Nat := 2 ^ 68 + d * 2 ^ 32 + a
/-- A byte of the staging area that a die's recovery pieces gather in (R467). -/
def locArea (d a : Nat) : Nat := 2 ^ 69 + d * 2 ^ 32 + a
/-- A byte of a fabric address outside the package (R392). -/
def locFabric (a : Nat) : Nat := 2 ^ 80 + a

/-- DRAM of each die: 192 GiB (R392). -/
def dramBytes : Nat := 192 * 2 ^ 30

def isDram (loc : Nat) : Bool := decide (loc < 2 ^ 52)
def isSpad (loc : Nat) : Bool := decide (2 ^ 56 ≤ loc ∧ loc < 2 ^ 64)
def isHost (loc : Nat) : Bool := decide (2 ^ 64 ≤ loc ∧ loc < 2 ^ 66)
def isFabric (loc : Nat) : Bool := decide (2 ^ 80 ≤ loc ∧ loc < 2 ^ 84)
/-- The die that holds a DRAM location. -/
def dramDie (loc : Nat) : Nat := loc / 2 ^ 46
/-- The core that holds a scratchpad location. -/
def spadCore (loc : Nat) : Nat := (loc - 2 ^ 56) / 2 ^ 21

/-! ### Bytes -/

/-- What a byte that nothing lists reads as (R5; log entry 4). -/
def unlistedByte : Byte := 0

/-- The canonical form of memory. -/
def Memory.wf (m : List Host.Cell) : Bool := SMap.wf unlistedByte m
/-- The byte at a location. -/
def Memory.read (m : List Host.Cell) (a : Nat) : Byte := SMap.get unlistedByte m a
/-- Memory with a byte written. -/
def Memory.write (m : List Host.Cell) (a : Nat) (b : Byte) : List Host.Cell := SMap.set unlistedByte m a b
/-- The bytes from a location on. -/
def Memory.readN (m : List Host.Cell) (a : Nat) : (n : Nat) → List Byte
  | 0 => []
  | n + 1 => Memory.read m a :: Memory.readN m (a + 1) n
/-- Memory with bytes written from a location on. -/
def Memory.writeN (m : List Host.Cell) (a : Nat) : List Byte → List Host.Cell
  | [] => m
  | b :: r => Memory.writeN (Memory.write m a b) (a + 1) r
/-- Memory with the bytes of a range at the unlisted value. -/
def Memory.clear (m : List Host.Cell) (a n : Nat) : List Host.Cell :=
  SMap.keep (fun k => !(decide (a ≤ k ∧ k < a + n))) m

/-- A word of 8 bytes, least significant byte first. -/
def wordOf (bs : List Byte) : Word := BitVec.ofNat 64 (wordOfBytes bs)
/-- The 8 bytes of a word. -/
def bytesOf (w : Word) : List Byte := bytesOfWord 8 w.toNat

/-- A raw read of one byte, with no tag check. -/
def State.rawByte (s : State) (a : Nat) : Byte := Memory.read s.mem a
/-- A raw read of bytes. -/
def State.raw (s : State) (a n : Nat) : List Byte := Memory.readN s.mem a n
/-- A raw read of a 64-bit word. -/
def State.rawWord (s : State) (a : Nat) : Word := wordOf (s.raw a 8)
/-- A raw write of bytes. -/
def State.putRaw (s : State) (a : Nat) (bs : List Byte) : State := { s with mem := Memory.writeN s.mem a bs }

/-! ### Tag units (R256, R257) -/

/-- Bytes of the tag unit of a location: a 256-byte scratchpad row, a 64-byte line or granule. -/
def unitSize (loc : Nat) : Nat := if isSpad loc then 256 else 64
/-- The first byte of the tag unit of a location. -/
def unitBase (loc : Nat) : Nat := loc / unitSize loc * unitSize loc
/-- The metadata of the unit of a location. -/
def State.unit (s : State) (loc : Nat) : TagUnit := SMap.get .wiped s.metas (unitBase loc)
/-- The state with the metadata of the unit of a location. -/
def State.setUnit (s : State) (loc : Nat) (u : TagUnit) : State :=
  { s with metas := SMap.set .wiped s.metas (unitBase loc) u }

/-- How an access meets tags: its captured generation, whether tags are checked and stamped (R258, R401), and the
partition whose L2 ways take the line. -/
structure Acc where
  gen : Gen
  tagged : Bool
  part : Option Nat
  deriving DecidableEq, Repr

/-- A byte as a generation reads it (R182). -/
def State.readByte (s : State) (a : Acc) (loc : Nat) : Byte :=
  if a.tagged && !(s.unit loc).tag.is a.gen then 0 else s.rawByte loc
/-- Bytes as a generation reads them. -/
def State.readBytes (s : State) (a : Acc) (loc : Nat) : (n : Nat) → List Byte
  | 0 => []
  | n + 1 => s.readByte a loc :: State.readBytes s a (loc + 1) n

/-- The first bytes of the tag units that a range touches. -/
def unitsOf (loc n : Nat) : List Nat :=
  if n = 0 then [] else
    let u := unitSize loc
    (upFrom (loc / u) ((loc + n - 1) / u - loc / u + 1)).map (· * u)

/-- Whether a read of the range meets a poisoned granule it may see (R402). -/
def State.readsPoison (s : State) (a : Acc) (loc n : Nat) : Bool :=
  (unitsOf loc n).any fun u => (s.unit u).poison && (!a.tagged || (s.unit u).tag.is a.gen)
/-- Whether the range meets a granule whose integrity is pending (R402). -/
def State.meetsPend (s : State) (loc n : Nat) : Bool := (unitsOf loc n).any fun u => (s.unit u).pend

/-- Every full/empty bit of a range reads empty. -/
def State.clearFull (s : State) (loc n : Nat) : State :=
  { s with full := SMap.keep (fun k => !(decide (loc ≤ k ∧ k < loc + n))) s.full }

/-- Ways of a partition's L2 share on a die that are cache (R251). -/
def State.cacheWays (s : State) (d part : Nat) : Nat :=
  let pl2 := SMap.get 0 (SMap.get Die.reset s.dies d).dctl (0x4000 + 0x40 * part + 8)
  (pl2.extractLsb' 0 5).toNat - (pl2.extractLsb' 8 5).toNat

/-- The line becomes dirty in L2: what the DRAM granule holds is kept beside it (log entry 8). -/
def State.dirty (s : State) (a : Acc) (loc : Nat) : State :=
  match a.part with
  | none => s
  | some p =>
    let u := unitBase loc
    if isDram loc && decide (0 < s.cacheWays (dramDie loc) p) && (SMap.get none s.l2 u).isNone then
      let line : L2Line := { part := p, old := BitVec.ofNat 512 (wordOfBytes (s.raw u 64)), oldMeta := s.unit u }
      { s with l2 := SMap.set none s.l2 u (some line) }
    else s

/-- The unit of a location made ready for a write under a generation: a unit with another tag is zeroed and its
full/empty bits read empty; the write stamps it (R182, R256). -/
def State.stamp (s : State) (a : Acc) (loc : Nat) : State :=
  if !a.tagged || (s.unit loc).tag.is a.gen then s
  else
    let u := unitBase loc
    let n := unitSize loc
    let s := { s with mem := Memory.clear s.mem u n }
    let s := if isSpad loc then s.clearFull u n else s
    s.setUnit loc { tag := Tag.of a.gen, poison := false, pend := (s.unit loc).pend }

/-- The controller finds an uncorrectable error in a DRAM granule: its metadata is rewritten under a generation, poisoned (R402). PEND is
rewritten as 0: DESIGN CHOICE (log entry 66). -/
def State.spoil (s : State) (g : Gen) (loc : Nat) : State := s.setUnit loc { tag := Tag.of g, poison := true, pend := false }

/-- An access under a generation meets the uncorrectable errors of the granules that it touches (R402). -/
def State.meetErrors (s : State) (g : Gen) (loc n : Nat) : State :=
  let due (e : Nat × Nat) : Bool := isDram e.1 && decide (e.2 ≤ s.time ∧ loc / 64 * 64 ≤ e.1 ∧ e.1 < loc + n)
  (s.errors.filter due).foldl (fun s e => s.spoil g e.1) { s with errors := s.errors.filter fun e => !due e }

/-- A write of bytes that lie in one tag unit (R182, R402): a partial write of a poisoned granule is discarded, and a
write of the whole granule clears POISON. -/
def State.writeUnit (s : State) (a : Acc) (loc : Nat) (bs : List Byte) : State :=
  let s := (s.dirty a loc).stamp a loc
  let m := s.unit loc
  if m.poison && !isSpad loc then
    if bs.length = 64 then (s.setUnit loc { m with poison := false }).putRaw loc bs else s
  else s.putRaw loc bs

/-- A write of bytes, by tag unit. -/
def State.writeUnits (a : Acc) : (fuel : Nat) → State → (loc : Nat) → List Byte → State
  | 0, s, _, _ => s
  | k + 1, s, loc, bs =>
    match bs with
    | [] => s
    | _ =>
      let n := unitBase loc + unitSize loc - loc
      State.writeUnits a k (s.writeUnit a loc (bs.take n)) (loc + n) (bs.drop n)

/-- A write of bytes under a generation. -/
def State.writeBytes (s : State) (a : Acc) (loc : Nat) (bs : List Byte) : State :=
  State.writeUnits a (bs.length / 64 + 2) s loc bs

/-! ### Full/empty bits (R370) -/

/-- The granule of a scratchpad location reads full under a generation. -/
def State.isFull (s : State) (g : Gen) (loc : Nat) : Bool :=
  (s.unit loc).tag.is g && SMap.get false s.full (loc / 16 * 16)
/-- The granule of a scratchpad location set full or empty under a generation, which stamps its row. -/
def State.setFull (s : State) (g : Gen) (loc : Nat) (b : Bool) : State :=
  let s := s.stamp { gen := g, tagged := true, part := none } loc
  { s with full := SMap.set false s.full (loc / 16 * 16) b }

/-! ### Wipes -/

/-- A range of whole tag units wiped: data zero, Z = 1, full/empty bits empty (R256). -/
def State.wipeRange (s : State) (loc n : Nat) : State :=
  { s with mem := Memory.clear s.mem loc n,
           metas := SMap.keep (fun k => !(decide (loc ≤ k ∧ k < loc + n))) s.metas,
           full := SMap.keep (fun k => !(decide (loc ≤ k ∧ k < loc + n))) s.full,
           l2 := SMap.keep (fun k => !(decide (loc ≤ k ∧ k < loc + n))) s.l2 }

/-- The scratchpad of a core wiped. -/
def State.wipeSpad (s : State) (core : Nat) : State := s.wipeRange (locSpad core 0) (2 ^ 21)

end Sys2Proof.Machine
end

