-- ==== Sys2Proof/Machine/Ops.lean ====
section
/-! DEFINITION. The named operations over the state: numbering and accessors, reading and landing registers (R52 to R59),
time, event records (R309), and taking and returning from a trap (R237 to R243). -/

namespace Sys2Proof.Machine

/-! ### Numbering and accessors -/

def dieOfCore (c : Nat) : Nat := c / 160
def dieOfSeq (q : Nat) : Nat := q / 40
/-- The creel of a core or of a sequencer, numbered through the package. -/
def creelOfCore (c : Nat) : Nat := c / 16
def creelOfSeq (q : Nat) : Nat := q / 4
/-- The core at a logical position of a creel. -/
def coreAt (creel pos : Nat) : Nat := creel * 16 + pos
/-- The partition of a CTXID (R252). -/
def partOf (ctxid : Nat) : Nat := ctxid / 1024

def State.core (s : State) (c : Nat) : Core := SMap.get .reset s.cores c
def State.setCore (s : State) (c : Nat) (k : Core) : State := { s with cores := SMap.set .reset s.cores c k }
def State.modCore (s : State) (c : Nat) (f : Core → Core) : State := s.setCore c (f (s.core c))
def State.seq (s : State) (q : Nat) : Seq := SMap.get .reset s.seqs q
def State.setSeq (s : State) (q : Nat) (x : Seq) : State := { s with seqs := SMap.set .reset s.seqs q x }
def State.modSeq (s : State) (q : Nat) (f : Seq → Seq) : State := s.setSeq q (f (s.seq q))
def State.die (s : State) (d : Nat) : Die := SMap.get .reset s.dies d
def State.setDie (s : State) (d : Nat) (x : Die) : State := { s with dies := SMap.set .reset s.dies d x }
def State.modDie (s : State) (d : Nat) (f : Die → Die) : State := s.setDie d (f (s.die d))
def State.ctx? (s : State) (x : Nat) : Option Ctx := SMap.get none s.ctxs x
def State.setCtx (s : State) (x : Nat) (c : Option Ctx) : State := { s with ctxs := SMap.set none s.ctxs x c }
/-- A loaded context changed; nothing when it is not loaded. -/
def State.modCtx (s : State) (x : Nat) (f : Ctx → Ctx) : State :=
  match s.ctx? x with
  | some c => s.setCtx x (some (f c))
  | none => s
def State.queue (s : State) (n : Nat) : Queue := SMap.get .reset s.queues n
def State.setQueue (s : State) (n : Nat) (x : Queue) : State := { s with queues := SMap.set .reset s.queues n x }
def State.modQueue (s : State) (n : Nat) (f : Queue → Queue) : State := s.setQueue n (f (s.queue n))
def State.vf (s : State) (p : Nat) : VfRegs := SMap.get .reset s.vfs p
def State.setVf (s : State) (p : Nat) (x : VfRegs) : State := { s with vfs := SMap.set .reset s.vfs p x }

/-- What a stored register of a die's control page resets to: TARGET and RATE of PDRAM (R273), SUB of SPARE (R353), LIMIT
of LWDOG (R420); zero elsewhere. -/
def dctlReset (off : Nat) : Word :=
  if 0x4000 ≤ off ∧ off < 0x5000 ∧ off % 0x40 = 0x10 then 0x0000FFFF00000100
  else if 0x5000 ≤ off ∧ off < 0x5A00 ∧ off % 0x100 = 0x80 then 0x1F000000
  else if off = 0xB308 then 0x400
  else 0
/-- A stored register of a die's control page, by its offset (R255). -/
def State.dctl (s : State) (d off : Nat) : Word := SMap.get (dctlReset off) (s.die d).dctl off
def State.setDctl (s : State) (d off : Nat) (v : Word) : State :=
  s.modDie d fun x => { x with dctl := SMap.set (dctlReset off) x.dctl off v }
/-- A stored register of a context's control page, by its offset (R255). -/
def Ctx.ctl (c : Ctx) (off : Nat) : Word := SMap.get 0 c.cctl off
def Ctx.setCtl (c : Ctx) (off : Nat) (v : Word) : Ctx := { c with cctl := SMap.set 0 c.cctl off v }

/-- A field of a word as a number. -/
def fieldOf (w : Word) (lo n : Nat) : Nat := w.toNat / 2 ^ lo % 2 ^ n
/-- A word with a field replaced. -/
def setField (w : Word) (lo n v : Nat) : Word :=
  BitVec.ofNat 64 (w.toNat % 2 ^ lo + v % 2 ^ n * 2 ^ lo + w.toNat / 2 ^ (lo + n) * 2 ^ (lo + n))

/-- The cores of a sequencer's gang, by CRANK (R335). -/
def State.gang (s : State) (q : Nat) : List Nat := (s.seq q).gang
/-- The lead core of a gang (R102). -/
def State.lead (s : State) (q : Nat) : Nat := (s.seq q).gang.headD 0
/-- The context a sequencer runs. -/
def State.ctxOf (s : State) (q : Nat) : Option Ctx := (s.seq q).ctx.bind s.ctx?
/-- The generation under which a sequencer's bundles issue (R254). -/
def State.genOf (s : State) (q : Nat) : Gen := (s.ctxOf q).elim 0 Ctx.gen
/-- The compatibility level of a sequencer's context; 0 acts as 3 (R88). -/
def State.levelOf (s : State) (q : Nat) : Nat := (s.ctxOf q).elim 3 fun c => if c.compat = 0 then 3 else c.compat.toNat
/-- The same for a context by its CTXID. -/
def State.ctxLevel (s : State) (x : Nat) : Nat := (s.ctx? x).elim 3 fun c => if c.compat = 0 then 3 else c.compat.toNat
/-- CTXID of the context a sequencer runs. -/
def State.ctxIdOf (s : State) (q : Nat) : Nat := (s.seq q).ctx.getD 0
/-- Every sequencer of the package. -/
def allSeqs : List Nat := List.range 320
/-- The dies of the package. -/
def allDies : List Nat := List.range 8
/-- The sequencer whose gang holds a core. -/
def State.seqOfCore (s : State) (c : Nat) : Option Nat :=
  (upFrom (creelOfCore c * 4) 4).find? fun q => (s.gang q).contains c

/-- A die present in DIEMAP (R35, R36). -/
def State.present (s : State) (d : Nat) : Bool :=
  match (s.die d).phase with
  | .run => true
  | _ => false

/-! ### Redundant pairs (R349, R350) -/

/-- The sequencer is the primary of an enabled pair. -/
def State.paired (s : State) (q : Nat) : Bool :=
  let creel := creelOfSeq q % 10
  creel % 2 == 0 && (s.dctl (dieOfSeq q) (0x5A00 + 8 * (creel / 2))).getLsbD (q % 4)
/-- The shadow of a core of a primary gang (R350). -/
def shadowCore (c : Nat) : Nat := c + 16
/-- The cores that run a gang's bundles: the gang, and its shadows. -/
def State.allCores (s : State) (q : Nat) : List Nat :=
  if s.paired q then s.gang q ++ (s.gang q).map shadowCore else s.gang q

/-- The core whose causes a core of a list records: a shadow records those of its primary (R238, R350). -/
def primaryIn (gang : List Nat) (c : Nat) : Nat := if gang.contains c then c else c - 16

/-! ### Time (R2, R31) -/

/-- Ticks of the package's time base, before a die's own adjustment. -/
def State.ticks (s : State) : Nat := s.time / 17
/-- What a slew has gained or lost by a tick: one tick in each 64 (R421). -/
def Die.slewed (x : Die) (now : Nat) : Int :=
  let n : Int := ((now - x.slewAt) / 64 : Nat)
  if 0 ≤ x.slew then min x.slew n else max x.slew (-n)
/-- What the die's own clock has gained or lost by a tick while FREE is 1: at most 1 tick in each 10^6 (R421; log entry 86). -/
def Die.drifted (x : Die) (now : Nat) : Int :=
  x.freeAt.elim 0 fun t => (max (-1000) (min 1000 x.drift) * ((now - t : Nat) : Int)) / 1000000000
/-- The time base of a die (R31, R421). -/
def State.tbase (s : State) (d : Nat) : Nat :=
  let x := s.die d
  ((s.ticks : Int) + x.tbAdj + x.slewed s.ticks + x.drifted s.ticks).toNat % 2 ^ 64
/-- Units of 1/17 ns of one arithmetic cycle of a die (R31). -/
def State.cycleUnits (s : State) (d : Nat) : Nat := if (s.die d).throttled then 40 else 20
/-- The cycle of a die that the present time lies in. -/
def State.cycleNo (s : State) (d : Nat) : Nat := s.time / s.cycleUnits d

/-! ### Registers (R46 to R55, R58) -/

/-- BASE of RRB as a generation reads it (R53). -/
def Core.base (k : Core) (g : Gen) : Nat := (k.sp.rrb.read g).toNat % 32
/-- The live depth (R54). -/
def Core.depth (k : Core) (g : Gen) : Nat := let d := (k.sp.lived.read g).toNat % 32; if d = 0 then 32 else d
/-- The physical register of a logical vector name (R52). -/
def physV (base n : Nat) : Nat := if n < 32 then n else 32 + (n + 32 - base) % 32
/-- The logical name of a physical register (R54). -/
def logicalV (base p : Nat) : Nat := if p < 32 then p else 32 + (p + base) % 32
/-- A physical register is dead (R54). -/
def Core.dead (k : Core) (g : Gen) (p : Nat) : Bool :=
  decide (32 ≤ p ∧ 32 + k.depth g ≤ logicalV (k.base g) p)

/-- A scalar source: s0 to s31, ls0 at 32, ls1 at 33 (R48). -/
def Core.readS (k : Core) (g : Gen) (r : Nat) : Word :=
  if r = 0 then 0
  else if r < 32 then (SMap.get (Reg.wiped 64) k.sc.s r).read g
  else (SMap.get (Reg.wiped 64) k.sc.ls (r - 32)).read g
/-- A guard (R46). -/
def Core.readQ (k : Core) (g : Gen) (r : Nat) : Bool :=
  decide (r = 0) || decide ((SMap.get (Reg.wiped 1) k.sc.q r).read g = 1)
/-- A predicate (R46). -/
def Core.readP (k : Core) (g : Gen) (r : Nat) : Pred :=
  if r = 0 then BitVec.allOnes 128 else (SMap.get (Reg.wiped 128) k.ve.p r).read g
/-- An address register (R46). -/
def Core.readA (k : Core) (g : Gen) (r : Nat) : Word :=
  if r = 0 then 0 else (SMap.get (Reg.wiped 64) k.me.a r).read g
/-- A shape register (R205). -/
def Core.readH (k : Core) (g : Gen) (r : Nat) : Word := (SMap.get (Reg.wiped 64) k.me.h r).read g
/-- A bobbin descriptor (R153). -/
def Core.readB (k : Core) (g : Gen) (r : Nat) : QWord := (SMap.get (Reg.wiped 128) k.me.b r).read g
/-- A format entry (R91). -/
def Core.readF (k : Core) (g : Gen) (r : Nat) : QWord := (SMap.get (Reg.wiped 128) k.mx.f r).read g
/-- A tile: its one tag covers all its elements (R55). -/
def Core.readT (k : Core) (g : Gen) (r : Nat) : Tile := (SMap.get (Reg.wiped 32768) k.mx.t r).read g
/-- A vector register by logical name; a dead register reads zero (R54, R58). -/
def Core.readV (k : Core) (g : Gen) (n : Nat) : VWord :=
  let p := physV (k.base g) n
  if k.dead g p then 0 else (SMap.get (Reg.wiped 2048) k.ve.v p).read g

/-! ### Landing (R51, R56, R59) -/

/-- The mask of 16-bit sub-lanes spread over the bits of a vector register. -/
def spreadMask : (lanes : Nat) → (m : Nat) → Nat
  | 0, _ => 0
  | k + 1, m => (if m % 2 = 1 then 65535 else 0) + 65536 * spreadMask k (m / 2)

/-- The value committed: new where the mask is 1, old elsewhere (R59). -/
def mergeLanes (m : Pred) (old new : VWord) : VWord :=
  if m = BitVec.allOnes 128 then new
  else
    let b : VWord := BitVec.ofNat 2048 (spreadMask 128 m.toNat)
    (new &&& b) ||| (old &&& ~~~b)

/-- The last-result file of the scalar slot shifts (R51). -/
def ScalarRegs.shift (r : ScalarRegs) (v : Word) (g : Gen) : ScalarRegs :=
  { r with ls := SMap.set (Reg.wiped 64) (SMap.set (Reg.wiped 64) r.ls 1 (SMap.get (Reg.wiped 64) r.ls 0)) 0 (Reg.of v g) }

/-- A two-entry last-result file shifted (R51). -/
def shiftLast (f : SMap (Reg 2048)) (v : VWord) (g : Gen) : SMap (Reg 2048) :=
  SMap.set (Reg.wiped 2048) (SMap.set (Reg.wiped 2048) f 1 (SMap.get (Reg.wiped 2048) f 0)) 0 (Reg.of v g)

/-- The last-result file of a vector path shifts; paths X and L shift none (R51). -/
def VectorRegs.shift (r : VectorRegs) (p : WPath) (v : VWord) (g : Gen) : VectorRegs :=
  match p with
  | .va => { r with la := shiftLast r.la v g }
  | .vb => { r with lb := shiftLast r.lb v g }
  | _ => r

/-- `commit` of R59; `g` is the generation of the running context, which decides what is dead. -/
def Core.commit (k : Core) (g : Gen) (e : LqEntry) : Core :=
  match e.file with
  | .s =>
    let v := e.value.setWidth 64
    let sc := if e.index = 0 then k.sc else { k.sc with s := SMap.set (Reg.wiped 64) k.sc.s e.index (Reg.of v e.gen) }
    { k with sc := if e.path = .s then sc.shift v e.gen else sc }
  | .q =>
    if e.index = 0 then k
    else { k with sc := { k.sc with q := SMap.set (Reg.wiped 1) k.sc.q e.index (Reg.of (e.value.setWidth 1) e.gen) } }
  | .a =>
    if e.index = 0 then k
    else { k with me := { k.me with a := SMap.set (Reg.wiped 64) k.me.a e.index (Reg.of (e.value.setWidth 64) e.gen) } }
  | .p =>
    if e.index = 0 then k
    else
      let old := (SMap.get (Reg.wiped 128) k.ve.p e.index).read e.gen
      let v := (e.value.setWidth 128 &&& e.mask) ||| (old &&& ~~~e.mask)
      { k with ve := { k.ve with p := SMap.set (Reg.wiped 128) k.ve.p e.index (Reg.of v e.gen) } }
  | .v =>
    let v := mergeLanes e.mask ((SMap.get (Reg.wiped 2048) k.ve.v e.index).read e.gen) e.value
    let ve := if k.dead g e.index then k.ve
      else { k.ve with v := SMap.set (Reg.wiped 2048) k.ve.v e.index (Reg.of v e.gen) }
    { k with ve := ve.shift e.path v e.gen }
  | .oa =>
    let v := mergeLanes e.mask ((SMap.get (Reg.wiped 2048) k.ve.oa e.index).read e.gen) e.value
    let ve := { k.ve with oa := SMap.set (Reg.wiped 2048) k.ve.oa e.index (Reg.of v e.gen) }
    { k with ve := ve.shift e.path v e.gen }
  | .ob =>
    let v := mergeLanes e.mask ((SMap.get (Reg.wiped 2048) k.ve.ob e.index).read e.gen) e.value
    let ve := { k.ve with ob := SMap.set (Reg.wiped 2048) k.ve.ob e.index (Reg.of v e.gen) }
    { k with ve := ve.shift e.path v e.gen }

/-- `land` of R59: the result joins the bundle's fresh results, with the generation captured at issue. -/
def Core.land (k : Core) (g : Gen) (path : WPath) (file : RFile) (index : Nat) (mask : Pred) (value : VWord) (lat : Nat) : Core :=
  let e : LqEntry := { rem := lat - 1, path := path, file := file, index := index, gen := g, mask := mask, value := value,
                       held := false, load := none }
  { k with pp := { k.pp with fresh := k.pp.fresh ++ [e] } }

/-- A scalar result. -/
def Core.landS (k : Core) (g : Gen) (path : WPath) (r : Nat) (v : Word) (lat : Nat) : Core :=
  k.land g path .s r (BitVec.allOnes 128) (v.setWidth 2048) lat

/-- Commits a list of entries in order. -/
def Core.commitAll (k : Core) (g : Gen) : List LqEntry → Core
  | [] => k
  | e :: r => Core.commitAll (k.commit g e) g r

/-- The landing of one issue cycle (R59): entries already queued count down and commit at zero, then the bundle's own
latency-1 results commit and its other results join the queue. -/
def Core.landCycle (k : Core) (g : Gen) : Core :=
  let q := k.pp.lq.map fun e => if e.held then e else { e with rem := e.rem - 1 }
  let done := q.filter fun e => !e.held && e.rem == 0
  let keep := q.filter fun e => e.held || e.rem != 0
  let now := k.pp.fresh.filter fun e => e.rem == 0
  let later := k.pp.fresh.filter fun e => e.rem != 0
  let k := k.commitAll g (done ++ now)
  { k with pp := { k.pp with lq := keep ++ later, fresh := [], busy := k.pp.busy ++ (done ++ now).map LqEntry.path } }

/-- Entries in the order in which their remaining issue cycles would commit them (R59). -/
def byRem (l : List LqEntry) : List LqEntry := (List.range 16).flatMap fun r => l.filter fun e => e.rem == r

/-- Every entry that is not held commits at once, in the order of R59 (R235, R243, R280). -/
def Core.commitNow (k : Core) (g : Gen) : Core :=
  let k' := k.commitAll g (byRem (k.pp.lq.filter fun e => !e.held))
  { k' with pp := { k'.pp with lq := k'.pp.lq.filter fun e => e.held, busy := k'.pp.busy ++ (k.pp.lq.filter fun e => !e.held).map LqEntry.path } }

/-- Held entries count again with the others (R235). -/
def Core.unhold (k : Core) : Core := { k with pp := { k.pp with lq := k.pp.lq.map fun e => { e with held := false } } }

/-- Whether an own-scratchpad load of the queue, not held, still has its read cycle to come (R183). -/
def Core.readsPending (k : Core) : Bool := k.pp.lq.any fun e => !e.held && e.load.isSome

/-! ### Event rings (R305, R309, R470) -/

/-- A record of 16 bytes (R245, R309). -/
def eventRecord (value : Word) (code ctxid : Nat) (device : Bool) : List Byte :=
  bytesOf value ++ bytesOfWord 2 code ++ bytesOfWord 2 ctxid ++ [0, 0, 0, if device then 0x80 else 0]

/-- Records the ring holds (R305). -/
def VfRegs.ringSize (v : VfRegs) : Nat := 2 ^ (fieldOf v.evcfg 0 4 + 6)
/-- The ring is full. -/
def VfRegs.ringFull (v : VfRegs) : Bool := decide (v.ringSize ≤ (v.evtail - v.evhead).toNat)
/-- The host location of the next record. -/
def VfRegs.ringLoc (v : VfRegs) : Nat :=
  locHost (v.evcfg.toNat / 4096 * 4096 + v.evtail.toNat % v.ringSize * 16)
def VfRegs.posted (v : VfRegs) : VfRegs := { v with evtail := v.evtail + 1 }

/-- A device record that meets a full ring waits for room (log entry 21). -/
def VfRegs.later (v : VfRegs) (r : List Byte) : VfRegs := { v with waiting := v.waiting ++ [r] }

/-- A device record posted to the ring of a virtual function, or kept until there is room (R305, log entry 21). -/
def State.postVf (s : State) (p : Nat) (value : Word) (code ctxid : Nat) : State :=
  let v := s.vf p
  if v.ringFull then s.setVf p (v.later (eventRecord value code ctxid true))
  else (s.putRaw v.ringLoc (eventRecord value code ctxid true)).setVf p v.posted

/-- An event posted to the physical function's ring, or kept until there is room (R470). -/
def State.postPf (s : State) (value : Word) (code ctxid : Nat) : State :=
  let v := s.pfEv
  if v.ringFull then { s with pfEv := v.later (eventRecord value code ctxid true) }
  else { (s.putRaw v.ringLoc (eventRecord value code ctxid true)) with pfEv := v.posted }

/-- The records that wait are posted while there is room: memory, and the ring's registers. -/
def State.flushRing : List (List Byte) → State → VfRegs → State × VfRegs
  | [], s, v => (s, { v with waiting := [] })
  | r :: rest, s, v =>
    if v.ringFull then (s, { v with waiting := r :: rest })
    else State.flushRing rest (s.putRaw v.ringLoc r) v.posted

/-- The ring registers of a virtual function change, and records that waited for room follow (R305, log entry 21). -/
def State.ringVf (s : State) (p : Nat) (v : VfRegs) : State :=
  let (t, y) := State.flushRing v.waiting s v
  t.setVf p y

/-- The same for the physical function. -/
def State.ringPf (s : State) (v : VfRegs) : State :=
  let (t, y) := State.flushRing v.waiting s v
  { t with pfEv := y }

/-- Something leaves the package (log entry 17). -/
def State.out (s : State) (m : OutMsg) : State := { s with outside := s.outside ++ [m] }

/-! ### Traps (R237 to R241) -/

/-- Trap causes by code (R237). -/
def cILLOP : Nat := 1
def cPRIV : Nat := 2
def cALIGN : Nat := 3
def cXLATE : Nat := 4
def cPERM : Nat := 5
def cPOISON : Nat := 6
def cQIMB : Nat := 7
def cSPBUSY : Nat := 8
def cACCFIRST : Nat := 9
def cWAITTO : Nat := 10
def cLATEOBJ : Nat := 11
def cLINKFLT : Nat := 12
def cGRPFLT : Nat := 13
def cPAIRMIS : Nat := 14
def cOVERRUN : Nat := 15
def cQUOTA : Nat := 16
def cDEBUG : Nat := 17
def cBRK : Nat := 18
def cTRAP : Nat := 19

/-- Whether a cause vectors to the tenant handler (R237). -/
def tenantCause (c : Nat) : Bool :=
  c == cILLOP || c == cALIGN || c == cQIMB || c == cSPBUSY || c == cWAITTO || c == cLATEOBJ || c == cTRAP

/-- A cause raised on a core by a slot; `info` for `y.trap` (R241). -/
structure Raise where
  core : Nat
  slot : Nat
  cause : Nat
  info : Nat
  deriving DecidableEq, Repr

/-- TCAUSE as a trap writes it (R241). -/
def tcauseWord (info slot frm : Nat) (act nest pmode : Bool) (cause : Nat) : Word :=
  BitVec.ofNat 64 (info * 2 ^ 48 + slot * 2 ^ 36 + frm * 2 ^ 32 + (if act then 512 else 0) + (if nest then 256 else 0)
    + (if pmode then 128 else 0) + cause)

def tcAct (w : Word) : Bool := w.getLsbD 9
def tcNest (w : Word) : Bool := w.getLsbD 8
def tcPmode (w : Word) : Bool := w.getLsbD 7
def tcCause (w : Word) : Nat := w.toNat % 64

/-- A handler is active on a sequencer (R241). -/
def State.acting (s : State) (q : Nat) : Bool := tcAct (s.core (s.lead q)).sp.tcause

/-- A bundle address: bits [5:0] clear (R38). -/
def lineAddr (w : Word) : Word := w &&& ~~~63#64

/-- The system trap vector of a die (R237). -/
def State.sysvec (s : State) (d : Nat) : Word := lineAddr (s.dctl d 0)

/-- The cores of a list changed by a function of the core's number. -/
def State.modCores (s : State) (f : Nat → Core → Core) : List Nat → State
  | [] => s
  | c :: r => State.modCores (s.modCore c (f c)) f r

/-- Trap entry (R238, R240): the causes raised, and the address TPC holds. The cause of the lowest CRANK decides the
vector; a trap in a nested system handler halts the sequencer. -/
def State.trapEntry (s : State) (q : Nat) (rs : List Raise) (tpc : Word) : State :=
  let sq := s.seq q
  let lead := (s.core (s.lead q)).sp.tcause
  let act := tcAct lead
  let frm := (sq.gang.filter fun c => rs.any fun r => r.core == c).headD (s.lead q)
  let cause := ((rs.find? fun r => r.core == frm).map Raise.cause).getD 0
  if act && tcNest lead && sq.sys then
    (s.modSeq q fun x => { x with phase := .stopped }).postPf tpc 0xE001 (s.ctxIdOf q)
  else
    let handler := (s.ctxOf q).bind fun c => c.image.handler
    let sys := sq.sys || act || !tenantCause cause || handler.isNone
    let vec := if sys then s.sysvec (dieOfSeq q) else lineAddr (handler.getD 0)
    let fromRank := (s.core frm).sp.crank
    let mark (c : Nat) (k : Core) : Core :=
      let (ca, sl, info) := match rs.find? fun r => r.core == primaryIn sq.gang c with
        | some r => (r.cause, r.slot, r.info)
        | none => (0, 0, 0)
      { k with
        sp := { k.sp with tpc := lineAddr tpc, tcause := tcauseWord info sl fromRank true act sq.sys ca },
        pp := { k.pp with lq := k.pp.lq.map (fun e => { e with held := true }), fresh := [], post := [], waitCnt := 0,
                          fed := [] } }
    (s.modCores mark (s.allCores q)).modSeq q fun x =>
      { x with sys := sys, pc := vec, phase := .bubble 2, xfer := none, post := [], whl := none, lineUp := false,
                 released := false, reserved := [], mword := none }

/-- An asynchronous cause taken before the next bundle (R239): recorded on every core, slot 15. -/
def State.asyncEntry (s : State) (q : Nat) (cause : Nat) : State :=
  (s.modSeq q fun x => { x with async := x.async.erase cause }).trapEntry q
    ((s.gang q).map fun c => { core := c, slot := 15, cause := cause, info := 0 }) (s.seq q).pc

/-- The return from a trap (R243): the handler's entries commit, held entries are released, the mode becomes PMODE when
the return issues in system mode, and the bundle at TPC is next. -/
def State.trapReturn (s : State) (q : Nat) : State :=
  let g := s.genOf q
  let sq := s.seq q
  let lead := (s.core (s.lead q)).sp
  let sys := if sq.sys then tcPmode lead.tcause else false
  let k' (_ : Nat) (k : Core) : Core :=
    let k := k.commitNow g
    { k with sp := { k.sp with tcause := k.sp.tcause &&& ~~~512#64 },
             pp := { k.pp with lq := k.pp.lq.map fun e => { e with held := false } } }
  let skip := if tcCause lead.tcause = cBRK ∧ sq.brkAt = some lead.tpc then some lead.tpc else none
  (s.modCores k' (s.allCores q)).modSeq q fun x =>
    { x with sys := sys, pc := lead.tpc, phase := .bubble 2, brkSkip := skip }

/-- An asynchronous cause becomes pending on a sequencer (R239). -/
def State.pend (s : State) (q cause : Nat) : State :=
  s.modSeq q fun x => if x.async.contains cause then x else { x with async := x.async ++ [cause] }

/-- Counts of the bundle at issue start again (R195, R360). -/
def State.clearWaits (s : State) (q : Nat) : State :=
  s.modCores (fun _ k => { k with pp := { k.pp with waitCnt := 0 } }) (s.gang q)

/-- A number for the next operation issued. -/
def State.fresh (s : State) : State := { s with nextId := s.nextId + 1 }

end Sys2Proof.Machine
end

