-- ==== Sys2Proof/Machine/Flags.lean ====
section
/-! DEFINITION. Conditions of `s.cmp` and `s.brc` (R107) and of the vector integer compare (R145). The device has no status
bits: a compare writes a guard or a predicate. -/

namespace Sys2Proof.Machine

/-- `cond` of R107 on two integers given both ways. -/
def condInt (cc : Nat) (su sv : Int) (zu zv : Nat) : Bool :=
  match cc with
  | 0 => zu == zv
  | 1 => zu != zv
  | 2 => decide (su < sv)
  | 3 => decide (su ≤ sv)
  | 4 => decide (su > sv)
  | 5 => decide (su ≥ sv)
  | 6 => decide (zu < zv)
  | 7 => decide (zu ≤ zv)
  | 8 => decide (zu > zv)
  | 9 => decide (zu ≥ zv)
  | _ => false

/-- `cond(A, B)` of R107 on 64-bit patterns. -/
def cond (cc : Nat) (a b : Word) : Bool := condInt cc a.toInt b.toInt a.toNat b.toNat

end Sys2Proof.Machine
end

