-- ==== Sys2Proof/Machine/Regs.lean ====
section
/-! DEFINITION. The hardware loop stack (R114 to R118) and the special registers (R119 to R121, and the field maps they
cite). -/

namespace Sys2Proof.Machine

/-! ### The loop stack -/

def Seq.lstaOf (x : Seq) (l : Nat) : Word := SMap.get 0 x.lsta l
def Seq.lendOf (x : Seq) (l : Nat) : Word := SMap.get 0 x.lend l
def Seq.lcntOf (x : Seq) (l : Nat) : Word := SMap.get 0 x.lcnt l

/-- V of a level: pushed (R114). -/
def Seq.pushed (x : Seq) (l : Nat) : Bool := (x.lstaOf l).getLsbD 5
def Seq.loopPre (x : Seq) (l : Nat) : Bool := (x.lstaOf l).getLsbD 4
def Seq.loopKind (x : Seq) (l : Nat) : Nat := fieldOf (x.lstaOf l) 2 2
def Seq.loopRot (x : Seq) (l : Nat) : Bool := (x.lstaOf l).getLsbD 1
def Seq.loopStart (x : Seq) (l : Nat) : Word := lineAddr (x.lstaOf l)
def Seq.loopLen (x : Seq) (l : Nat) : Nat := fieldOf (x.lendOf l) 36 28
def Seq.loopDepth (x : Seq) (l : Nat) : Nat := fieldOf (x.lendOf l) 33 3
/-- The address of the body's last bundle (R114). -/
def Seq.loopEnd (x : Seq) (l : Nat) : Word := x.loopStart l + BitVec.ofNat 64 (64 * x.loopLen l) - 64
def Seq.loopTrip (x : Seq) (l : Nat) : Nat := fieldOf (x.lcntOf l) 32 32
def Seq.loopCount (x : Seq) (l : Nat) : Nat := fieldOf (x.lcntOf l) 0 32

/-- The levels pushed. -/
def Seq.levels (x : Seq) : List Nat := (List.range 6).filter x.pushed

/-- The innermost pushed level: the greatest DEPTH (R114). Of two levels with one DEPTH, which only software can make, it is the
lowest-numbered: DESIGN CHOICE (log entry 65). -/
def Seq.innermost (x : Seq) : Option Nat :=
  x.levels.foldl (fun b l =>
    match b with
    | none => some l
    | some k => if x.loopDepth k < x.loopDepth l then some l else b) none

/-- Trips of a level for a count (R116), over a gang of `g` cores and a group of `d` dies. -/
def tripsOf (kind n g d : Nat) : Nat :=
  match kind with
  | 1 => (n + g - 1) / g
  | 2 => (n + d - 1) / d
  | _ => n

/-- The dies of the group a sequencer works in (R340). -/
def State.ndie (s : State) (q : Nat) : Nat := max 1 ((s.ctxOf q).elim 1 Ctx.ndie)
/-- GANGSZ of a sequencer (R337). -/
def State.gangsz (s : State) (q : Nat) : Nat := max 1 (s.gang q).length

/-- The index of a level as a core sees it (R116); zero while it is not pushed (R114). -/
def State.loopIndex (s : State) (q c l : Nat) : Nat :=
  let x := s.seq q
  if !x.pushed l then 0
  else
    let t := x.loopTrip l
    match x.loopKind l with
    | 1 => t * s.gangsz q + (s.core c).sp.crank
    | 2 => t * s.ndie q + (s.core c).sp.drank
    | _ => t

/-- The bundle at PC is one of the body of a level: it lies from START to END (R114). -/
def Seq.inBody (x : Seq) (l : Nat) : Bool := decide (x.loopStart l ≤ x.pc) && decide (x.pc ≤ x.loopEnd l)

/-- A core idle in the current trip of a pushed level, in the body bundles of that level (R116; log entry 59). -/
def State.idle (s : State) (q c : Nat) : Bool :=
  (s.seq q).levels.any fun l => (s.seq q).inBody l && decide ((s.seq q).loopCount l ≤ s.loopIndex q c l)

/-- What R117 decides at an end bundle: the next PC, whether RRB rotates, the level whose START is next, the loop stack. -/
structure LoopStep where
  next : Word
  rotate : Bool
  boundary : Option Nat
  x : Seq

/-- The cascade of R117 over at most `fuel` levels. -/
def loopCascade (trips : Nat → Nat → Nat) (pc : Word) : (fuel : Nat) → Seq → LoopStep
  | 0, x => { next := pc + 64, rotate := false, boundary := none, x := x }
  | f + 1, x =>
    match x.innermost with
    | none => { next := pc + 64, rotate := false, boundary := none, x := x }
    | some k =>
      if x.loopEnd k ≠ pc then { next := pc + 64, rotate := false, boundary := none, x := x }
      else
        let trip := (x.loopTrip k + 1) % 2 ^ 32
        let x := { x with lcnt := SMap.set 0 x.lcnt k (setField (x.lcntOf k) 32 32 trip) }
        if trip < trips (x.loopKind k) (x.loopCount k) then
          { next := x.loopStart k, rotate := x.loopRot k, boundary := some k, x := x }
        else loopCascade trips pc f { x with lsta := SMap.set 0 x.lsta k (setField (x.lstaOf k) 5 1 0) }

/-- R117 at the PC of a sequencer. -/
def State.loopStep (s : State) (q : Nat) : LoopStep :=
  loopCascade (fun kind n => tripsOf kind n (s.gangsz q) (s.ndie q)) (s.seq q).pc 6 (s.seq q)

/-- Every register that is dead under RRB and LIVED has no value: one that rotates back into the live names, or that a greater LIVED
makes live, reads zero until it is written (R54, R121). -/
def Core.killDead (k : Core) (g : Gen) : Core :=
  { k with ve := { k.ve with v := SMap.keep (fun p => !k.dead g p) k.ve.v } }

/-- RRB.BASE advanced by 1 modulo 32 under a generation, with the registers that leave the live names dead (R52, R54, R117). -/
def Core.rotate (k : Core) (g : Gen) : Core :=
  ({ k with sp := { k.sp with rrb := Reg.of (BitVec.ofNat 64 ((k.base g + 1) % 32)) g } } : Core).killDead g

/-! ### Reading special registers (R119, R120) -/

/-- The time at which a core of SKEW `k` issues the bundle of its sequencer, in a die whose cycles grew shorter at `fast`: no earlier
than the bundle before it, whose skew was counted in the longer cycles (log entry 3). -/
def skewedTime (time k units : Nat) (fast : Option Nat) : Nat :=
  max (time + k * units) (fast.elim 0 fun x => if k = 0 then 0 else x + 40 * k)

/-- The time base in the cycle in which a core issues the bundle of its sequencer: SKEW cycles later (R120, R336). -/
def State.tbaseOf (s : State) (q c : Nat) : Nat :=
  let d := dieOfSeq q
  ({ s with time := skewedTime s.time (s.core c).sp.skew (s.cycleUnits d) (s.die d).fastSince } : State).tbase d

/-- The value of a special register as a core of a gang reads it; `sys` is the mode. -/
def State.readSr (s : State) (q c : Nat) (sr : Nat) : Word :=
  let x := s.seq q
  let k := s.core c
  let g := s.genOf q
  match sr with
  | 0x000 => x.pc
  | 0x001 => x.mpc.read g
  | 0x002 => k.sp.tpc
  | 0x003 => k.sp.tcause
  | 0x008 => k.sp.rrb.read g
  | 0x009 => k.sp.lived.read g
  | 0x010 => BitVec.ofNat 64 k.sp.crank
  | 0x011 => BitVec.ofNat 64 k.sp.grank
  | 0x012 => BitVec.ofNat 64 k.sp.drank
  | 0x013 => BitVec.ofNat 64 (s.gangsz q)
  | 0x014 => BitVec.ofNat 64 k.sp.skew
  | 0x018 => BitVec.ofNat 64 (s.ctxIdOf q)
  | 0x019 => BitVec.ofNat 64 x.asid
  | 0x01A => g.setWidth 64
  | 0x01B => (s.ctxOf q).elim 3 fun c => c.compat.setWidth 64
  | 0x01C => k.mx.accown
  | 0x020 => k.sp.waitlim
  | 0x021 => if x.sys then (s.ctxOf q).elim 0 Ctx.savectr else 0
  | 0x022 => k.sp.clipped.read g
  | 0x030 => BitVec.ofNat 64 (s.tbaseOf q c)
  | n =>
    if 0x40 ≤ n ∧ n ≤ 0x45 then x.lstaOf (n - 0x40)
    else if 0x48 ≤ n ∧ n ≤ 0x4D then x.lendOf (n - 0x48)
    else if 0x50 ≤ n ∧ n ≤ 0x55 then x.lcntOf (n - 0x50)
    else if 0x58 ≤ n ∧ n ≤ 0x5D then BitVec.ofNat 64 (s.loopIndex q c (n - 0x58) % 2 ^ 32)
    else 0

/-! ### Writing special registers (R119, R121) -/

/-- LSTA as a write stores it: bit 0 reserved, KIND 3 stores 0 (R114). -/
def lstaWrite (v : Word) : Word :=
  let v := setField v 0 1 0
  if fieldOf v 2 2 = 3 then setField v 2 2 0 else v
/-- LEND as a write stores it: LEN 0 stores 1 (R114). -/
def lendWrite (v : Word) : Word :=
  let v := setField v 0 33 0
  if fieldOf v 36 28 = 0 then setField v 36 28 1 else v
/-- TCAUSE as a write stores it: reserved bits zero; ACT, NEST and PMODE only in system mode (R241). -/
def tcauseWrite (sys : Bool) (old v : Word) : Word :=
  let v := setField (setField (setField v 40 8 0) 10 22 0) 6 1 0
  if sys then v else setField v 7 3 (fieldOf old 7 3)
/-- ACCOWN as a write stores it: reserved bits zero (R175). -/
def accownWrite (v : Word) : Word := setField (setField (setField v 48 16 0) 17 15 0) 2 6 0

/-- CLIPPED with its sticky bit set and a scope code recorded (R377, R378). -/
def Core.clip (k : Core) (g : Gen) (scope : Nat) : Core :=
  { k with sp := { k.sp with clipped := Reg.of (BitVec.ofNat 64 (scope * 16 + 1)) g } }

/-- A write of a special register that a core holds; it takes effect for the next bundle (R121). `sys` is the mode in
which the `s.wrsr` issued. A write to SKEW goes to CBIND, and one to ACCOWN waits for its move (R295, R337): both are
completed at the end of the bundle. -/
def Core.writeSr (sys : Bool) (g : Gen) (sr : Nat) (v : Word) (k : Core) : Core :=
  match sr with
  | 0x002 => { k with sp := { k.sp with tpc := lineAddr v } }
  | 0x003 => { k with sp := { k.sp with tcause := tcauseWrite sys k.sp.tcause v } }
  | 0x008 => ({ k with sp := { k.sp with rrb := Reg.of (v &&& 31#64) g } } : Core).killDead g
  | 0x009 => ({ k with sp := { k.sp with lived := Reg.of (v &&& 31#64) g } } : Core).killDead g
  | 0x01C => if sys then { k with pp := { k.pp with accw := some (accownWrite v) } } else k
  | 0x020 => { k with sp := { k.sp with waitlim := v &&& 0xFFFFFFFF#64 } }
  | 0x022 =>
    let old := k.sp.clipped.read g
    if v.getLsbD 0 then { k with sp := { k.sp with clipped := Reg.of (setField old 0 1 0) g } } else k
  | _ => k

/-- A write of a special register that the sequencer holds. -/
def Seq.writeSr (sys : Bool) (g : Gen) (sr : Nat) (v : Word) (x : Seq) : Seq :=
  if sr = 0x001 then { x with mpc := Reg.of (v &&& ~~~7#64) g }
  else if sr = 0x019 then (if sys then { x with asid := fieldOf v 0 9 } else x)
  else if 0x40 ≤ sr ∧ sr ≤ 0x45 then { x with lsta := SMap.set 0 x.lsta (sr - 0x40) (lstaWrite v) }
  else if 0x48 ≤ sr ∧ sr ≤ 0x4D then { x with lend := SMap.set 0 x.lend (sr - 0x48) (lendWrite v) }
  else if 0x50 ≤ sr ∧ sr ≤ 0x55 then { x with lcnt := SMap.set 0 x.lcnt (sr - 0x50) v }
  else x

/-- Whether a special register belongs to the sequencer, so that the lead core decides its write (R102). ASID belongs to
the sequencer's translations (R397). -/
def srOfSeq (sr : Nat) : Bool :=
  sr == 0 || sr == 1 || sr == 0x19 || decide (0x40 ≤ sr ∧ sr ≤ 0x5D)

/-- Whether a write of a special register in tenant mode is privileged (R76, R119). -/
def srWriteSys (sr : Nat) : Bool := sr == 0x21

end Sys2Proof.Machine
end

