-- ==== Sys2Proof/Machine/Translate.lean ====
section
/-! DEFINITION. From virtual addresses to places: the address map (R178, R179), remote windows (R200), the page walk
(R391 to R396), the frame map (R401), the TLB and the instruction cache (R398, R216), and the fetch (R113, R259). -/

namespace Sys2Proof.Machine

/-- Physical address of a die's control page in its DRAM map (log entry 7). DESIGN CHOICE: the spec gives none. -/
def dieCtlPA : Nat := 0x2FFFFC0000

/-- Where an address leads. -/
inductive Place where
  /-- The core's own scratchpad. -/
  | own (off : Nat)
  /-- The scratchpad of another core of the group on the die. -/
  | peer (core off : Nat)
  /-- A byte of memory, with tags checked and stamped or not. -/
  | mem (loc : Nat) (tagged : Bool)
  /-- A byte of a control page. -/
  | reg (page : RegPage) (off : Nat)
  /-- A remote window and the fabric address (R200). -/
  | window (w : Nat) (fab : Nat)
  /-- The block-transfer aperture: its channel, and the offset in the channel's 64 bytes (R213). -/
  | aperture (ch off : Nat)
  deriving DecidableEq, Repr

/-- The result of a translation. -/
inductive Tr where
  | ok (p : Place)
  | fault (cause : Nat)
  /-- Held on a leaf with MIG set (R395). -/
  | hold
  deriving DecidableEq, Repr

/-- What an access needs of its leaf (R395). -/
inductive Use where
  | read | write | both | fetch
  deriving DecidableEq, Repr

/-- A free choice among `n` outcomes (log entry 9). -/
def State.choose (s : State) (salt n : Nat) : Nat :=
  if n ≤ 1 then 0 else (Config.freeWord (s.free * 2 ^ 32 + salt)).toNat % n

/-! ### Walks -/

/-- Bit f of the frame map of a die (R401). -/
def State.frameBit (s : State) (d f : Nat) : Bool :=
  (s.rawByte (locDram d (fieldOf (s.dctl d 0x318) 16 36 * 2 ^ 16 + f / 8))).getLsbD (f % 8)

/-- Bytes a leaf at a level maps (R391). -/
def pageSize (lvl : Nat) : Nat := match lvl with | 1 => 2 ^ 30 | 2 => 2 ^ 21 | _ => 2 ^ 16
/-- The index of an address at a level (R391). -/
def walkIndex (va lvl : Nat) : Nat :=
  match lvl with
  | 0 => va / 2 ^ 39 % 512
  | 1 => va / 2 ^ 30 % 512
  | 2 => va / 2 ^ 21 % 512
  | _ => va / 2 ^ 16 % 32

/-- The address field of an entry, in bytes (R394). -/
def entryAddr (e : Word) : Nat := fieldOf e 12 40 * 4096
def entryTgt (e : Word) : Nat := fieldOf e 10 2
def entryUntag (e : Word) : Bool := e.getLsbD 8

/-- A leaf found by a walk, or why there is none. -/
inductive Walk where
  | leaf (e : Word) (lvl : Nat)
  | fault
  | hold
  deriving DecidableEq, Repr

/-- Every frame of a page agrees with UNTAG (R401). -/
def State.framesAgree (s : State) (d pa size : Nat) (untag : Bool) : Bool :=
  (List.range (size / 2 ^ 16)).all fun i => s.frameBit d (pa / 2 ^ 16 + i) == untag

/-- The levels of the walk of R395 from level `4 - fuel` on, at table t. -/
def State.walkFrom (s : State) (d va : Nat) : (fuel : Nat) → (t : Nat) → Walk
  | 0, _ => .fault
  | f + 1, t =>
    let lvl := 3 - f
    if !s.frameBit d (t / 2 ^ 16) then .fault
    else
      let e := s.rawWord (locDram d (t + 8 * walkIndex va lvl))
      if !e.getLsbD 0 || decide (fieldOf e 52 12 ≠ 0) then .fault
      else if !e.getLsbD 1 then
        if decide (fieldOf e 2 10 ≠ 0) || decide (lvl = 3) then .fault else State.walkFrom s d va f (entryAddr e)
      else if decide (fieldOf e 2 2 ≠ 0) || decide (lvl = 0) || decide (entryTgt e = 3) then .fault
      else if entryAddr e % pageSize lvl ≠ 0 then .fault
      else if entryTgt e = 0 ∧ dramBytes < entryAddr e + pageSize lvl then .fault
      else if entryTgt e = 0 && !s.framesAgree d (entryAddr e) (pageSize lvl) (entryUntag e) then .fault
      else if e.getLsbD 9 then .hold
      else .leaf e lvl

/-- The loaded context that holds an ASID (R397). -/
def State.ctxByAsid (s : State) (asid : Nat) : Option Nat :=
  (s.ctxs.find? fun e => (e.2.elim false fun c => c.asid == asid)).map Prod.fst

/-- The context whose registers give an ASID its roots: the loaded one that holds it, or one whose copies still drain (R397, R406). -/
def State.spaceOf (s : State) (asid : Nat) : Option Ctx :=
  ((s.ctxByAsid asid).bind s.ctx?).or (s.leaving.find? fun c => c.asid == asid)

/-- `walk` of R395 for an address space on a die. -/
def State.walk (s : State) (asid d va : Nat) : Walk :=
  match s.spaceOf asid with
  | none => .fault
  | some c =>
    let root := c.ctl (0x220 + 8 * d)
    if root.getLsbD 0 then s.walkFrom d va 4 (entryAddr root) else .fault

/-- TLB entries of a die that map an address of an address space (R398). -/
def State.tlbHits (s : State) (asid d va : Nat) : List TlbEntry :=
  (s.die d).tlb.filter fun e => e.asid == asid && decide (va / pageSize e.level * pageSize e.level = e.va.toNat)

/-- The root of an address space on a die is valid; without one every translated access traps (R393). -/
def State.rooted (s : State) (asid d : Nat) : Bool :=
  (s.spaceOf asid).elim false fun c => (c.ctl (0x220 + 8 * d)).getLsbD 0

/-- The leaf an access uses: that of the walk as the tables stand, or one the TLB still holds (R398, R404). -/
def State.lookup (s : State) (asid d va salt : Nat) : Walk :=
  let w := s.walk asid d va
  if !s.rooted asid d then w
  else
    let old := ((s.tlbHits asid d va).map fun e => Walk.leaf e.leaf e.level).filter (· ≠ w)
    ((w :: old)[s.choose salt (old.length + 1)]?).getD w

/-- Entries of a die's TLB (R27, R398). -/
def tlbSize : Nat := 4096

/-- A TLB with one more entry: past its size, a free choice of the old entries is replaced (R398, log entry 9). -/
def State.tlbPut (s : State) (tlb : List TlbEntry) (t : TlbEntry) : List TlbEntry :=
  if tlb.length < tlbSize then tlb ++ [t] else tlb.eraseIdx (s.choose 4096 tlb.length) ++ [t]

/-- The TLB of a die with the leaf of the walk of an address, when it has one (R398). -/
def State.tlbFill (s : State) (asid d va : Nat) : State :=
  match s.walk asid d va with
  | .leaf e lvl =>
    let t : TlbEntry := { asid := asid, va := BitVec.ofNat 64 (va / pageSize lvl * pageSize lvl), level := lvl, leaf := e }
    if (s.die d).tlb.contains t then s else s.modDie d fun x => { x with tlb := s.tlbPut x.tlb t }
  | _ => s

/-- The TLB of a die with the leaf of the page of a translated address (R398); other addresses have none (R178, R179). -/
def State.pageFill (s : State) (asid d va : Nat) : State := if va < 2 ^ 32 ∨ 2 ^ 48 ≤ va then s else s.tlbFill asid d va

/-- The TLB of a sequencer's die with the leaves that the accesses numbered from `n` on were translated through (R398, R400). -/
def State.dataFill (s : State) (n q : Nat) : State :=
  if s.nextId = n then s
  else (s.flights.filter fun f => decide (n ≤ f.id) && f.window.isNone).foldl (fun s f => f.pins.foldl (fun s p => s.pageFill p.1 (dieOfSeq q) (p.2 * 2 ^ 16)) s) s

/-! ### The address map -/

/-- The leaf permits the use in the mode (R395). -/
def leafPermits (e : Word) (u : Use) (sys : Bool) : Bool :=
  let r := e.getLsbD 4
  let w := e.getLsbD 5
  let x := e.getLsbD 6
  let rights := match u with | .read => r | .write => w | .both => r && w | .fetch => x
  rights && (sys || !(e.getLsbD 7 || entryUntag e))

/-- Bytes of the direct area of a partition on a die (R396). -/
def State.directBytes (s : State) (d part : Nat) : Nat :=
  160 * fieldOf (s.dctl d (0x4000 + 0x40 * part + 8)) 8 5 * 1024 * 64

/-- The context whose control page lies at a DRAM location (R255; log entry 7). -/
def State.ctxPageAt (s : State) (loc : Nat) : Option (Nat × Nat) :=
  (s.ctxs.find? fun e => e.2.elim false fun c => decide (c.pageLoc ≤ loc ∧ loc < c.pageLoc + 4096)).map fun e =>
    (e.1, loc - e.2.elim 0 Ctx.pageLoc)

/-- The place of a physical DRAM address of a die: memory, or a control page. -/
def State.dramPlace (s : State) (d pa : Nat) (tagged : Bool) : Place :=
  if dieCtlPA ≤ pa ∧ pa < dieCtlPA + 2 ^ 18 then .reg (.die d) (pa - dieCtlPA)
  else
    match s.ctxPageAt (locDram d pa) with
    | some (x, off) => .reg (.ctx x) off
    | none => .mem (locDram d pa) tagged

/-- The place a leaf gives an address (R394, R396, R401). -/
def State.leafPlace (s : State) (d part va : Nat) (e : Word) (lvl : Nat) : Tr :=
  let pa := entryAddr e + va % pageSize lvl
  match entryTgt e with
  | 0 => .ok (s.dramPlace d pa (!entryUntag e))
  | 1 => if pa < s.directBytes d part then .ok (.mem (locL2 d part pa) (!entryUntag e)) else .fault cXLATE
  | _ => .ok (.mem (locHost pa) false)

/-- The position of the n-th set bit of a mask, counted from 0. -/
def nthBit (m : Nat) : (fuel : Nat) → (n : Nat) → (at_ : Nat) → Option Nat
  | 0, _, _ => none
  | f + 1, n, i =>
    if m / 2 ^ i % 2 = 1 then (if n = 0 then some i else nthBit m f (n - 1) (i + 1)) else nthBit m f n (i + 1)

/-- The number of ones of a number of at most 64 bits. -/
def popcount : (fuel : Nat) → Nat → Nat
  | 0, _ => 0
  | f + 1, n => n % 2 + popcount f (n / 2)

/-- The core of a group with a GRANK on a die (R179, R340). -/
def Ctx.coreOfRank (c : Ctx) (d n : Nat) : Option Nat :=
  (c.gangs.find? fun p => dieOfSeq p.seq == d && decide (p.grank ≤ n ∧ n < p.grank + popcount 16 p.mask.toNat)).bind
    fun p => (nthBit p.mask.toNat 16 (n - p.grank) 0).map fun i => coreAt (creelOfSeq p.seq) i

/-- Word `i` (0 or 1) of window descriptor w of a context (R200). -/
def Ctx.win (c : Ctx) (w i : Nat) : Word := c.ctl (0x100 + 16 * w + 8 * i)

/-- The window that maps an address, and the fabric address (R200). -/
def Ctx.windowOf (c : Ctx) (va : Nat) : Option (Nat × Nat) :=
  ((List.range 16).find? fun w =>
    let lo := c.win w 0
    let base := fieldOf lo 16 48 * 2 ^ 16
    lo.getLsbD 9 && decide (base ≤ va ∧ va < base + 2 ^ fieldOf lo 10 6)).map fun w =>
      (w, fieldOf (c.win w 1) 16 48 * 2 ^ 16 + (va - fieldOf (c.win w 0) 16 48 * 2 ^ 16))

/-- The place of an address of a context for a core, in an address space and a mode (R178 to R180, R391). -/
def State.resolveIn (s : State) (id : Nat) (x : Ctx) (asid : Nat) (sys : Bool) (c : Nat) (u : Use) (salt : Nat) (addr : Word) :
    Tr :=
  let va := addr.toNat
  let d := dieOfCore c
  if va < 0x200000 then .ok (.own va)
  else if va < 0x800000 then .fault cXLATE
  else if va < 0x800200 then .ok (.aperture ((va - 0x800000) / 64) (va % 64))
  else if va < 0x1000000 then .fault cXLATE
  else if va < 0xA1000000 then
    match x.coreOfRank d ((va - 0x1000000) / 0x200000) with
    | none => .fault cXLATE
    | some p => .ok (if p = c then .own (va % 0x200000) else .peer p (va % 0x200000))
  else if va < 0x100000000 then .fault cXLATE
  else
    match x.windowOf va with
    | some (w, fab) => .ok (.window w fab)
    | none =>
      if 2 ^ 48 ≤ va then .fault cXLATE
      else
        match s.lookup asid d va salt with
        | .fault => .fault cXLATE
        | .hold => .hold
        | .leaf e lvl => if leafPermits e u sys then s.leafPlace d (partOf id) va e lvl else .fault cPERM

/-- The place of an address for a core of a sequencer. A shadow core's peer window of its own rank is its own scratchpad
(R350). -/
def State.resolve (s : State) (q c : Nat) (u : Use) (salt : Nat) (addr : Word) : Tr :=
  match s.ctxOf q with
  | none => .fault cXLATE
  | some x =>
    match s.resolveIn (s.ctxIdOf q) x (s.seq q).asid (s.seq q).sys c u salt addr with
    | .ok (.peer p off) => if p + 16 = c then .ok (.own off) else .ok (.peer p off)
    | r => r

/-! ### Fetching (R113, R216, R259) -/

/-- A fetched bundle, or the cause the fetch raises. -/
inductive Fetched where
  | ok (w : Nat)
  /-- The bytes of a control page from an offset on. -/
  | page (p : RegPage) (off : Nat)
  | fault (cause : Nat)
  | hold
  deriving DecidableEq, Repr

/-- The versions of a bundle that a fetch may return: the granule in memory, and lines the instruction cache still holds
(R216). -/
def State.fetchLines (s : State) (asid : Nat) (va : Word) (loc : Nat) (tagged : Bool) (d : Nat) : List ILine :=
  let now : ILine := { asid := asid, va := va, loc := loc, data := BitVec.ofNat 512 (wordOfBytes (s.raw loc 64)),
                       tag := (s.unit loc).tag, tagged := tagged }
  now :: (s.die d).icache.filter fun l => l.asid == asid && l.va == va && decide (l ≠ now)

/-- The bundle at the PC of a sequencer. -/
def State.fetchBundle (s : State) (q : Nat) : Fetched :=
  let x := s.seq q
  let d := dieOfSeq q
  let va := x.pc.toNat
  if va < 0x100000000 ∨ 2 ^ 48 ≤ va ∨ ((s.ctxOf q).bind fun c => c.windowOf va).isSome then .fault cXLATE
  else
    match s.lookup x.asid d va (q * 1024) with
    | .fault => .fault cXLATE
    | .hold => .hold
    | .leaf e lvl =>
      if !leafPermits e .fetch x.sys then .fault cPERM
      else
        match s.leafPlace d (partOf (s.ctxIdOf q)) va e lvl with
        | .fault c => .fault c
        | .hold => .hold
        | .ok (.mem loc tagged) =>
          if s.meetsPend loc 64 then .hold
          else
            let ls := s.fetchLines x.asid x.pc loc tagged d
            match ls[s.choose (q * 1024 + 1) ls.length]? with
            | none => .fault cXLATE
            | some l =>
              if l.tagged && !l.tag.is (s.genOf q) then .fault cPERM
              else if s.readsPoison { gen := s.genOf q, tagged := tagged, part := none } loc 64 then .fault cPOISON
              else .ok l.data.toNat
        | .ok (.reg p off) => .page p off
        | .ok _ => .fault cXLATE

/-- The instruction cache and the TLB after a fetch (R398). -/
def State.fetchFill (s : State) (q : Nat) : State :=
  let x := s.seq q
  let d := dieOfSeq q
  match s.walk x.asid d x.pc.toNat with
  | .leaf e lvl =>
    match s.leafPlace d (partOf (s.ctxIdOf q)) x.pc.toNat e lvl with
    | .ok (.mem loc tagged) =>
      let now := (s.fetchLines x.asid x.pc loc tagged d).headD
        { asid := 0, va := 0, loc := 0, data := 0, tag := Tag.wiped, tagged := false }
      let s := s.tlbFill x.asid d x.pc.toNat
      if (s.die d).icache.contains now then s else s.modDie d fun y => { y with icache := y.icache ++ [now] }
    | _ => s
  | _ => s

end Sys2Proof.Machine
end

