-- ==== Sys2Proof/Machine/Order.lean ====
section
/-! DEFINITION. Accesses in flight: pieces, when they have performed at a scope (R372, R373), the order the device keeps
(R374), fences (R228) and outstanding long results (R62). -/

namespace Sys2Proof.Machine

/-! ### Flights -/

/-- Every part of an access has performed at its unit. -/
def Flight.allDone (f : Flight) : Bool := f.pieces.all Piece.done

def State.flight? (s : State) (n : Nat) : Option Flight := s.flights.find? fun f => f.id == n
/-- A flight changed. -/
def State.modFlight (s : State) (n : Nat) (f : Flight → Flight) : State :=
  { s with flights := s.flights.map fun x => if x.id = n then f x else x }
/-- A flight that has written everything it will write leaves. -/
def State.dropFlight (s : State) (n : Nat) : State := { s with flights := s.flights.filter fun x => x.id ≠ n }

/-- The tier of a window seen from a die: package 4, pod 5, spine 6 (R200); SELFID at 0xB300 (R409). -/
def State.windowTier (s : State) (d : Nat) (fab : Nat) : Nat :=
  let self := fieldOf (s.dctl d 0xB300) 46 18
  let dst := fab / 2 ^ 46 % 2 ^ 18
  if dst / 8 = self / 8 then 4 else if dst / 1024 = self / 1024 then 5 else 6

/-- A scope covers the windows of a tier (R200, R372). -/
def scopeCovers (scope tier : Nat) : Bool :=
  scope == 8 || scope == 11 || (decide (4 ≤ scope ∧ scope ≤ 6) && decide (tier ≤ scope))

/-- A scope that holds guest agents (R372). -/
def scopeGuest (scope : Nat) : Bool := scope == 8 || scope == 10 || scope == 11

/-- The fabric address of a remote access: the location its first piece names. -/
def Flight.fabTier (s : State) (f : Flight) : Nat :=
  match f.window with
  | none => 0
  | some w =>
    match s.ctx? f.ctx with
    | none => 4
    | some c => s.windowTier (dieOfCore f.core) (fieldOf (c.win w 1) 16 48 * 2 ^ 16)

/-- An access still to perform at a scope (R373). -/
def State.unperformed (s : State) (scope : Nat) (f : Flight) : Bool :=
  match f.window with
  | none => !f.allDone
  | some _ =>
    (f.pieces.any fun p => !p.done && !isFabric p.loc) || (scopeCovers scope (f.fabTier s) && !(f.allDone && f.acked))

/-- An access that its core's own banks perform in its cycle c + 3, whatever else happens (R183). -/
def Flight.onTime (f : Flight) : Bool :=
  f.due.isSome && f.window.isNone && f.pieces.all fun p => isSpad p.loc && spadCore p.loc == f.core

/-- Every access of a core numbered below `upto` has performed at a scope: loads, stores, atomics, posted writes, tile-store
operations, and at a guest scope the snoops too (R228, R373). With `soon`, what an own-scratchpad access issued now cannot overtake
counts as performed: own accesses, and a tile-store operation with at most three cycles left (R183). -/
def State.performsBy (s : State) (soon : Bool) (c scope upto : Nat) : Bool :=
  (s.flights.all fun f => !(f.core == c && decide (f.id < upto) && s.unperformed scope f) || (soon && f.onTime)) &&
  ((s.core c).mx.tst.all fun b => decide (upto ≤ b.bnd) || (soon && decide (b.left ≤ 3))) &&
  (!scopeGuest scope || (s.die (dieOfCore c)).sock.snoops.isEmpty)
def State.performed (s : State) (c scope upto : Nat) : Bool := s.performsBy false c scope upto

/-- The same for the host: a remote-window write has performed once it is acknowledged (R373). -/
def State.performedHost (s : State) (c upto : Nat) : Bool :=
  s.performed c 9 upto &&
  s.flights.all fun f => !(f.core == c && decide (f.id < upto) && f.window.isSome && !(f.allDone && f.acked))

/-- A fence of the core still holds back an access issued now, which is of class own or not (R228). -/
def State.fenced (s : State) (own : Bool) (c : Nat) : Bool :=
  (s.core c).pp.fences.any fun m => !s.performsBy own c m.scope m.upto

/-- The fences of a core that still hold. -/
def State.pruneFences (s : State) (c : Nat) : State :=
  s.modCore c fun k => { k with pp := { k.pp with fences := k.pp.fences.filter fun m => !s.performed c m.scope m.upto } }

/-- The scope an operation performs at: system scope is clipped where SCOPEMAX is not 0xB (R377). -/
def State.clippedScope (s : State) (part scope : Nat) : Nat :=
  if scope = 11 ∧ fieldOf (SMap.get pcfgReset s.parts part) 12 4 ≠ 11 then 8 else scope

/-! ### The order the device keeps (R374) -/

/-- Two pieces touch one 16-byte granule. -/
def Piece.meets (a b : Piece) : Bool :=
  decide (a.loc / 16 * 16 < b.loc + b.len ∧ b.loc / 16 * 16 < a.loc + a.len)

/-- An access that only reads. -/
def FlightOp.reads : FlightOp → Bool
  | .load _ _ | .fe _ _ | .scl | .rcv => true
  | _ => false

/-- An operation that reads and writes its location at its unit in one go (R196). -/
def FlightOp.atomic : FlightOp → Bool
  | .atom .. | .cas .. | .redv .. => true
  | _ => false

/-- An access that writes memory (R225). -/
def FlightOp.writes : FlightOp → Bool
  | .store | .atom .. | .cas .. | .redv .. | .wfe => true
  | _ => false

/-- Two accesses of which the device keeps the order on one granule: of one core or of one bundle (R374), or atomics that one sequencer
issued (R196). -/
def State.ordered (s : State) (e f : Flight) : Bool :=
  e.core == f.core || e.bnd == f.bnd ||
    (e.op.atomic && f.op.atomic && (s.seqOfCore e.core).isSome && s.seqOfCore e.core == s.seqOfCore f.core)

/-- A part of the same access comes first: a lower element that writes the same granule (R193), or any lower element of a vector
reduction (R199). -/
def Flight.behind (f : Flight) (p : Piece) : Bool :=
  !f.op.reads && (f.pieces.takeWhile (· != p)).any fun r => !r.done && (f.op.atomic || r.meets p)

/-- An earlier write of the die to host memory is still to be accepted: the root port takes them in order (R373). -/
def State.hostBehind (s : State) (f : Flight) (p : Piece) : Bool :=
  isHost p.loc && f.op.writes &&
  ((s.flights.any fun e => decide (e.id < f.id) && dieOfCore e.core == dieOfCore f.core && e.op.writes &&
      e.pieces.any fun r => !r.done && isHost r.loc) ||
   (f.pieces.takeWhile (· != p)).any fun r => !r.done)

/-- A piece comes to its turn: nothing ordered before it on its granule is left, the loads of its bundle have read before a store of
the bundle performs, and no host window comes first (R374, R382). -/
def State.inTurn (s : State) (f : Flight) (p : Piece) : Bool :=
  (s.flights.all fun e => !(decide (e.id < f.id) && s.ordered e f && (e.pieces.any fun r => !r.done && r.meets p))) &&
  !f.behind p && !s.hostBehind f p &&
  (f.op.reads || s.flights.all fun e => !(e.bnd == f.bnd && e.core == f.core && e.op.reads && !e.allDone)) &&
  ((s.die (dieOfCore f.core)).hwn.all fun m => !(m.ctx == f.ctx && decide (m.upto ≤ f.id)))
/-- A piece may perform now: it has come to its turn, and its granule is not pending (R402). -/
def State.mayPerform (s : State) (f : Flight) (p : Piece) : Bool := s.inTurn f p && !s.meetsPend p.loc p.len

/-! ### Long results (R62) -/

/-- A long result outstanding to a register: its access. -/
def State.longTo (s : State) (c : Nat) (d : Dest) : Option Flight :=
  s.flights.find? fun f => f.core == c && decide (f.dest = some d)

/-! ### Host windows (R260, R382) -/

/-- A store has performed on lines that the guest may hold: the port snoops them (R373, R439). -/
def State.snoopLines (s : State) (loc n : Nat) : State :=
  if !isDram loc then s
  else
    let d := dramDie loc
    let hit := ((s.die d).sock.held.map Prod.fst).filter fun h => decide (h < loc + n ∧ loc < h + 64)
    if hit.isEmpty then s
    else
      let s := hit.foldl (fun s h => s.out (.snoop d h)) s
      s.modDie d fun y => { y with sock := { y.sock with snoops := y.sock.snoops ++ hit.filter fun h => !y.sock.snoops.contains h } }

/-- Ingress entries of a context applied to memory, each in one event (log entry 83), or discarded where the stamp is not the context's
generation. -/
def State.applyHost (s : State) (x : Nat) (g : Gen) : List HostPart → State
  | [] => s
  | h :: r =>
    let s := if h.gen = g then
        ((s.meetErrors g h.loc h.bytes.length).writeBytes { gen := h.gen, tagged := h.tagged, part := none } h.loc h.bytes).snoopLines h.loc
          h.bytes.length
      else
        let v := s.vf h.part
        (s.setVf h.part { v with hwdisc := v.hwdisc + 1 }).postVf h.part h.addr 0xF002 x
    State.applyHost s x g r

/-- The ingress buffer of a die applied for a context. -/
def State.applyIngress (s : State) (d x : Nat) : State :=
  let mine := (s.die d).ingress.filter fun h => h.ctx == x
  let s := s.modDie d fun y => { y with ingress := y.ingress.filter fun h => h.ctx != x }
  s.applyHost x ((s.ctx? x).elim 0 Ctx.gen) mine

/-- The cores of a die that a context's gangs hold. -/
def State.coresOn (s : State) (d x : Nat) : List Nat :=
  (upFrom (d * 40) 40).flatMap fun q => if (s.seq q).ctx = some x then s.gang q else []

/-- A gang of a context on a die has still to issue the bundle that its line released (R363). -/
def State.releasing (s : State) (d x : Nat) : Bool :=
  (upFrom (d * 40) 40).any fun q => (s.seq q).released && (s.seq q).ctx == some x

/-- Host windows of a die whose earlier accesses have all performed at die scope apply, in order (R382). One of several gangs waits for
the bundles of the others that the line released with it. -/
def State.hwnAdvance (s : State) (d : Nat) : State :=
  match (s.die d).hwn with
  | [] => s
  | m :: r =>
    if !s.releasing d m.ctx && (s.coresOn d m.ctx).all fun c => s.performed c 3 m.upto then
      (s.modDie d fun y => { y with hwn := r }).applyIngress d m.ctx
    else s

/-- A host window of the context stands on its die: an access of a later bundle that would perform by itself waits for it (R382). -/
def State.windowAhead (s : State) (q : Nat) : Bool := (s.die (dieOfSeq q)).hwn.any fun m => m.ctx == s.ctxIdOf q

end Sys2Proof.Machine
end

