-- ==== Sys2Proof/Machine/Bundle.lean ====
section
/-! DEFINITION. How a bundle issues: the meaning of one slot operation as a `Sem`, the checks of R64 items 8 to 10 and R66,
the waits, and what happens at the end of the issue cycle (R57 to R66, R116, R117, R219, R220, R276, R280, R285, R382). -/

namespace Sys2Proof.Machine

/-- What holds a bundle in a cycle (R360). -/
inductive Wait where
  | none | counted | uncounted
  deriving DecidableEq, Repr

/-- Whose guard decides an operation (R40, R102, R219). -/
inductive Cls where
  /-- Each core's own guard; off on an idle core. -/
  | core
  /-- A vector operation: it lands whatever its predicate (R129). -/
  | vector
  /-- The lead core's guard, for the whole gang. -/
  | lead
  deriving DecidableEq, Repr

/-- A cause that an operation raises at issue; `late` where an ILLOP is the failure of a number and not a decode check
(R224, R66). -/
structure Bad where
  cause : Nat
  info : Nat
  late : Bool
  deriving DecidableEq, Repr

def Bad.of (cause : Nat) : Bad := { cause := cause, info := 0, late := false }

/-- The meaning of a slot operation on a gang: every function is given the state before the bundle, the sequencer and a core.
`act` is what a core does to itself, `shared` what it does to the rest, core by core; `once` is done once. -/
structure Sem where
  slot : Nat
  grd : BitVec 3
  cls : Cls := .core
  priv : Bool := false
  /-- On a wheel bundle: 0 ordinary, 1 may be an SC operation, 2 illegal (R380). -/
  wheel : Nat := 0
  /-- Its accesses are ordered by fences (R228). -/
  mem : Bool := false
  /-- It waits for a send credit or a receive-queue entry, before which a landing may come (R345). -/
  chan : Bool := false
  names : State → Nat → Nat → List Dest := fun _ _ _ => []
  /-- What an operation of class `lead` reads or writes on every core, the lead among them (R62, R102, R219). -/
  lands : State → Nat → Nat → List Dest := fun _ _ _ => []
  /-- Its accesses are all of class own, and perform by themselves in cycle c + 3 (R183). -/
  own : State → Nat → Nat → Bool := fun _ _ _ => false
  /-- The physical counter on which a core takes numbers, and how many (R223). -/
  takes : State → Nat → Nat → Option (Nat × Nat) := fun _ _ _ => none
  /-- Sync tokens that it takes, and own full/empty granules whose state it needs: what a release reserves (R358, R364). -/
  tokens : State → Nat → Nat := fun _ _ => 0
  grains : State → Nat → List Nat := fun _ _ => []
  /-- What happens when its bundle first stands at issue (R165). -/
  stand : Nat → State → State := fun _ s => s
  check : State → Nat → Nat → Option Bad := fun _ _ _ => none
  /-- Checked whatever the guards, before `check` (R162, R165, R477). -/
  always : State → Nat → Nat → Option Bad := fun _ _ _ => none
  wait : State → Nat → Nat → Wait := fun _ _ _ => .none
  act : State → Nat → Nat → Core → Core := fun _ _ _ k => k
  shared : State → Nat → Nat → State → State := fun _ _ _ t => t
  once : State → Nat → State → State := fun _ _ t => t
  /-- What is done once when the bundle issues, whatever the guards (R165). -/
  issued : State → Nat → State → State := fun _ _ t => t
  /-- What is done once when a cause of the operation is taken (R224). -/
  trapped : State → Nat → State → State := fun _ _ t => t
  /-- The outgoing command that a redundant pair compares (R351). -/
  cmd : State → Nat → Nat → List Word := fun _ _ _ => []

/-! ### Guards -/

/-- Whether an operation acts on a core (R40, R102, R116, R219). -/
def Sem.on (m : Sem) (s : State) (q c : Nat) : Bool :=
  match m.cls with
  | .core => !s.idle q c && (s.core c).readQ (s.genOf q) m.grd.toNat
  | .vector => true
  | .lead => (s.core (s.lead q)).readQ (s.genOf q) m.grd.toNat

/-- The predicate of a vector operation: all zeros on an idle core (R116, R128). -/
def State.vmask (s : State) (q c : Nat) (grd : BitVec 3) : Pred :=
  if s.idle q c then 0 else (s.core c).readP (s.genOf q) grd.toNat

/-- Whether an operation is evaluated on a core: a per-sequencer operation on the lead core alone (R219). -/
def Sem.hereOn (m : Sem) (s : State) (q c : Nat) : Bool :=
  m.on s q c && (m.cls != .lead || c == s.lead q)

/-! ### Checks at issue (R64, R66) -/

/-- Two results of one cycle that may not commit together (R64 items 8 and 9). -/
def LqEntry.clash (a b : LqEntry) : Bool := a.path == b.path || (a.file == b.file && a.index == b.index)

/-- The results of a bundle collide with the queue, with each other, or need more room than is free (R64 items 8 to 10). -/
def Core.collides (k : Core) (new : List LqEntry) : Bool :=
  let rec go : List LqEntry → Bool
    | [] => false
    | e :: r =>
      (k.pp.lq.any fun o => !o.held && o.rem == e.rem + 1 && o.clash e) || (r.any fun o => o.rem == e.rem && o.clash e) || go r
  let free := 32 - (k.pp.lq.filter fun e => e.held || decide (1 < e.rem)).length
  go new || decide (free < (new.filter fun e => decide (0 < e.rem)).length)

/-- The registers an operation uses have no long result outstanding; a failed one gives its cause (R62, R402, R413). -/
def Sem.uses (m : Sem) (s : State) (q c : Nat) : List Dest :=
  if m.cls == .lead then (if c == s.lead q then m.names s q c else []) ++ m.lands s q c else m.names s q c
def Sem.blocked (m : Sem) (s : State) (q c : Nat) : Bool :=
  (m.uses s q c).any fun d => (s.longTo c d).elim false fun f => f.failed.isNone
def Sem.failedUse (m : Sem) (s : State) (q c : Nat) : Option Nat :=
  (m.uses s q c).findSome? fun d => (s.longTo c d).bind Flight.failed

/-- The core after the register effects of operations that act on it: what collides does so whether or not a long result is awaited
(R64, R66). -/
def State.acted (s : State) (q c : Nat) (ms : List Sem) : Core :=
  ms.foldl (fun k m => if m.on s q c then m.act s q c k else k) (s.core c)

/-- The slot of the first operation whose results collide on a core. -/
def State.collideSlot (s : State) (q c : Nat) (ms : List Sem) : Option Nat :=
  ((List.range ms.length).find? fun i => (s.core c).collides (s.acted q c (ms.take (i + 1))).pp.fresh).bind fun i =>
    (ms[i]?).map Sem.slot

/-- What an operation raises on a core (R66, R402). An operation that the mode forbids raises nothing else. -/
def Sem.badOn (m : Sem) (s : State) (q c : Nat) : Option Bad :=
  (m.always s q c).or <|
  if m.on s q c && !m.blocked s q c && !(m.priv && !(s.seq q).sys) then
    match m.failedUse s q c with
    | some cause => some { cause := cause, info := 0, late := true }
    | none => if m.hereOn s q c then m.check s q c else none
  else none

/-- An SC operation class on a wheel bundle that is illegal there (R380). -/
def wheelBad (whl : Bool) (s : State) (q c : Nat) (m : Sem) : Bool := whl && m.wheel == 2 && m.hereOn s q c

/-- Numbers that an operation of a core takes on a counter. -/
def Sem.taken (s : State) (q c i : Nat) (m : Sem) : Nat :=
  if m.on s q c then (m.takes s q c).elim 0 fun t => if t.1 = i then t.2 else 0 else 0
/-- QUOTA of an operation whose numbers, after those of lower cores and lower slots of the bundle, would pass 2^64 − 1 (R223). -/
def State.tooMany (s : State) (q c : Nat) (ms : List Sem) (m : Sem) : Bool :=
  (m.takes s q c).elim false fun t =>
    let lower := (s.gang q).take ((s.gang q).findIdx (· == c))
    let n := (lower.map fun d => (ms.map (Sem.taken s q d t.1)).sum).sum +
      ((ms.filter fun o => decide (o.slot ≤ m.slot)).map (Sem.taken s q c t.1)).sum
    m.on s q c && !m.blocked s q c && t.2 != 0 &&
      decide (2 ^ 64 ≤ (SMap.get Timeline.reset (s.die (dieOfSeq q)).tls t.1).next + n)

/-- Everything that the operations of a bundle raise on a core, by slot. -/
def State.badsOn (s : State) (q c : Nat) (ms : List Sem) : List (Nat × Bad) :=
  ms.filterMap fun m => ((m.badOn s q c).or (if s.tooMany q c ms m then some (Bad.of cQUOTA) else none)).map fun b => (m.slot, b)

/-- ILLOP of a core: results that collide, an operation that a wheel bundle may not hold, a value that no entry assigns (R64, R66). -/
def State.illopOn (s : State) (q c : Nat) (whl : Bool) (ms : List Sem) : Option Raise :=
  match s.collideSlot q c ms, ms.find? (wheelBad whl s q c) with
  | some sl, _ => some { core := c, slot := sl, cause := cILLOP, info := 0 }
  | none, some m => some { core := c, slot := m.slot, cause := cILLOP, info := 0 }
  | none, none =>
    ((s.badsOn q c ms).find? fun b => b.2.cause == cILLOP && !b.2.late).map fun b =>
      { core := c, slot := b.1, cause := cILLOP, info := b.2.info }

/-- PRIV of a core: a privileged operation in tenant mode. -/
def State.privOn (s : State) (q c : Nat) (ms : List Sem) : Option Raise :=
  (ms.find? fun m => m.priv && !(s.seq q).sys).map fun m => { core := c, slot := m.slot, cause := cPRIV, info := 0 }

/-- The execution fault of a core: the first slot's. -/
def State.faultOn (s : State) (q c : Nat) (ms : List Sem) : Option Raise :=
  (s.badsOn q c ms).head?.map fun b => { core := c, slot := b.1, cause := b.2.cause, info := b.2.info }

/-- The causes a bundle raises, by CRANK: those of the first check of R66 that any core fails. -/
def State.raises (s : State) (q : Nat) (whl : Bool) (ms : List Sem) : List Raise :=
  let ill := (s.gang q).filterMap fun c => s.illopOn q c whl ms
  if !ill.isEmpty then ill
  else
    let priv := (s.gang q).filterMap fun c => s.privOn q c ms
    if !priv.isEmpty then priv else (s.gang q).filterMap fun c => s.faultOn q c ms

/-! ### Waits (R62, R220, R228, R360) -/

/-- What an operation waits for on a core in this cycle: a long result (R62), a fence (R228), a host window that an access performing by
itself would overtake (R382; log entry 67), and, once its operands are there, what it names itself. -/
def Sem.waitsOn (m : Sem) (s : State) (q c : Nat) : List Wait :=
  if !m.on s q c then []
  else
    let here := m.hereOn s q c
    let long := m.blocked s q c
    (if long then [Wait.uncounted] else []) ++
    (if here && m.mem && s.fenced (m.own s q c) c then [Wait.counted] else []) ++
    (if here && m.mem && (m.own s q c || (s.seq q).whl.isSome) && s.windowAhead q then [Wait.uncounted] else []) ++
    (if here && !long then [m.wait s q c] else [])

/-- What holds the bundle on a core in this cycle, with the slot that waits. -/
def State.waitsOn (s : State) (q c : Nat) (ms : List Sem) : List (Nat × Wait) :=
  (ms.flatMap fun m => ((m.waitsOn s q c).filter (· != Wait.none)).map fun w => (m.slot, w)) ++
  (if (s.core c).pp.accw.isSome || (s.core c).pp.accLeft != 0 then [(8, Wait.uncounted)] else [])

def State.waits (s : State) (q : Nat) (ms : List Sem) : List (Nat × Wait) := (s.gang q).flatMap fun c => s.waitsOn q c ms

/-- A counted wait holds the bundle. -/
def anyCounted (ws : List (Nat × Wait)) : Bool := ws.any fun w => w.2 == .counted
/-- The slot of the lowest-numbered counted wait (R360). -/
def countedSlot (ws : List (Nat × Wait)) : Nat :=
  ((ws.filter fun w => w.2 == .counted).map Prod.fst).foldl min 8

/-! ### Performing the slots -/

/-- Every core's register effects, all on the state before the bundle. -/
def State.actAll (s0 : State) (q : Nat) (ms : List Sem) : List Nat → State → State
  | [], s => s
  | c :: r, s =>
    let k := ms.foldl (fun k m => if m.on s0 q c then m.act s0 q c k else k) (s.core c)
    State.actAll s0 q ms r (s.setCore c k)

/-- The effects of a core's operations outside it, by slot. -/
def State.shareCore (s0 : State) (q c : Nat) : List Sem → State → State
  | [], s => s
  | m :: r, s => State.shareCore s0 q c r (if m.on s0 q c then m.shared s0 q c s else s)

/-- The effects outside the cores, by CRANK (R209, R374). -/
def State.shareSlots (s0 : State) (q : Nat) (ms : List Sem) : List Nat → State → State
  | [], s => s
  | c :: r, s => State.shareSlots s0 q ms r (s0.shareCore q c ms s)

/-- What is done once for the gang, on the lead core's guard, or whatever the guards (R102, R165, R219). -/
def State.onceSlots (s0 : State) (q : Nat) : List Sem → State → State
  | [], s => s
  | m :: r, s =>
    let s := m.issued s0 q s
    State.onceSlots s0 q r (if m.on s0 q (s0.lead q) then m.once s0 q s else s)

/-- Numbers that a bundle keeps for its accesses: 64 for each slot of each core. -/
def bundleIds : Nat := 2 ^ 16

/-- All slots of a bundle take effect. -/
def State.performSlots (s : State) (q : Nat) (ms : List Sem) : State :=
  let cores := s.allCores q
  let s1 := s.onceSlots q ms (s.shareSlots q ms cores (s.actAll q ms cores s))
  { s1 with nextId := s1.nextId + bundleIds }

/-- Where a core stands among the cores that run a gang's bundles. -/
def State.rankIx (s : State) (q c : Nat) : Nat := (s.allCores q).findIdx (· == c)
/-- The number of access j of a slot of the bundle at issue: lower for a lower CRANK, then for a lower slot (R374). -/
def State.accessId (s : State) (q c slot j : Nat) : Nat := s.nextId + s.rankIx q c * 1024 + slot * 64 + j

/-! ### The end of the issue cycle -/

/-- The pending `c.shp` writes of a core count one issued bundle (R206). -/
def MemoryRegs.tickShapes (m : MemoryRegs) : MemoryRegs :=
  let due := m.shp.filter fun e => e.2.1 ≤ 1
  { m with shp := (m.shp.filter fun e => 1 < e.2.1).map fun e => (e.1, e.2.1 - 1, e.2.2.1, e.2.2.2),
           h := due.foldl (fun h e => SMap.set (Reg.wiped 64) h e.1 (Reg.of e.2.2.1 e.2.2.2)) m.h }

/-- A core at the end of a bundle: results land, shape writes count, special registers take their written values (R59,
R121, R206). Where the bundle both returns to a START that rotates and writes RRB, the rotation comes first and the written value
replaces it: DESIGN CHOICE (log entry 80). -/
def Core.endBundle (sys rot : Bool) (g : Gen) (k : Core) : Core :=
  let post := k.pp.post
  let k := k.landCycle g
  let k := { k with me := k.me.tickShapes }
  let k := if rot then k.rotate g else k
  let k := post.foldl (fun k p => k.writeSr sys g p.1 p.2) k
  { k with pp := { k.pp with post := [], waitCnt := 0, fed := [] } }

/-- SKEW written by `s.wrsr` goes to CBIND of the core's position, unless the sequencer is paired (R337). -/
def State.postSkew (s0 : State) (q : Nat) : List Nat → State → State
  | [], s => s
  | c :: r, s =>
    let s := match (s0.core c).pp.post.find? fun p => p.1 == 0x14 with
      | some p =>
        let off := 0x5000 + 0x100 * (creelOfCore c % 10) + 8 * (c % 16)
        if (s0.seq q).sys && !s.paired q then
          s.setDctl (dieOfCore c) off (setField (s.dctl (dieOfCore c) off) 4 3 (fieldOf p.2 0 3))
        else s
      | none => s
    State.postSkew s0 q r s

/-- The sequencer that counts RUNLEFT: a sibling's bundles count in its parent's run (R346). -/
def State.runSeq (s : State) (q : Nat) : Nat := (s.seq q).parent.getD q

/-- A request for a forced pre-emption stands (R284). -/
def State.preq (s : State) (q : Nat) : Bool := (s.ctxOf q).elim false fun c => (c.ctl 0x310).getLsbD 0

/-- A sibling of the group is unjoined (R346). -/
def State.anySibling (s : State) (q : Nat) : Bool :=
  (s.seq q).parent.isSome || allSeqs.any fun r => (s.seq r).ctx == (s.seq q).ctx && !(s.seq r).sibs.isEmpty

/-- The group of a sequencer lands, and no handler or pending cause holds the request back (R285, R343). -/
def State.landable (s : State) (q : Nat) : Bool :=
  (s.ctxOf q).elim false (fun c => c.group == .landing) && s.preq q && !s.acting q && (s.seq q).async.isEmpty

/-- A forced pre-emption lands after a bundle that returned to START of level k (R285, R346). -/
def State.lands (s0 s : State) (q : Nat) (b : Option Nat) : Bool :=
  match b with
  | none => false
  | some k =>
    (s0.seq q).loopPre k && s0.landable q && !s.anySibling q

/-- The gangs that the context runs on the sequencer's die (R382). -/
def State.gangsOn (s : State) (q : Nat) : Nat :=
  ((upFrom (dieOfSeq q * 40) 40).filter fun r => (s.seq r).ctx == (s.seq q).ctx && (s.seq r).parent.isNone && (s.seq r).phase != .retired).length

/-- The bundle is a host-window bundle (R382). -/
def State.hostWindow (s : State) (q : Nat) (h : Header) : Bool :=
  h.hwn == 1 && (decide (s.gangsOn q ≤ 1) || (h.syn == 1 && (s.seq q).released))

/-- A gang of a running group issues a bundle with YLD: the group is Yielding (R343). -/
def Ctx.toYield (c : Ctx) : Ctx := { c with group := if c.group = .running then .yielding else c.group }

/-- Where the sequencer goes after its bundle, once no transfer, trap return or stop decides (R280, R285, R344, R345). -/
def State.afterBundle (s0 s : State) (q : Nat) (h : Header) (b : Option Nat) : State :=
  if h.yld == 1 then
    -- Once another gang has landed, the gang does not yield: it lands (R345).
    if (s0.ctxOf q).elim false fun c => c.group == .landing && !c.landed.isEmpty then s.modSeq q fun x => { x with phase := .landWait }
    else
      (s.modSeq q fun x => { x with phase := .yieldWait false, runleft := 256 * h.runpos.toNat }).modCtx (s0.ctxIdOf q) Ctx.toYield
  else if s0.lands s q b then s.modSeq q fun x => { x with phase := .landWait }
  else s

/-- A sequencer at the end of its bundle: the next PC, the loop stack, and the special registers it wrote. `x0` and `step` are from
the state before the bundle (R112, R117, R121). -/
def Seq.endBundle (x0 : Seq) (step : LoopStep) (g : Gen) (x : Seq) : Seq :=
  let y := match x.xfer with
    | some t => { x with pc := lineAddr t, phase := .bubble 2 }
    | none => { x with pc := step.next, lsta := step.x.lsta, lend := step.x.lend, lcnt := step.x.lcnt }
  let y := x.post.foldl (fun z p => z.writeSr x0.sys g p.1 p.2) y
  { y with xfer := none, post := [], brkSkip := none, lineUp := false, whl := none, released := false, reserved := [], mword := none,
           issued := y.issued + 1 }

/-- One bundle of the run is used (R276). -/
def Seq.useRun (x : Seq) : Seq := { x with runleft := x.runleft - 1 }

/-- A host window stands after the bundles of its context that came before, and after those that the same release lets issue (R382). -/
def State.markWindow (s : State) (q : Nat) (m : HwnMark) : State :=
  let same (o : HwnMark) : Bool := m.cyc.isSome && o.ctx == m.ctx && o.cyc == m.cyc
  (s.modDie (dieOfSeq q) fun d =>
    { d with hwn := if d.hwn.any same then d.hwn.map fun o => if same o then m else o else d.hwn ++ [m] }).hwnAdvance (dieOfSeq q)

/-- The bundle of another gang that a line released with a host window comes before the window too (R382). -/
def State.stretchWindow (s : State) (q : Nat) (m : HwnMark) : State :=
  if (s.die (dieOfSeq q)).hwn.any fun o => o.ctx == m.ctx && o.cyc == m.cyc then s.markWindow q m else s

/-- The end of an issue cycle: landing, the next PC, special registers, counts, and what the header asks (R117, R121, R276). -/
def State.endBundle (s0 s : State) (q : Nat) (h : Header) : State :=
  let x0 := s0.seq q
  let g := s0.genOf q
  let step := s0.loopStep q
  let taken := (s.seq q).xfer
  let rot := taken.isNone && step.rotate
  let s := State.postSkew s q (s.allCores q) s
  let s := s.modCores (fun _ k => k.endBundle x0.sys rot g) (s.allCores q)
  let s := s.modSeq q (Seq.endBundle x0 step g)
  let s := if x0.sys then s else s.modSeq (s0.runSeq q) Seq.useRun
  let m : HwnMark :=
    { ctx := s0.ctxIdOf q, upto := s.nextId, cyc := if x0.released then some (s0.cycleNo (dieOfSeq q)) else none }
  let s := if s0.hostWindow q h then s.markWindow q m else if x0.released then s.stretchWindow q m else s
  s0.afterBundle s q h (if taken.isNone then step.boundary else none)

end Sys2Proof.Machine
end

