-- ==== Sys2Proof/Machine/Finish.lean ====
section
/-! DEFINITION. What a bundle leaves for the end of its cycle: the generation step (R244, R263), spawn and join (R233, R234),
retirement (R235), the trap return (R243), the debug halt (R246), the outcome of a redundant pair (R351), and issuing a
bundle as a whole. -/

namespace Sys2Proof.Machine

/-! ### The generation pool (R263 to R265) -/

def State.poolSize (s : State) : Nat := fieldOf s.gpool 32 16
def State.gvState (s : State) (v : Nat) : Nat := fieldOf (SMap.get 0 s.gvstat v) 0 3
/-- GVSTAT of a value set. -/
def State.setGv (s : State) (v holder st : Nat) : State :=
  { s with gvstat := SMap.set 0 s.gvstat v (BitVec.ofNat 64 (holder * 2 ^ 32 + st)) }
def State.setFree (s : State) (n : Nat) : State := { s with gpool := setField s.gpool 0 11 n }

/-- The value `take` of R263 finds, if any. -/
def State.nextGen (s : State) : Option Nat :=
  let size := s.poolSize
  ((upFrom 1 size).map fun j => (fieldOf s.gpool 16 10 + j) % size).find? fun v => s.gvState v == 0

/-- `take` (R263). -/
def State.takeGen (s : State) (ctxid : Nat) : Option (Nat × State) :=
  s.nextGen.map fun v =>
    let s := s.setGv v ctxid 1
    (v, { s with gpool := setField (setField s.gpool 16 10 v) 0 11 (fieldOf s.gpool 0 11 - 1) })

/-- A Live value passes to the carder (R265). -/
def State.drainGen (s : State) (v : Nat) : State := s.setGv v (fieldOf (SMap.get 0 s.gvstat v) 32 16) 2

/-- The generation step of a context at the end of its bundle (R244). -/
def State.genStep (s : State) (x : Nat) : State :=
  match s.ctx? x with
  | none => s
  | some c =>
    match s.takeGen x with
    | none => s
    | some (v, s) => (s.drainGen c.gen.toNat).modCtx x fun c => { c with gen := BitVec.ofNat 10 v }

/-! ### What the device keeps in a context's memory (R293, R294) -/

/-- Where a virtual address of a context leads on a die: memory, or nothing (log entry 26). -/
def State.ctxPlace (s : State) (x d va : Nat) : Option (Nat × Bool) :=
  match (s.ctx? x).map Ctx.asid with
  | none => none
  | some asid =>
    match s.lookup asid d va (2 ^ 21 + d) with
    | .leaf e lvl =>
      match s.leafPlace d (partOf x) va e lvl with
      | .ok (.mem loc tagged) => some (loc, tagged)
      | _ => none
    | _ => none

/-- The spill record of a core for a context: its address, on the core's die (R293, R340). -/
def Ctx.spillAddr (x : Ctx) (c : Nat) : Nat :=
  let drank := (x.gangs.find? fun g => dieOfSeq g.seq == dieOfCore c).elim 0 GangPlace.drank
  fieldOf (x.ctl 0x308) 16 48 * 2 ^ 16 + drank * 160 * 0x8400 + 0x8400 * (c % 160)

/-- MLIVE and MAUX of a context's spill record set to 0 (R282). -/
def State.clearSpill (s : State) (x c : Nat) : State :=
  match s.ctx? x, (s.ctx? x).bind fun y => s.ctxPlace x (dieOfCore c) (y.spillAddr c + 0x8000) with
  | some y, some (loc, tagged) =>
    let w := wordOf (s.readBytes { gen := y.gen, tagged := tagged, part := none } loc 8)
    if fieldOf w 0 9 = 0 then s
    else s.writeBytes { gen := y.gen, tagged := tagged, part := some (partOf x) } loc (bytesOf (setField w 0 9 0))
  | _, _ => s

/-- The owner of a core's matrix state, and ARM (R175). -/
def accOwner (w : Word) : Nat := fieldOf w 32 16
def accArm (w : Word) : Bool := w.getLsbD 16

/-- The matrix state cleared for a context: whole where the context owns it; elsewhere only the context's own binding returns to its
reset value (R94, R282). -/
def MatrixRegs.yieldClear (m : MatrixRegs) (x : Nat) : MatrixRegs :=
  if accOwner m.accown = x then { m with t := [], scq := [], half := false, fbind := 8, fbOf := none }
  else if m.fbOf = some x then { m with fbOf := none }
  else m

/-- The matrix state at the start of a kernel: whatever the context itself left there reads zero too (R21). -/
def MatrixRegs.startClear (m : MatrixRegs) (x : Nat) (g : Gen) : MatrixRegs :=
  let m := m.yieldClear x
  let q := m.scq.filter fun e => !e.tag.is g
  { m with t := m.t.filter fun e => !e.2.tag.is g, scq := q, half := m.half && !q.isEmpty }

/-- The spill records of cores cleared for a context, and their matrix state by a function (R282). -/
def State.zeroMatrix (s : State) (x : Nat) (f : MatrixRegs → MatrixRegs) (cs : List Nat) : State :=
  (cs.foldl (fun s c => s.clearSpill x c) s).modCores (fun _ k => { k with mx := f k.mx }) cs

/-! ### Spawn and join (R233, R234) -/

/-- The kernel a sequencer runs. -/
def State.kernelOf (s : State) (q : Nat) : Option Kernel := (s.ctxOf q).bind fun c => c.image.kernels[(s.seq q).kern]?

/-- The format table of a kernel under a generation (R21, R92). -/
def formatRegs (k : Option Kernel) (g : Gen) : SMap (Reg 128) :=
  match k with
  | none => []
  | some k => (List.range 16).foldl (fun f i => SMap.set (Reg.wiped 128) f i (Reg.of ((k.fmt[i]?).getD 0) g)) []

/-- s1 to s8 from a list of words. -/
def argRegs (vals : List Word) (g : Gen) : SMap (Reg 64) :=
  (List.range 8).foldl (fun f i => SMap.set (Reg.wiped 64) f (i + 1) (Reg.of ((vals[i]?).getD 0) g)) []

/-- The registers of a core as a kernel finds them at its start (R21). Writes of `c.shp` that are pending are dropped: of a donated core
the spec speaks only of landing-queue entries and long results: DESIGN CHOICE (log entry 68). -/
def Core.startRegs (k : Core) (vals : List Word) (fmt : SMap (Reg 128)) (g : Gen) : Core :=
  { k with sc := { ScalarRegs.reset with s := argRegs vals g }, ve := .reset, me := .reset,
           mx := { k.mx with f := fmt },
           sp := { k.sp with rrb := Reg.wiped 64, lived := Reg.wiped 64, clipped := Reg.wiped 64 } }

/-- The same for a core that a spawn donates: no trap is recorded on it, and WAITLIM stays as it was, DESIGN CHOICE (log entry 69). -/
def Core.siblingRegs (k : Core) (vals : List Word) (fmt : SMap (Reg 128)) (g : Gen) : Core :=
  let k := k.startRegs vals fmt g
  { k with sp := { k.sp with tpc := 0, tcause := 0 } }

/-- CRANK 0 upwards for the cores of a gang, in order. -/
def State.rankCores (s : State) (size : Nat) : (rank : Nat) → List Nat → State
  | _, [] => s
  | i, c :: r => State.rankCores (s.modCore c fun k => { k with sp := { k.sp with crank := i, gangsz := size } }) size (i + 1) r
def State.rankGang (s : State) (gang : List Nat) : State := s.rankCores gang.length 0 gang
/-- The same for cores that a sequencer's stream holds or gives, and for their shadows where it is paired (R350). -/
def State.rankPair (s : State) (q : Nat) (gang : List Nat) : State :=
  let t := s.rankGang gang
  if s.paired q then t.rankGang (gang.map shadowCore) else t

/-- The sequencer of a sibling index in the same creel. -/
def sibSeq (q sib : Nat) : Nat := creelOfSeq q * 4 + sib

/-- The cores of a gang whose CRANK bit is set in a mask, or clear. -/
def maskSplit (gang : List Nat) (mask : Nat) (bit : Bool) : List Nat :=
  ((List.range gang.length).filter fun i => (decide (mask / 2 ^ i % 2 = 1)) == bit).filterMap fun i => gang[i]?

/-- `y.spawn` at the end of its cycle (R233). The sibling takes the mode of its spawner: DESIGN CHOICE beside R346 (log entry 82). -/
def State.doSpawn (s : State) (q r : Nat) (entry : Word) (mask : Nat) (vals : List (Nat × List Word)) : State :=
  let x := s.seq q
  let g := s.genOf q
  let give := maskSplit x.gang mask true
  let left := maskSplit x.gang mask false
  let fmt := formatRegs (s.kernelOf q) g
  let all := if s.paired q then give ++ give.map shadowCore else give
  let s := s.modCores (fun c k => k.siblingRegs ((vals.find? fun v => v.1 == c).elim [] Prod.snd) fmt g) all
  let s := s.zeroMatrix (s.ctxIdOf q) (fun m => m.startClear (s.ctxIdOf q) g) all
  let y : Seq := { Seq.reset with
    ctx := x.ctx, gidx := x.gidx, gang := give, phase := .run, sys := x.sys, pc := lineAddr entry, loopTab := x.loopTab,
    kern := x.kern, parent := some q, cline := x.cline, asid := x.asid }
  let s := s.setSeq r { y with cyc := (s.seq r).cyc, rot := (s.seq r).rot }
  let s := s.modSeq q fun x => { x with gang := left, sibs := x.sibs ++ [{ seq := r, gangBefore := x.gang }] }
  (s.rankPair q give).rankPair q left

/-- The cores of a gang as it stood before a spawn that are in a list: in their old order. -/
def Sibling.regain (b : Sibling) (cs : List Nat) : List Nat := b.gangBefore.filter cs.contains

/-- A sibling spawned after one that is joined now finds, at its own join, the returned cores in the gang (R234). -/
def Sibling.afterJoin (e b : Sibling) (back : List Nat) : Sibling :=
  if e.gangBefore.all b.gangBefore.contains then { e with gangBefore := b.regain (back ++ e.gangBefore) } else e

/-- `y.join` at the end of its cycle: the cores come back, and the gang is as before the spawn (R234), but for the cores of siblings
spawned later and not yet joined. -/
def State.doJoin (s : State) (q r : Nat) : State :=
  match (s.seq q).sibs.find? fun b => b.seq == r with
  | none => s
  | some b =>
    let back := (s.seq r).gang
    let s := s.modSeq q fun x =>
      { x with gang := b.regain (back ++ x.gang),
               sibs := (x.sibs.filter fun e => e.seq != r).map fun e => e.afterJoin b back }
    let s := s.setSeq r { Seq.reset with cyc := (s.seq r).cyc, rot := (s.seq r).rot }
    s.rankPair q (s.gang q)

/-! ### Leaving a barrier line (R362, R363) -/

/-- The physical line of a sequencer's context on its die, with CLINE as taken at its start (R356, R361). -/
def State.lineOf (s : State) (q : Nat) : Option Nat :=
  let cl := (s.seq q).cline
  let pq := s.dctl (dieOfSeq q) (0x4000 + 0x40 * partOf (s.ctxIdOf q) + 0x18)
  if cl.getLsbD 7 && decide (fieldOf cl 0 5 < fieldOf pq 8 6) then some ((fieldOf pq 0 5 + fieldOf cl 0 5) % 32) else none

/-- The sequencers that take part in the line a context owns on a die: those that run a stream of its group there, until they retire or
land (R362). -/
def State.lineMembers (s : State) (d x : Nat) : List Nat :=
  (upFrom (d * 40) 40).filter fun q => (s.seq q).ctx == some x &&
    (match (s.seq q).phase with
     | .idle | .retired | .landWait => false
     | .held => (s.ctx? x).elim true fun c => !c.landed.contains (s.seq q).gidx
     | _ => true)

/-- A gang of the owner on the die is evicted: it stays in the set with its input low (R362). -/
def State.evictedOn (s : State) (d x : Nat) : Bool :=
  (s.ctx? x).elim false fun c => c.evicted.any fun i => (c.gangs[i]?).elim false fun p => dieOfSeq p.seq == d

/-- A line with no participant of its owner left is quiet and unowned (R363). -/
def State.linePrune (s : State) (d : Nat) : State :=
  let f (_ : Nat) (l : AndLine) : AndLine :=
    match l.owner with
    | some x => if (s.lineMembers d x).isEmpty && !s.evictedOn d x then AndLine.reset else l
    | none => l
  s.modDie d fun y => { y with lines := SMap.mapVals .reset f y.lines }

/-- A gang begins its landing: it leaves the set of its line (R286, R362). -/
def State.toLand (s : State) (q : Nat) : State :=
  (s.modSeq q fun x => { x with phase := .landWait, mword := none, lineUp := false }).linePrune (dieOfSeq q)

/-! ### Retirement (R235) -/

/-- The waits of `y.retire` are over: landing entries have committed, long results are written, units are idle. -/
def State.settled (s : State) (q : Nat) : Bool :=
  (s.gang q).all fun c =>
    (s.core c).mx.eng.isNone && (s.core c).mx.tst.isNone && (s.core c).pp.lq.isEmpty &&
    s.flights.all fun f => !(f.core == c && (f.dest.isSome && f.failed.isNone))

/-- One cycle of the wait of `y.retire`: every entry commits, those that a trap has held among them (R235). -/
def State.retireStep (s : State) (q : Nat) : State :=
  let g := s.genOf q
  let s := s.modCores (fun _ k => k.unhold) (s.allCores q)
  let s := if (s.gang q).any fun c => (s.core c).readsPending then s
    else s.modCores (fun _ k => k.commitNow g) (s.allCores q)
  match (s.seq q).sibs with
  | b :: _ => if (s.seq b.seq).phase == .retired then s.doJoin q b.seq else s
  | [] =>
    let x := s.seq q
    let last := x.parent.isSome || x.gidx ≠ 0 || (s.ctxOf q).elim true fun c =>
      (upFrom 1 (c.gangs.length - 1)).all fun i => c.retired.contains i
    if !s.settled q || !last then s
    else
      let s := s.modSeq q fun x => { x with phase := .retired }
      let s := if x.parent.isNone then
          match x.ctx with
          | some id => s.modCtx id fun c => if c.retired.contains x.gidx then c else { c with retired := c.retired ++ [x.gidx] }
          | none => s
        else s
      s.linePrune (dieOfSeq q)

/-! ### Halts (R246, R297) -/

/-- The sequencer halts with cause DEBUG, TPC at the next bundle (R246, R297). No bundle issues while it stands, so no landing-queue
entry counts. -/
def State.doHalt (s : State) (q slot code : Nat) : State :=
  let x := s.seq q
  let s := s.modCores (fun _ k =>
    { k with sp := { k.sp with tpc := x.pc, tcause := tcauseWord code slot 0 (tcAct k.sp.tcause) (tcNest k.sp.tcause) x.sys cDEBUG } })
    (s.allCores q)
  let s := s.modSeq q fun y => { y with phase := .halted, mword := none, haltAsk := false, lineUp := false }
  match x.ctx with
  | some id => s.modCtx id fun c => { c with phase := .halted }
  | none => s

/-- What a bundle left for the end of its cycle. -/
def State.finishWith (s : State) (q : Nat) : Fin → State
  | .tret =>
    if (s.gang q).any fun c => (s.core c).readsPending then s.modSeq q fun x => { x with phase := .tretWait }
    else s.trapReturn q
  | .retire => (s.modSeq q fun x => { x with phase := .retireWait }).retireStep q
  | .halt code => s.doHalt q 7 code
  | .spawn r e m vals => s.doSpawn q r e m vals
  | .join r => s.doJoin q r
  | .geninc => (s.seq q).ctx.elim s s.genStep

/-- Completes what the bundle left for the end of its cycle. -/
def State.finish (s : State) (q : Nat) : State :=
  match (s.seq q).fin with
  | none => s
  | some f => (s.modSeq q fun x => { x with fin := none }).finishWith q f

/-! ### Redundant pairs (R351) -/

/-- The outgoing command of an operation on a core (R351). -/
def Sem.command (m : Sem) (s : State) (q c : Nat) : List Word := if m.on s q c then m.cmd s q c else []

/-- The outgoing commands of a bundle differ on some core pair (R351). -/
def State.mismatch (s : State) (q : Nat) (ms : List Sem) : Bool :=
  s.paired q && (s.gang q).any fun c => ms.any fun m => m.command s q c != m.command s q (shadowCore c)

/-- The group enters Checking: every gang stops before its next bundle (R343, R351). -/
def State.enterChecking (s : State) (q : Nat) : State :=
  let d := dieOfSeq q
  let off := 0x5A00 + 8 * (creelOfSeq q % 10 / 2)
  let w := s.dctl d off
  let s := s.setDctl d off (setField w (4 + q % 4) 1 1)
  match (s.seq q).ctx with
  | none => s
  | some id =>
    let s := s.modCtx id fun c => { c with group := .checking }
    allSeqs.foldl (fun s r => if (s.seq r).ctx = some id then s.modSeq r fun x => { x with phase := .held } else s) s

/-! ### Issuing a bundle -/

/-- The position (r, n) belongs to the gang (R381). -/
def State.ownsPosition (s : State) (q n : Nat) : Bool :=
  let w := SMap.get 0 s.whlmap n
  w.getLsbD 63 && decide (fieldOf w 32 16 = s.ctxIdOf q) && decide (fieldOf w 0 9 = (s.seq q).gidx)

/-- The current tick of the sequencer's die lies in wheel position n (R379). -/
def State.inPosition (s : State) (q n : Nat) : Bool := s.tbase (dieOfSeq q) % 4096 / 4 == n

/-- Header conditions that raise a cause on the gang (R346, R361, R381): YLD with a sibling, a wheel position that is not
owned, a line that is not named or granted. -/
def State.headerRaise (s : State) (q : Nat) (h : Header) : Option Nat :=
  if h.yld == 1 && ((s.seq q).parent.isSome || !(s.seq q).sibs.isEmpty) then some cILLOP
  else if h.whl == 1 && s.inPosition q h.runpos.toNat && !s.ownsPosition q h.runpos.toNat then some cPERM
  else if h.syn == 1 && !s.acting q && !(s.seq q).released then
    match s.lineOf q with
    | none => some cQUOTA
    | some n =>
      match (SMap.get AndLine.reset (s.die (dieOfSeq q)).lines n).owner with
      | some x => if x = s.ctxIdOf q then none else some cQUOTA
      | none => none
  else none

/-- A cause of the whole bundle, which every core of the gang raises. -/
def State.everyCore (s : State) (q cause slot : Nat) : List Raise :=
  (s.gang q).map fun c => { core := c, slot := slot, cause := cause, info := 0 }

/-- The bundle leaves issue with causes raised (R66, R238). Near full/empty requests that have not been applied are
withdrawn. -/
def State.leaveWith (s : State) (q : Nat) (rs : List Raise) : State :=
  let mine := (s.gang q).flatMap fun c => (s.core c).pp.fed.map Prod.snd
  let s := { s with flights := s.flights.filter fun f => !mine.contains f.id }
  s.trapEntry q rs (s.seq q).pc

/-- The input of the sequencer's line is high: the line gathers (R363). -/
def State.raiseLine (s : State) (q : Nat) : State :=
  match s.lineOf q with
  | none => s
  | some n =>
    (s.modSeq q fun x => { x with lineUp := true }).modDie (dieOfSeq q) fun y =>
      { y with lines := SMap.modify .reset y.lines n fun _ => { phase := .gathering, owner := some (s.ctxIdOf q) } }

/-- The released line returns to quiet as its participants issue (R363). -/
def State.quietLine (s : State) (q : Nat) : State :=
  match s.lineOf q with
  | none => s
  | some n =>
    s.modDie (dieOfSeq q) fun y =>
      { y with lines := SMap.modify .reset y.lines n fun l => if l.phase = .released then { l with phase := .quiet } else l }

/-- A counted wait of a core reaches its limit (R359, R360). -/
def Core.overLimit (k : Core) : Bool :=
  let l := k.sp.waitlim.toNat % 2 ^ 32
  decide ((if l = 0 then 2 ^ 32 else l) ≤ k.pp.waitCnt)

/-- A cycle in which the bundle stays at issue: counted waits count on their cores, with the slot that waits (R360). -/
def State.standStill (s : State) (ws : List (Nat × List (Nat × Wait))) : State :=
  ws.foldl (fun s w => if anyCounted w.2 then
      s.modCore w.1 fun k => { k with pp := { k.pp with waitCnt := k.pp.waitCnt + 1, waitSlot := countedSlot w.2 } } else s) s

/-- A request of the bundle at issue waits at a peer bank (R195). -/
def State.fedOut (s : State) (q : Nat) : Bool := (s.gang q).any fun c => !(s.core c).pp.fed.isEmpty

/-- A gang of a landing group that stands at a bundle stalled by a send credit, an empty receive queue or a line lands before
that bundle (R345, R365). A request at a peer bank is withdrawn first (R195). -/
def State.landsStalled (s : State) (q : Nat) (ms : List Sem) (line : Bool) : Option State :=
  let stalled := line || (s.gang q).any fun c => ms.any fun m => m.chan && m.hereOn s q c && m.wait s q c != .none
  if s.landable q && !s.anySibling q && stalled then
    some (if s.fedOut q then s.modSeq q fun x => { x with phase := .withdraw true } else s.toLand q)
  else none

/-- The operations whose cause is taken, on the lowest slot of some core: what that trap does beside its entry (R224), and
failed long results that it uses up (R402, R413). -/
def State.trapHooks (s : State) (q : Nat) (rs : List Raise) (ms : List Sem) (t : State) : State :=
  let took (m : Sem) (r : Raise) : Bool := r.slot == m.slot && (m.badOn s q r.core).elim false fun b => b.cause == r.cause
  let t := ms.foldl (fun t m => if rs.any (took m) then m.trapped s q t else t) t
  let used (f : Flight) : Bool := f.failed.isSome && ms.any fun m => rs.any fun r =>
    took m r && r.core == f.core && (m.failedUse s q r.core).isSome && (f.dest.elim false fun d => (m.uses s q r.core).contains d)
  { t with flights := t.flights.filter fun f => !used f }

/-- Each operation's requests that leave while the bundle stands at issue: `early` gives the state with them sent. -/
abbrev Early := State → Nat → State

/-- The bundle that stands at issue: the wheel position it is due in, and its line's input low until every other condition holds
(R363, R379). -/
def State.standAt (s : State) (q : Nat) (h : Header) : State :=
  let w := if h.whl = 1 then some h.runpos.toNat else none
  if (s.seq q).whl = w ∧ (s.seq q).lineUp = false then s else s.modSeq q fun x => { x with whl := w, lineUp := false }

/-- A near `w.fe` of the bundle would leave in this cycle (R194, R351). -/
def State.sendsStore (s : State) (q : Nat) (early : Early) : Bool :=
  ((early s q).flights.drop s.flights.length).any fun f => decide (f.op = .wfe)

/-- A bundle at issue: its causes, its waits, or its effect (R57, R66, R220). `early` sends the near full/empty requests of
the bundle (R187, R195). -/
def State.issueOps (s : State) (q : Nat) (h : Header) (ms : List Sem) (early : Early) : State :=
  let s := ms.foldl (fun s m => m.stand q s) (s.standAt q h)
  let ops := s.raises q (h.whl == 1) ms
  let rs := match s.headerRaise q h with
    | some cause => if cause = cILLOP ∨ ops.isEmpty then s.everyCore q cause 8 else ops
    | none => ops
  if !rs.isEmpty then
    if s.fedOut q then s.modSeq q fun x => { x with phase := .withdraw false } else s.trapHooks q rs ms (s.leaveWith q rs)
  else if s.mismatch q ms && s.sendsStore q early then s.enterChecking q
  else
    let s := early s q
    let ws := (s.gang q).map fun c => (c, s.waitsOn q c ms)
    let offWheel := h.whl == 1 && !s.inPosition q h.runpos.toNat
    -- A release has reserved what the bundle's other conditions need (R364).
    let out := h.syn == 1 && (s.seq q).released
    let held := !out && (offWheel || ws.any fun w => !w.2.isEmpty)
    let line := h.syn == 1 && !s.acting q && !out
    if held || line then
      match s.landsStalled q ms (line && !held) with
      | some s => s
      | none =>
        if held then s.standStill ws
        else
          -- Every other condition holds: the input of the line is high, and the wait counts (R360, R363).
          (s.raiseLine q).standStill ((s.gang q).map fun c => (c, [(8, Wait.counted)]))
    else
      let s1 := if s.mismatch q ms then
          (s.endBundle (State.actAll s q ms (s.allCores q) s) q h).enterChecking q
        else (s.endBundle (s.performSlots q ms) q h).finish q
      let s1 := if h.syn == 1 then s1.quietLine q else s1
      { s1 with free := s1.free + 1 }

/-- One operation as the whole bundle of the sequencer at issue, with the header the assembler writes. -/
def State.issueOne (s : State) (i : Instr) (m : Sem) (early : Early) : State :=
  let q := s.focus
  match (s.seq q).phase with
  | .run => if (s.gang q).isEmpty then s else s.issueOps q (plainHeader [i]) [m] early
  | _ => s

/-- No operation of the bundle sends a request early. -/
def noEarly : Early := fun s _ => s

end Sys2Proof.Machine
end

