-- ==== Sys2Proof/Machine/Numbers.lean ====
section
/-! DEFINITION. Number formats and exact arithmetic (R78 to R90, R95, R134 to R136): values are exact, and every result is
rounded once. An element is the number its bits spell. -/

namespace Sys2Proof.Machine

/-! ### Formats -/

/-- A floating-point format (R79): width, fraction width, bias, and the greatest significand at the greatest exponent. -/
structure Fmt where
  width : Nat
  frac : Nat
  bias : Nat
  /-- The greatest exponent of a finite value. -/
  emax : Int
  /-- The greatest significand, of frac + 1 bits, at emax. -/
  maxSig : Nat
  /-- E4M3 alone has no infinity and only one NaN pattern for each sign (R80). -/
  hasInf : Bool
  deriving DecidableEq, Repr

def fmtF32 : Fmt := { width := 32, frac := 23, bias := 127, emax := 127, maxSig := 2 ^ 24 - 1, hasInf := true }
def fmtBf16 : Fmt := { width := 16, frac := 7, bias := 127, emax := 127, maxSig := 255, hasInf := true }
def fmtF16 : Fmt := { width := 16, frac := 10, bias := 15, emax := 15, maxSig := 2047, hasInf := true }
def fmtE4m3 : Fmt := { width := 8, frac := 3, bias := 7, emax := 8, maxSig := 14, hasInf := false }
def fmtE5m2 : Fmt := { width := 8, frac := 2, bias := 15, emax := 15, maxSig := 7, hasInf := true }

/-- The format of a floating-point type code (R78). -/
def fmtOf (ty : Nat) : Fmt :=
  match ty with
  | 0 => fmtF32
  | 1 => fmtBf16
  | 2 => fmtF16
  | 3 => fmtE4m3
  | _ => fmtE5m2

/-- The exponent of the smallest normal value (R84). -/
def Fmt.emin (f : Fmt) : Int := 1 - f.bias

/-- Rounding modes (R83). -/
inductive Rm where
  | rne
  | rz
  | ru
  | rd
  deriving DecidableEq, Repr

/-- The mode of a rounding field (R83). -/
def Rm.ofCode (c : BitVec 2) : Rm :=
  match c.toNat with
  | 0 => .rne
  | 1 => .rz
  | 2 => .ru
  | _ => .rd

/-! ### Exact values -/

/-- A NaN with its sign, its kind and the payload bits under its quiet bit (R79, R86). -/
structure NaN where
  neg : Bool
  quiet : Bool
  payload : Nat
  payloadBits : Nat
  deriving DecidableEq, Repr

/-- An exact number: `fin neg m e sticky` is (m + t) times 2^e with that sign, m > 0, where t = 0 without `sticky`
and t lies strictly between 0 and 1 with it. -/
inductive XVal where
  | nan (n : NaN)
  | invalid
  | inf (neg : Bool)
  | zero (neg : Bool)
  | fin (neg : Bool) (m : Nat) (e : Int) (sticky : Bool)
  deriving DecidableEq, Repr

/-- The exact value of an encoding (R79, R80). -/
def val (f : Fmt) (bits : Nat) : XVal :=
  let neg := decide (bits / 2 ^ (f.width - 1) % 2 = 1)
  let ebits := f.width - 1 - f.frac
  let e := bits / 2 ^ f.frac % 2 ^ ebits
  let m := bits % 2 ^ f.frac
  if e = 0 then
    if m = 0 then .zero neg else .fin neg m (f.emin - f.frac) false
  else if e = 2 ^ ebits - 1 ∧ f.hasInf then
    if m = 0 then .inf neg
    else .nan { neg := neg, quiet := decide (m / 2 ^ (f.frac - 1) = 1), payload := m % 2 ^ (f.frac - 1),
                payloadBits := f.frac - 1 }
  else if e = 2 ^ ebits - 1 ∧ m = 2 ^ f.frac - 1 then .nan { neg := neg, quiet := true, payload := 0, payloadBits := 0 }
  else .fin neg (2 ^ f.frac + m) (e - f.bias - f.frac) false

/-- Whether the encoding is a subnormal number. -/
def isSubnormal (f : Fmt) (bits : Nat) : Bool :=
  decide (bits / 2 ^ f.frac % 2 ^ (f.width - 1 - f.frac) = 0 ∧ bits % 2 ^ f.frac ≠ 0)

def signBit (f : Fmt) (neg : Bool) : Nat := if neg then 2 ^ (f.width - 1) else 0

/-- The all-ones exponent field in place. -/
def expOnes (f : Fmt) : Nat := (2 ^ (f.width - 1 - f.frac) - 1) * 2 ^ f.frac

/-- The infinity of a sign; E4M3 has the NaN of that sign in its place (R84). -/
def encInf (f : Fmt) (neg : Bool) : Nat :=
  if f.hasInf then signBit f neg + expOnes f else signBit f neg + expOnes f + (2 ^ f.frac - 1)

/-- The largest finite value of a sign. -/
def encMax (f : Fmt) (neg : Bool) : Nat :=
  signBit f neg + (f.emax + f.bias).toNat * 2 ^ f.frac + (f.maxSig - 2 ^ f.frac)

/-- The canonical NaN (R86). -/
def canonNan (f : Fmt) : Nat := if f.hasInf then expOnes f + 2 ^ (f.frac - 1) else expOnes f + (2 ^ f.frac - 1)

/-- `encode_nan_from` (R86). -/
def encNanFrom (f : Fmt) (n : NaN) : Nat :=
  if f.hasInf then
    let w := f.frac - 1
    let p := if n.payloadBits ≤ w then n.payload * 2 ^ (w - n.payloadBits) else n.payload / 2 ^ (n.payloadBits - w)
    signBit f n.neg + expOnes f + 2 ^ (f.frac - 1) + p
  else signBit f n.neg + expOnes f + (2 ^ f.frac - 1)

/-- The first NaN of a list. -/
def firstNan : List XVal → Option NaN
  | [] => none
  | .nan n :: _ => some n
  | _ :: r => firstNan r

/-- The first signalling NaN of a list. -/
def firstSignalling : List XVal → Option NaN
  | [] => none
  | .nan n :: r => if n.quiet then firstSignalling r else some n
  | _ :: r => firstSignalling r

/-- `nan_pick` at a compatibility level (R86, R89); the canonical NaN when the list holds none. -/
def nanPick (level : Nat) (l : List XVal) (f : Fmt) : Nat :=
  if level = 1 then canonNan f
  else
    match (if level = 3 then (firstSignalling l).or (firstNan l) else firstNan l) with
    | some n => encNanFrom f n
    | none => canonNan f

/-! ### Rounding -/

/-- The quotient of m (plus a fraction when sticky) by 2^shift, rounded under rm with the sign neg. -/
def roundShift (rm : Rm) (neg : Bool) (m : Nat) (sticky : Bool) (shift : Int) : Nat :=
  if shift ≤ 0 then m * 2 ^ (-shift).toNat
  else
    let s := shift.toNat
    let big := decide (s > Nat.log2 m + 2)
    let lo := if big then 0 else m / 2 ^ s
    let rem := if big then 1 else m % 2 ^ s
    let half := if big then 2 else 2 ^ (s - 1)
    let exact := decide (rem = 0) && !sticky
    if exact then lo
    else
      match rm with
      | .rne =>
        if rem < half then lo
        else if rem > half || sticky then lo + 1
        else if lo % 2 = 0 then lo else lo + 1
      | .rz => lo
      | .ru => if neg then lo else lo + 1
      | .rd => if neg then lo + 1 else lo

/-- `round_fp` (R84) of an exact value; a NaN or an invalid value gives the canonical NaN here, and callers resolve NaN
operands first through `nanPick`. -/
def roundFp (f : Fmt) (rm : Rm) (sat ftz : Bool) (x : XVal) : Nat :=
  match x with
  | .nan n => encNanFrom f n
  | .invalid => canonNan f
  | .inf neg => if sat then encMax f neg else encInf f neg
  | .zero neg => signBit f neg
  | .fin neg m e sticky =>
    let e2 := max (e + Nat.log2 m) f.emin
    let n := roundShift rm neg m sticky (e2 - f.frac - e)
    let (n, e2) := if n ≥ 2 ^ (f.frac + 1) then (n / 2, e2 + 1) else (n, e2)
    if e2 > f.emax ∨ (e2 = f.emax ∧ n > f.maxSig) then
      if sat || rm = .rz || (rm = .ru && neg) || (rm = .rd && !neg) then encMax f neg else encInf f neg
    else if n < 2 ^ f.frac then
      if ftz then signBit f neg else signBit f neg + n
    else signBit f neg + (e2 + f.bias).toNat * 2 ^ f.frac + (n - 2 ^ f.frac)

/-- `round_int` (R85) into the range lo to hi. -/
def roundInt (lo hi : Int) (rm : Rm) (x : XVal) : Int :=
  match x with
  | .nan _ | .invalid => 0
  | .inf neg => if neg then lo else hi
  | .zero _ => min (max 0 lo) hi
  | .fin neg m e sticky =>
    if e > 64 then (if neg then lo else hi)
    else
      let n : Int := roundShift rm neg m sticky (-e)
      min (max (if neg then -n else n) lo) hi

/-- The exact value of an integer. -/
def xOfInt (n : Int) : XVal := if n = 0 then .zero false else .fin (decide (n < 0)) n.natAbs 0 false

/-! ### Flushing (R90) and operands as an operation sees them (R134) -/

/-- An operand with subnormals flushed to a zero of their sign where `ftz` holds. -/
def finVal (f : Fmt) (ftz : Bool) (bits : Nat) : XVal :=
  let v := val f bits
  if ftz && isSubnormal f bits then
    match v with
    | .fin neg _ _ _ => .zero neg
    | v => v
  else v

/-- `ftz` of R134: level 1, FP32 and BF16. -/
def ftzOf (level ty : Nat) : Bool := decide (level = 1 ∧ (ty = 0 ∨ ty = 1))

/-! ### Exact operations (R135, R136) -/

def xNeg : XVal → XVal
  | .inf n => .inf (!n)
  | .zero n => .zero (!n)
  | .fin n m e s => .fin (!n) m e s
  | x => x

/-- The signed multiple of 2^e that a finite value is, for e at or below its exponent. -/
def scaledTo (neg : Bool) (m : Nat) (e lo : Int) : Int :=
  let v : Int := m * 2 ^ (e - lo).toNat
  if neg then -v else v

/-- The exact sum, with the zero of R136: `rm` gives the sign of an exact zero of unlike addends. -/
def xAdd (rm : Rm) (x y : XVal) : XVal :=
  match x, y with
  | .nan n, _ => .nan n
  | _, .nan n => .nan n
  | .invalid, _ => .invalid
  | _, .invalid => .invalid
  | .inf a, .inf b => if a = b then .inf a else .invalid
  | .inf a, _ => .inf a
  | _, .inf b => .inf b
  | .zero a, .zero b => if a = b then .zero a else .zero (decide (rm = .rd))
  | .zero _, y => y
  | x, .zero _ => x
  | .fin a m e _, .fin b n g _ =>
    let lo := min e g
    let s := scaledTo a m e lo + scaledTo b n g lo
    if s = 0 then .zero (decide (rm = .rd)) else .fin (decide (s < 0)) s.natAbs lo false

/-- The exact product. -/
def xMul (x y : XVal) : XVal :=
  match x, y with
  | .nan n, _ => .nan n
  | _, .nan n => .nan n
  | .invalid, _ => .invalid
  | _, .invalid => .invalid
  | .inf _, .zero _ => .invalid
  | .zero _, .inf _ => .invalid
  | .inf a, .inf b => .inf (a != b)
  | .inf a, .fin b _ _ _ => .inf (a != b)
  | .fin a _ _ _, .inf b => .inf (a != b)
  | .zero a, .zero b => .zero (a != b)
  | .zero a, .fin b _ _ _ => .zero (a != b)
  | .fin a _ _ _, .zero b => .zero (a != b)
  | .fin a m e _, .fin b n g _ => .fin (a != b) (m * n) (e + g) false

/-- The exact quotient, with 64 bits below the significands and a sticky remainder. -/
def xDiv (x y : XVal) : XVal :=
  match x, y with
  | .nan n, _ => .nan n
  | _, .nan n => .nan n
  | .invalid, _ => .invalid
  | _, .invalid => .invalid
  | .inf _, .inf _ => .invalid
  | .zero _, .zero _ => .invalid
  | .inf a, .zero b => .inf (a != b)
  | .inf a, .fin b _ _ _ => .inf (a != b)
  | .fin a _ _ _, .zero b => .inf (a != b)
  | .fin a _ _ _, .inf b => .zero (a != b)
  | .zero a, .inf b => .zero (a != b)
  | .zero a, .fin b _ _ _ => .zero (a != b)
  | .fin a m e _, .fin b n g _ =>
    let num := m * 2 ^ 64
    .fin (a != b) (num / n) (e - g - 64) (decide (num % n ≠ 0))

/-- The integer square root, by bits from 2^(fuel-1) down. -/
def isqrtAux : (fuel : Nat) → (n r : Nat) → Nat
  | 0, _, r => r
  | k + 1, n, r => isqrtAux k n (if (r + 2 ^ k) * (r + 2 ^ k) ≤ n then r + 2 ^ k else r)

/-- The greatest r with r * r at most n. -/
def isqrt (n : Nat) : Nat := isqrtAux (Nat.log2 n / 2 + 1) n 0

/-- The exact square root (R135). -/
def xSqrt (x : XVal) : XVal :=
  match x with
  | .zero n => .zero n
  | .inf false => .inf false
  | .inf true => .invalid
  | .fin true _ _ _ => .invalid
  | .fin false m e _ =>
    let (m, e) := if e % 2 = 0 then (m, e) else (m * 2, e - 1)
    let t := m * 2 ^ 128
    let r := isqrt t
    .fin false r (e / 2 - 64) (decide (r * r ≠ t))
  | x => x

/-- The exact reciprocal square root (R135). -/
def xRsqrt (x : XVal) : XVal :=
  match x with
  | .zero n => .inf n
  | .inf false => .zero false
  | .inf true => .invalid
  | .fin true _ _ _ => .invalid
  | .fin false m e _ =>
    let (m, e) := if e % 2 = 0 then (m, e) else (m * 2, e - 1)
    let r := isqrt (2 ^ 200 / m)
    .fin false r (-(e / 2) - 100) (decide (r * r * m ≠ 2 ^ 200))
  | x => x

/-! ### Base-2 exponential and logarithm: interval enclosures in fixed point

A result that is not exact is irrational and lies on no rounding boundary. The enclosures are far narrower than the distance of any
result of the formats from its nearest boundary, so their lower end, with something below it, rounds as the value does (log entry
11). -/

/-- Fraction bits of the enclosures. -/
def encBits : Nat := 320

/-- The product of 2^(b_i 2^-i) over the bits of a fraction of `k` bits, most significant first, from below: `r` is 2^(2^-i) for the
bit at hand, `acc` the product so far, both scaled by 2^encBits. -/
def exp2Frac : (k : Nat) → (f : Nat) → (r acc : Nat) → Nat
  | 0, _, _, acc => acc
  | k + 1, f, r, acc =>
    let r := isqrt (r * 2 ^ encBits)
    exp2Frac k f r (if f / 2 ^ k % 2 = 1 then acc * r / 2 ^ encBits else acc)

/-- 2^x (R135). -/
def xExp2 (x : XVal) : XVal :=
  match x with
  | .inf true => .zero false
  | .inf false => .inf false
  | .zero _ => .fin false 1 0 false
  | .fin neg m e _ =>
    if e ≥ 0 then
      -- An integer: exact, and beyond every format's range past 2^12.
      let n : Int := if e > 12 ∨ m > 2 ^ 24 then 2 ^ 24 else m * 2 ^ e.toNat
      .fin false 1 (if neg then -n else n) false
    else
      let k := (-e).toNat
      let v : Int := if neg then -m else m
      let n := v / 2 ^ k
      let f := (v % 2 ^ k).toNat
      if f = 0 then .fin false 1 n false
      else
        .fin false (exp2Frac k f (2 ^ (encBits + 1)) (2 ^ encBits) / 2 ^ 128) (n - (encBits - 128 : Nat)) true
  | x => x

/-- The first `k` fraction bits of the logarithm of a number between 1 and 2, given from below as y over 2^encBits. -/
def log2Frac : (k : Nat) → (y acc : Nat) → Nat
  | 0, _, acc => acc
  | k + 1, y, acc =>
    let y := y * y / 2 ^ encBits
    if 2 ^ (encBits + 1) ≤ y then log2Frac k (y / 2) (2 * acc + 1) else log2Frac k y (2 * acc)

/-- log2 x (R135). -/
def xLog2 (x : XVal) : XVal :=
  match x with
  | .zero _ => .inf true
  | .inf false => .inf false
  | .inf true => .invalid
  | .fin true _ _ _ => .invalid
  | .fin false m e _ =>
    let l := Nat.log2 m
    let i : Int := e + l
    if m = 2 ^ l then xOfInt i
    else
      let one := m * 2 ^ (encBits - l)
      let frac := log2Frac 120 one 0
      let t : Int := i * 2 ^ 120 + frac
      if t ≥ 0 then .fin false t.natAbs (-120) true else .fin true (t.natAbs - 1) (-120) true
  | x => x

/-! ### One element (R134) -/

/-- The operations of R135. -/
inductive FpOp where
  | add | sub | mul | fma | fms | fnma | div | rcp | rsqrt | sqrt | exp2 | log2
  deriving DecidableEq, Repr

/-- `exact` of R135, with the sign of an exact zero of R136. `S` are the operands in source order. -/
def xApply (op : FpOp) (rm : Rm) (s : List XVal) : XVal :=
  match op, s with
  | .add, [x, y] => xAdd rm x y
  | .sub, [x, y] => xAdd rm x (xNeg y)
  | .mul, [x, y] => xMul x y
  | .fma, [x, y, z] => xAdd rm (xMul x y) z
  | .fms, [x, y, z] => xAdd rm (xMul x y) (xNeg z)
  | .fnma, [x, y, z] => xAdd rm (xNeg (xMul x y)) z
  | .div, [x, y] => xDiv x y
  | .rcp, [x] => xDiv (.fin false 1 0 false) x
  | .rsqrt, [x] => xRsqrt x
  | .sqrt, [x] => xSqrt x
  | .exp2, [x] => xExp2 x
  | .log2, [x] => xLog2 x
  | _, _ => .invalid

/-- `fp_elem` (R134): the result bits of one element. -/
def fpElem (op : FpOp) (level ty : Nat) (rm : Rm) (sat : Bool) (s : List Nat) : Nat :=
  let f := fmtOf ty
  let raw := s.map (val f)
  match firstNan raw with
  | some _ => nanPick level raw f
  | none =>
    match xApply op rm (s.map (finVal f (ftzOf level ty))) with
    | .invalid => canonNan f
    | y => roundFp f rm sat (ftzOf level ty) y

/-! ### Group scales (R82, R95) -/

/-- A group scale times 2^AEXP, exact; none when invalid. -/
def gs16 (s : Nat) (aexp : Int) : Option XVal :=
  let e := s / 256 % 256
  let f := s % 256
  if e = 255 then none
  else if e = 0 then some (.zero false)
  else some (.fin false (256 + f) (e - 127 - 8 + aexp) false)

/-- Sign extension of the low `n` bits of a number. -/
def signed (n v : Nat) : Int :=
  let u := v % 2 ^ n
  if u < 2 ^ (n - 1) then u else (u : Int) - 2 ^ n

end Sys2Proof.Machine
end

