-- ==== Sys2Proof/Machine/Operands.lean ====
section
/-! DEFINITION. Operand forms: the register each operand code names (R48, R49, R122, R130), the registers an operation uses for
R62, and the immediates. -/

namespace Sys2Proof.Machine

/-- An s register as a destination or source that a long result could hold back (R62). -/
def sName (code : BitVec 6) : List Dest :=
  if 1 ≤ code.toNat ∧ code.toNat < 32 then [{ file := .s, index := code.toNat }] else []

/-- A logical vector register as the bundle maps it (R52). -/
def State.vName (s : State) (q c : Nat) (n : Nat) : List Dest :=
  if n < 64 then [{ file := .v, index := physV ((s.core c).base (s.genOf q)) n }] else []

/-- `read_operand` of a scalar source code (R48, R58). -/
def State.rs (s : State) (q c : Nat) (code : BitVec 6) : Word := (s.core c).readS (s.genOf q) code.toNat
/-- `read_operand` of an address register. -/
def State.ra (s : State) (q c : Nat) (an : BitVec 4) : Word := (s.core c).readA (s.genOf q) an.toNat

/-- The second operand of layout A: register or sign-extended immediate (R104). -/
def State.opB (s : State) (q c : Nat) (x : LayA) : Word :=
  if x.i = 0 then s.rs q c (x.b.extractLsb' 34 6) else x.b.signExtend 64
/-- The register of the second operand of layout A. -/
def bName (x : LayA) : List Dest := if x.i = 0 then sName (x.b.extractLsb' 34 6) else []

/-- The second operand of layout C (R107). -/
def State.opC (s : State) (q c : Nat) (x : LayC) : Word :=
  if x.i = 0 then s.rs q c (x.b.extractLsb' 33 6) else x.b.signExtend 64

/-- A vector source code of R48 in a slot: v0 to v63, the slot's own operand file, la0, la1, lb0, lb1. -/
def State.rv (s : State) (q c : Nat) (side : VSide) (code : BitVec 7) : VWord :=
  let k := s.core c
  let g := s.genOf q
  let n := code.toNat
  if n < 64 then k.readV g n
  else if n < 72 then
    (SMap.get (Reg.wiped 2048) (match side with | .va => k.ve.oa | .vb => k.ve.ob) (n - 64)).read g
  else if n < 74 then (SMap.get (Reg.wiped 2048) k.ve.la (n - 72)).read g
  else (SMap.get (Reg.wiped 2048) k.ve.lb (n - 74)).read g

/-- The register of a vsel code (R122). -/
def State.fromV (s : State) (q c : Nat) (sel : BitVec 5) : VWord :=
  let k := s.core c
  let g := s.genOf q
  let n := sel.toNat
  if n < 8 then (SMap.get (Reg.wiped 2048) k.ve.oa n).read g
  else if n < 16 then (SMap.get (Reg.wiped 2048) k.ve.ob (n - 8)).read g
  else if n < 18 then (SMap.get (Reg.wiped 2048) k.ve.la (n - 16)).read g
  else (SMap.get (Reg.wiped 2048) k.ve.lb (n - 18)).read g

/-- A 64-bit word of a vector value, 0 lowest. -/
def vWord64 (v : VWord) (w : Nat) : Word := v.extractLsb' (64 * w) 64

/-- `read_operand(an) + off24` (R185). -/
def State.addr (s : State) (q c : Nat) (an : BitVec 4) (off : BitVec 24) : Word := s.ra q c an + off.signExtend 64

/-- A 64-bit value as a vector value, for a result of a scalar file. -/
def asV (w : Word) : VWord := w.setWidth 2048

end Sys2Proof.Machine
end

