-- ==== Sys2Proof/Machine/Scalar.lean ====
section
/-! DEFINITION. The scalar slot (R102 to R126): one `Sem` and one meaning for each operation. -/

namespace Sys2Proof.Machine

/-! ### Arithmetic (R104, R105) -/

/-- `sdiv` of R105. -/
def sdivW (a b : Word) : Word :=
  if b = 0 then BitVec.allOnes 64
  else if a.toInt = -2 ^ 63 ∧ b.toInt = -1 then a
  else BitVec.ofInt 64 (a.toInt.tdiv b.toInt)
/-- `zdiv` of R105. -/
def zdivW (a b : Word) : Word := if b = 0 then BitVec.allOnes 64 else BitVec.ofNat 64 (a.toNat / b.toNat)
/-- `srem` of R105. -/
def sremW (a b : Word) : Word :=
  if b = 0 then a
  else if a.toInt = -2 ^ 63 ∧ b.toInt = -1 then 0
  else BitVec.ofInt 64 (a.toInt - a.toInt.tdiv b.toInt * b.toInt)

/-- Leading zeros of the low `n` bits of a number. -/
def clzN : (n : Nat) → Nat → Nat
  | 0, _ => 0
  | n + 1, v => if v / 2 ^ n % 2 = 1 then 0 else 1 + clzN n v
/-- Trailing zeros of the low `n` bits of a number. -/
def ctzN : (n : Nat) → Nat → Nat
  | 0, _ => 0
  | n + 1, v => if v % 2 = 1 then 0 else 1 + ctzN n (v / 2)

def addW (a b : Word) : Word := a + b
def subW (a b : Word) : Word := a - b
def mulW (a b : Word) : Word := a * b
def mulhW (a b : Word) : Word := BitVec.ofInt 64 (a.toInt * b.toInt / 2 ^ 64)
def mulhzW (a b : Word) : Word := BitVec.ofNat 64 (a.toNat * b.toNat / 2 ^ 64)
def andW (a b : Word) : Word := a &&& b
def orW (a b : Word) : Word := a ||| b
def xorW (a b : Word) : Word := a ^^^ b
def andnW (a b : Word) : Word := a &&& ~~~b
def shlW (a b : Word) : Word := if b.toNat < 64 then a <<< b.toNat else 0
def shrW (a b : Word) : Word := if b.toNat < 64 then a >>> b.toNat else 0
def sraW (a b : Word) : Word := a.sshiftRight (min b.toNat 64)
def rotW (a b : Word) : Word := a.rotateLeft (b.toNat % 64)
def clzW (a _ : Word) : Word := BitVec.ofNat 64 (clzN 64 a.toNat)
def ctzW (a _ : Word) : Word := BitVec.ofNat 64 (ctzN 64 a.toNat)
def popcW (a _ : Word) : Word := BitVec.ofNat 64 (popcount 64 a.toNat)
def minW (a b : Word) : Word := if a.toInt ≤ b.toInt then a else b
def maxW (a b : Word) : Word := if a.toInt ≥ b.toInt then a else b
def minzW (a b : Word) : Word := if a.toNat ≤ b.toNat then a else b
def maxzW (a b : Word) : Word := if a.toNat ≥ b.toNat then a else b

/-- A layout-A operation (R104): `land(d, f(A, B), L, S, ones)`. -/
def semA (f : Word → Word → Word) (lat : Nat) (x : LayA) : Sem :=
  { slot := 0, grd := x.grd,
    names := fun _ _ _ => sName x.a ++ bName x ++ sName x.d,
    act := fun s q c k => k.landS (s.genOf q) .s x.d.toNat (f (s.rs q c x.a) (s.opB q c x)) lat }

def semSAdd (x : LayA) : Sem := semA addW 1 x
def semSSub (x : LayA) : Sem := semA subW 1 x
def semSMul (x : LayA) : Sem := semA mulW 3 x
def semSMulh (x : LayA) : Sem := semA mulhW 3 x
def semSMulhz (x : LayA) : Sem := semA mulhzW 3 x
def semSDiv (x : LayA) : Sem := semA sdivW 12 x
def semSDivz (x : LayA) : Sem := semA zdivW 12 x
def semSRem (x : LayA) : Sem := semA sremW 12 x
def semSAnd (x : LayA) : Sem := semA andW 1 x
def semSOr (x : LayA) : Sem := semA orW 1 x
def semSXor (x : LayA) : Sem := semA xorW 1 x
def semSAndn (x : LayA) : Sem := semA andnW 1 x
def semSShl (x : LayA) : Sem := semA shlW 1 x
def semSShr (x : LayA) : Sem := semA shrW 1 x
def semSSra (x : LayA) : Sem := semA sraW 1 x
def semSRot (x : LayA) : Sem := semA rotW 1 x
def semSClz (x : LayA) : Sem := semA clzW 1 x
def semSCtz (x : LayA) : Sem := semA ctzW 1 x
def semSPopc (x : LayA) : Sem := semA popcW 1 x
def semSMin (x : LayA) : Sem := semA minW 1 x
def semSMax (x : LayA) : Sem := semA maxW 1 x
def semSMinz (x : LayA) : Sem := semA minzW 1 x
def semSMaxz (x : LayA) : Sem := semA maxzW 1 x

/-! ### Compare, select, constants, fields (R107 to R110) -/

/-- `s.cmp` (R107): the result goes to a guard. -/
def semSCmp (x : LayC) : Sem :=
  { slot := 0, grd := x.grd,
    names := fun _ _ _ => sName x.a ++ (if x.i = 0 then sName (x.b.extractLsb' 33 6) else []),
    act := fun s q c k =>
      k.land (s.genOf q) .s .q x.qd.toNat (BitVec.allOnes 128)
        (if cond x.cond.toNat (s.rs q c x.a) (s.opC q c x) then 1 else 0) 1 }

/-- `s.sel` (R108). -/
def semSSel (x : LayS) : Sem :=
  { slot := 0, grd := x.grd,
    names := fun _ _ _ => sName x.a ++ sName x.sb ++ sName x.d,
    act := fun s q c k =>
      let v := if (s.core c).readQ (s.genOf q) x.qc.toNat then s.rs q c x.a else s.rs q c x.sb
      k.landS (s.genOf q) .s x.d.toNat v 1 }

/-- `s.li` (R109). -/
def semSLi (x : LayK) : Sem :=
  { slot := 0, grd := x.grd, names := fun _ _ _ => sName x.d,
    act := fun s q _ k => k.landS (s.genOf q) .s x.d.toNat (x.imm.signExtend 64) 1 }

/-- `s.lih` (R109). -/
def semSLih (x : LayH) : Sem :=
  { slot := 0, grd := x.grd, names := fun _ _ _ => sName x.d,
    act := fun s q c k =>
      k.landS (s.genOf q) .s x.d.toNat ((x.imm ++ (s.rs q c x.d).extractLsb' 0 32 : BitVec 64)) 1 }

/-- `s.ext` (R110). -/
def semSExt (x : LayF) : Sem :=
  { slot := 0, grd := x.grd, names := fun _ _ _ => sName x.a ++ sName x.d,
    act := fun s q c k =>
      k.landS (s.genOf q) .s x.d.toNat (BitVec.ofNat 64 (fieldOf (s.rs q c x.a) x.lsb.toNat x.width.toNat)) 1 }

/-- `s.ins` (R110). -/
def semSIns (x : LayF) : Sem :=
  { slot := 0, grd := x.grd, names := fun _ _ _ => sName x.d ++ sName x.a,
    act := fun s q c k =>
      k.landS (s.genOf q) .s x.d.toNat
        (setField (s.rs q c x.d) x.lsb.toNat x.width.toNat (s.rs q c x.a).toNat) 1 }

/-! ### Transfers (R111, R112) -/

/-- A transfer the lead core has decided. -/
def State.transfer (s : State) (q : Nat) (t : Word) : State := s.modSeq q fun x => { x with xfer := some (lineAddr t) }

/-- PC + 64 × off32. -/
def State.relTarget (s : State) (q : Nat) (off : BitVec 32) : Word :=
  (s.seq q).pc + (off.signExtend 64) <<< 6

/-- `s.br` (R111). -/
def semSBr (x : LayB) : Sem :=
  { slot := 0, grd := x.grd, cls := .lead, once := fun s q t => t.transfer q (s.relTarget q x.off) }

/-- `s.brc` (R111): the lead core's operands decide. -/
def semSBrc (x : LayJ) : Sem :=
  { slot := 0, grd := x.grd, cls := .lead, names := fun _ _ _ => sName x.a ++ sName x.sb,
    once := fun s q t =>
      let c := s.lead q
      if cond x.cond.toNat (s.rs q c x.a) (s.rs q c x.sb) then t.transfer q (s.relTarget q x.off) else t }

/-- `s.call` (R111): every core lands the link in s31. -/
def semSCall (x : LayB) : Sem :=
  { slot := 0, grd := x.grd, cls := .lead, lands := fun _ _ _ => sName 31,
    act := fun s q _ k => k.landS (s.genOf q) .s 31 ((s.seq q).pc + 64) 1,
    once := fun s q t => t.transfer q (s.relTarget q x.off) }

/-- `s.ret` (R111). -/
def semSRet (x : LayZ) : Sem :=
  { slot := 0, grd := x.grd, cls := .lead, names := fun _ _ _ => sName 31,
    once := fun s q t => t.transfer q (s.rs q (s.lead q) 31) }

/-- `s.jr` (R111). -/
def semSJr (x : LayI) : Sem :=
  { slot := 0, grd := x.grd, cls := .lead, names := fun _ _ _ => sName x.a,
    once := fun s q t => t.transfer q (s.rs q (s.lead q) x.a) }

/-! ### Loops (R115, R118) -/

/-- The count of an `s.loop` (R115). -/
def State.loopN (s : State) (q : Nat) (x : LayP) : Nat :=
  if x.i = 0 then min (s.rs q (s.lead q) (x.cnt.extractLsb' 15 6)).toNat (2 ^ 32 - 1) else x.cnt.toNat

/-- LSTA as a push writes it: START, V, and PRE, KIND and ROT of the loop table's entry (R115, R320). The entry byte holds
KIND in [2:1], PRE in [3] and ROT in [4]. -/
def loopLsta (start : Word) (entry : Byte) : Word :=
  lineAddr start + 32 + (if entry.getLsbD 3 then 16 else 0) + BitVec.ofNat 64 (entry.toNat / 2 % 4 * 4)
    + (if entry.getLsbD 4 then 2 else 0)

/-- `s.loop` (R115). A level that a branch past END has left pushed raises ILLOP when it is pushed again, after a yield too: DESIGN CHOICE
(log entry 79; R117 and R22). -/
def semSLoop (x : LayP) : Sem :=
  { slot := 0, grd := x.grd, cls := .lead,
    names := fun _ _ _ => if x.i = 0 then sName (x.cnt.extractLsb' 15 6) else [],
    check := fun s q _ =>
      let y := s.seq q
      let last := y.pc + BitVec.ofNat 64 (64 * x.len.toNat)
      if y.pushed x.lvl.toNat then some (Bad.of cILLOP)
      else
        match y.innermost with
        | none => none
        | some k =>
          if y.pc = y.loopEnd k ∨ (y.loopEnd k).toNat < last.toNat then some (Bad.of cILLOP) else none,
    once := fun s q t =>
      let y := s.seq q
      let n := s.loopN q x
      let l := x.lvl.toNat
      let entry := SMap.get 0 y.loopTab l
      if tripsOf (entry.toNat / 2 % 4) n (s.gangsz q) (s.ndie q) = 0 then
        t.transfer q (y.pc + BitVec.ofNat 64 (64 * (x.len.toNat + 1)))
      else
        t.modSeq q fun z => { z with post := z.post ++ [
          (0x40 + l, loopLsta (y.pc + 64) entry),
          (0x48 + l, BitVec.ofNat 64 (x.len.toNat * 2 ^ 36 + y.levels.length * 2 ^ 33)),
          (0x50 + l, BitVec.ofNat 64 n)] } }

/-- `s.lbrk` (R118): the level and every deeper one pop, and the transfer goes past its end. -/
def semSLbrk (x : LayQ) : Sem :=
  { slot := 0, grd := x.grd, cls := .lead,
    check := fun s q _ => if (s.seq q).pushed x.lvl.toNat then none else some (Bad.of cILLOP),
    once := fun s q t =>
      let y := s.seq q
      let l := x.lvl.toNat
      let gone := y.levels.filter fun k => k == l || decide (y.loopDepth l < y.loopDepth k)
      (t.transfer q (y.loopEnd l + 64)).modSeq q fun z =>
        { z with post := z.post ++ gone.map fun k => (0x40 + k, setField (y.lstaOf k) 5 1 0) } }

/-! ### Special registers and copies (R119 to R124) -/

/-- `s.rdsr` (R119). -/
def semSRdsr (x : LayT) : Sem :=
  { slot := 0, grd := x.grd, names := fun _ _ _ => sName x.r,
    act := fun s q c k => k.landS (s.genOf q) .s x.r.toNat (s.readSr q c x.sr.toNat) 1 }

/-- `s.wrsr` (R119, R121): a register of the sequencer is written by the lead core, PC as a transfer. -/
def semSWrsr (x : LayT) : Sem :=
  if srOfSeq x.sr.toNat then
    { slot := 0, grd := x.grd, cls := .lead, names := fun _ _ _ => sName x.r,
      once := fun s q t =>
        let v := s.rs q (s.lead q) x.r
        if x.sr = 0 then t.transfer q v else t.modSeq q fun z => { z with post := z.post ++ [(x.sr.toNat, v)] } }
  else
    { slot := 0, grd := x.grd, priv := srWriteSys x.sr.toNat, names := fun _ _ _ => sName x.r,
      act := fun s q c k =>
        { k with pp := { k.pp with post := k.pp.post ++ [(x.sr.toNat, s.rs q c x.r)] } } }

/-- `s.fromv` (R122). -/
def semSFromv (x : LayV) : Sem :=
  { slot := 0, grd := x.grd, names := fun _ _ _ => sName x.d,
    act := fun s q c k => k.landS (s.genOf q) .s x.d.toNat (vWord64 (s.fromV q c x.vsel) x.word.toNat) 2 }

/-- `s.froma` (R123). -/
def semSFroma (x : LayM) : Sem :=
  { slot := 0, grd := x.grd, names := fun _ _ _ => sName x.d,
    act := fun s q c k => k.landS (s.genOf q) .s x.d.toNat (s.ra q c x.an) 2 }

end Sys2Proof.Machine
end

