-- ==== Sys2Proof/Machine/Elements.lean ====
section
/-! DEFINITION. Vector values as lists of elements, and the computation of each element (R127 to R151). -/

namespace Sys2Proof.Machine

/-! ### Elements and masks (R127, R128) -/

/-- The `n` elements of width `w` of a number, lowest first. -/
def splitElems (w : Nat) : (n : Nat) → Nat → List Nat
  | 0, _ => []
  | n + 1, v => v % 2 ^ w :: splitElems w n (v / 2 ^ w)
/-- The number whose elements of width `w` are given, lowest first. -/
def joinElems (w : Nat) : List Nat → Nat
  | [] => 0
  | e :: r => e % 2 ^ w + 2 ^ w * joinElems w r

/-- The elements of a vector value. -/
def elems (w : Nat) (v : VWord) : List Nat := splitElems w (2048 / w) v.toNat
/-- A vector value from elements. -/
def ofElems (w : Nat) (l : List Nat) : VWord := BitVec.ofNat 2048 (joinElems w l)

/-- `sel(p, i, w)` (R128). -/
def selLane (p : Pred) (i w : Nat) : Bool :=
  if w = 32 then p.getLsbD (2 * i) else if w = 16 then p.getLsbD i else p.getLsbD (i / 2)

/-- The even bits of a predicate. -/
def evenBits : Pred := 0x55555555555555555555555555555555

/-- `mask(w, p)` (R128). -/
def laneMask (w : Nat) (p : Pred) : Pred :=
  if w = 32 then (p &&& evenBits) ||| ((p &&& evenBits) <<< 1) else p

/-- The sub-lanes from `lo` up, `n` of them. -/
def subLanes (lo n : Nat) : Pred := BitVec.ofNat 128 ((2 ^ n - 1) * 2 ^ lo)

/-- A predicate with one bit per element of width 32 or 16 (R139). -/
def predOf (w : Nat) (l : List Bool) : Pred :=
  BitVec.ofNat 128 (joinElems (w / 16) (l.map fun b => if b then 2 ^ (w / 16) - 1 else 0))

/-! ### Floating point (R134 to R144) -/

/-- The bits of an operand after flushing (R90, R134): `fin` as an encoding. -/
def flushBits (f : Fmt) (ftz : Bool) (bits : Nat) : Nat :=
  if ftz && isSubnormal f bits then signBit f (decide (bits / 2 ^ (f.width - 1) % 2 = 1)) else bits

/-- x < y for values that are no NaN, with -0 equal to +0. -/
def xLt (x y : XVal) : Bool :=
  match x, y with
  | .inf a, .inf b => a && !b
  | .inf a, _ => a
  | _, .inf b => !b
  | .zero _, .zero _ => false
  | .zero _, .fin b _ _ _ => !b
  | .fin a _ _ _, .zero _ => a
  | .fin a m e _, .fin b n g _ =>
    let lo := min e g
    decide (scaledTo a m e lo < scaledTo b n g lo)
  | _, _ => false

def xNegative (x : XVal) : Bool :=
  match x with
  | .inf n | .zero n | .fin n _ _ _ => n
  | _ => false

/-- The order of `vmin` and `vmax`: -0 below +0 (R137). -/
def xBelow (x y : XVal) : Bool :=
  match x, y with
  | .zero a, .zero b => a && !b
  | _, _ => xLt x y

/-- `vmin` or `vmax` of one pair (R137). -/
def fpMinMax (isMax : Bool) (level ty a b : Nat) : Nat :=
  let f := fmtOf ty
  let raw := [val f a, val f b]
  match firstNan raw with
  | some _ => nanPick level raw f
  | none =>
    let z := ftzOf level ty
    let below := xBelow (finVal f z a) (finVal f z b)
    let first := if isMax then !below else below
    flushBits f z (if first then a else b)

/-- `vabs` or `vneg` of one element (R138). -/
def fpSign (neg : Bool) (level ty a : Nat) : Nat :=
  let f := fmtOf ty
  let u := match val f a with
    | .nan n => nanPick level [.nan n] f
    | _ => flushBits f (ftzOf level ty) a
  let top := 2 ^ (f.width - 1)
  let sign := if neg then 1 - a / top % 2 else 0
  u % top + sign * top

/-- One condition of `vcmp` on values (R139). -/
def fpCond (cc level ty a b : Nat) : Bool :=
  let f := fmtOf ty
  match firstNan [val f a, val f b] with
  | some _ => cc == 1
  | none =>
    let x := finVal f (ftzOf level ty) a
    let y := finVal f (ftzOf level ty) b
    let lt := xLt x y
    let gt := xLt y x
    match cc with
    | 0 => !lt && !gt
    | 1 => lt || gt
    | 2 => lt
    | 3 => !gt
    | 4 => gt
    | _ => !lt

/-- `vclass` of one element (R140). -/
def fpClass (ty a : Nat) : Nat :=
  let f := fmtOf ty
  match val f a with
  | .inf true => 1
  | .inf false => 128
  | .zero true => 8
  | .zero false => 16
  | .nan n => if n.quiet then 512 else 256
  | .invalid => 512
  | .fin neg _ _ _ =>
    match isSubnormal f a, neg with
    | true, true => 4
    | true, false => 32
    | false, true => 2
    | false, false => 64

/-- `vrnd` of one element (R141). -/
def fpRnd (level ty : Nat) (rm : Rm) (a : Nat) : Nat :=
  let f := fmtOf ty
  match val f a with
  | .nan n => nanPick level [.nan n] f
  | .inf _ => a
  | _ =>
    match finVal f (ftzOf level ty) a with
    | .fin neg m e st =>
      if e ≥ 0 then a
      else
        let n := roundInt (-(2 ^ 64)) (2 ^ 64) rm (.fin neg m e st)
        if n = 0 then signBit f neg else roundFp f .rne false false (xOfInt n)
    | x => signBit f (xNegative x)

/-- `vscale` of one element (R142). -/
def fpScale (level ty : Nat) (rm : Rm) (sat : Bool) (a b : Nat) : Nat :=
  let f := fmtOf ty
  match val f a with
  | .nan n => nanPick level [.nan n] f
  | _ =>
    let x := match finVal f (ftzOf level ty) a with
      | .fin neg m e st => XVal.fin neg m (e + signed f.width b) st
      | x => x
    roundFp f rm sat (ftzOf level ty) x

/-- The range of an integer type (R78). -/
def intRange (ty : Nat) : Int × Int :=
  let w := tyWidth ty
  if ty < 8 then (-(2 ^ (w - 1)), 2 ^ (w - 1) - 1) else (0, 2 ^ w - 1)
/-- An element read as its integer type (R145). -/
def intOf (ty a : Nat) : Int := if ty < 8 then signed (tyWidth ty) a else (a % 2 ^ tyWidth ty : Nat)
/-- An integer wrapped to a width. -/
def wrapInt (w : Nat) (n : Int) : Nat := (n % 2 ^ w).toNat
def clampInt (ty : Nat) (n : Int) : Int := let r := intRange ty; min (max n r.1) r.2

/-- `cvt` of one element (R143). -/
def cvtElem (level ty fn : Nat) (rm : Rm) (sat : Bool) (a : Nat) : Nat :=
  match tyIsFloat ty, tyIsFloat fn with
  | true, true =>
    match val (fmtOf ty) a with
    | .nan n => nanPick level [.nan n] (fmtOf fn)
    | _ =>
      let rm := if level = 1 ∧ ty = 0 ∧ fn = 1 then .rz else rm
      roundFp (fmtOf fn) rm sat (ftzOf level fn) (finVal (fmtOf ty) (ftzOf level ty) a)
  | true, false =>
    let r := intRange fn
    wrapInt (tyWidth fn) (roundInt r.1 r.2 rm (finVal (fmtOf ty) (ftzOf level ty) a))
  | false, true => roundFp (fmtOf fn) rm sat (ftzOf level fn) (xOfInt (intOf ty a))
  | false, false => wrapInt (tyWidth fn) (clampInt fn (intOf ty a))

/-- The FP32 leaf of a reduction (R144). -/
def redLeaf (level ty a : Nat) : Nat :=
  match val (fmtOf ty) a with
  | .nan n => nanPick level [.nan n] fmtF32
  | _ => roundFp fmtF32 .rne false false (finVal (fmtOf ty) (ftzOf level ty) a)

/-- One level of the fixed tree: neighbours combined (R144). -/
def pairUp (comb : Nat → Nat → Nat) : List (Option Nat) → List (Option Nat)
  | a :: b :: r =>
    (match a, b with
      | some u, some v => some (comb u v)
      | some u, none => some u
      | none, v => v) :: pairUp comb r
  | l => l
/-- The fixed tree over at most 2^fuel elements. -/
def treeReduce (comb : Nat → Nat → Nat) : (fuel : Nat) → List (Option Nat) → Option Nat
  | 0, l => l.headD none
  | f + 1, l => treeReduce comb f (pairUp comb l)

/-- The selected elements of a reduction. -/
def selected (g : Pred) (w : Nat) (l : List Nat) : List (Option Nat) :=
  (List.range l.length).map fun i => if selLane g i w then l[i]? else none

/-- `vredsum` (R144). -/
def redSum (level ty : Nat) (rm : Rm) (sat : Bool) (g : Pred) (l : List Nat) : Nat :=
  let w := tyWidth ty
  let xs := selected g w l
  if ty = 5 then
    let sum : Int := (xs.filterMap id).foldl (fun a e => a + signed 32 e) 0
    wrapInt 32 (if sat then clampInt 5 sum else sum)
  else
    (treeReduce (fun u v => fpElem .add level 0 rm false [u, v]) 8 (xs.map fun o => o.map (redLeaf level ty))).getD 0

/-- `vredmax` and `vredmin` (R144). -/
def redMinMax (isMax : Bool) (level ty : Nat) (g : Pred) (l : List Nat) : Nat :=
  let w := tyWidth ty
  let xs := selected g w l
  if tyIsFloat ty then
    (treeReduce (fpMinMax isMax level 0) 8 (xs.map fun o => o.map (redLeaf level ty))).getD
      (if isMax then 0xFF800000 else 0x7F800000)
  else
    let r := intRange ty
    wrapInt 32 ((xs.filterMap id).foldl (fun a e => if isMax then max a (intOf ty e) else min a (intOf ty e))
      (if isMax then r.1 else r.2))

/-! ### Integers (R145) -/

def intArith (f : Int → Int → Int) (ty : Nat) (sat : Bool) (a b : Nat) : Nat :=
  let y := f (intOf ty a) (intOf ty b)
  wrapInt (tyWidth ty) (if sat then clampInt ty y else y)

def intShift (kind ty a n : Nat) : Nat :=
  let w := tyWidth ty
  match kind with
  | 0 => if n < w then a * 2 ^ n % 2 ^ w else 0
  | 1 => if n < w then a / 2 ^ n else 0
  | _ => wrapInt w (signed w a / 2 ^ (min n w))

/-! ### Permutes (R146) -/

/-- `vcompress`: the selected elements at the bottom, zeros above. -/
def compressElems (p : Pred) (w : Nat) (l : List Nat) : List Nat :=
  let xs := (selected p w l).filterMap id
  xs ++ List.replicate (l.length - xs.length) 0
/-- `vexpand`: consecutive elements at the selected positions, zeros elsewhere. -/
def expandElems (p : Pred) (w : Nat) : (i n : Nat) → List Nat → List Nat
  | _, 0, _ => []
  | i, n + 1, l =>
    if selLane p i w then l.headD 0 :: expandElems p w (i + 1) n l.tail else 0 :: expandElems p w (i + 1) n l

/-- Elements of two lists in turn. -/
def interleave : List Nat → List Nat → List Nat
  | a :: r, b :: t => a :: b :: interleave r t
  | _, _ => []
/-- Every second element, from the first or the second. -/
def everyOther : List Nat → List Nat
  | a :: _ :: r => a :: everyOther r
  | l => l

/-! ### Quantisation (R148, R149) -/

/-- One group of `vgmax`: the first NaN picked, or the greatest magnitude, in FP32 (R148). -/
def groupMax (level ty : Nat) (xs : List Nat) : Nat :=
  let f := fmtOf ty
  let raw := xs.map (val f)
  match firstNan raw with
  | some _ => nanPick level raw fmtF32
  | none =>
    let mags := xs.map fun a =>
      (redLeaf level ty a) % 2 ^ 31
    -- Encodings of non-negative FP32 values are ordered as their values.
    mags.foldl max 0

/-- One element of `vqnt` (R149). -/
def qntElem (level ty fn : Nat) (rm : Rm) (sat : Bool) (a y : Nat) : Nat :=
  let raw := [val (fmtOf ty) a, val fmtF32 y]
  match firstNan raw with
  | some _ => if fn = 7 then 0 else nanPick level raw (fmtOf fn)
  | none =>
    match xMul (finVal (fmtOf ty) (ftzOf level ty) a) (finVal fmtF32 (ftzOf level 0) y) with
    | .invalid => if fn = 7 then 0 else canonNan (fmtOf fn)
    | z => if fn = 7 then wrapInt 8 (roundInt (-128) 127 rm z) else roundFp (fmtOf fn) rm sat false z

end Sys2Proof.Machine
end

