-- ==== Sys2Proof/Machine/Pages.lean ====
section
/-! DEFINITION. The register pages as they read: a die's control page, a context's control page (R255), the registers of a
virtual function (R305) and BAR 0 of the physical function (R35, R467, R468, R470). -/

namespace Sys2Proof.Machine

/-- A word from fields: value and lowest bit. -/
def packW : List (Nat × Nat) → Word
  | [] => 0
  | (v, lo) :: r => BitVec.ofNat 64 (v * 2 ^ lo) ||| packW r

def bit (b : Bool) : Nat := if b then 1 else 0

/-! ### Operations in flight under a value (R266) -/

def EngOp.gen : EngOp → Gen
  | .step _ _ g .. => g
  | .acc _ _ _ g => g
def TileOp.gen : TileOp → Gen
  | .write _ _ _ t => t.gen
  | .read _ _ g _ => g

/-- Operations in flight of a core stamped with a value. -/
def Core.inflt (k : Core) (g : Gen) : Nat :=
  (k.pp.lq.filter fun e => e.gen == g).length + (k.me.shp.filter fun e => e.2.2.2 == g).length +
  bit (k.mx.eng.elim false fun b => b.op.gen == g) + bit (k.mx.tst.elim false fun b => b.op.gen == g) +
  (k.chan.flatMap fun e => e.2.filter fun r => r.gen == g || r.held == g).length

/-- Operations in flight of a die stamped with a value: host writes in ingress buffers, and what guests hold. -/
def Die.inflt (d : Die) (g : Gen) : Nat :=
  (d.ingress.filter fun h => h.gen == g).length + (d.sock.writes.filter fun w => w.tagged && w.gen == g).length +
  (d.sock.pq.flatMap fun e => e.2.filter fun p => p.gen == g).length +
  ((d.sock.suspended ++ d.sock.resume).filter fun p => p.gen == g).length +
  (d.sock.slots.filter fun e => e.2.phase != .free && e.2.pkt.elim false fun p => p.gen == g).length

/-- INFLT of a value before it saturates (R265, R266). -/
def State.inflt (s : State) (g : Gen) : Nat :=
  (s.flights.filter fun f => f.gen == g && !f.written).length + (s.maints.filter fun m => m.gen == g).length +
  s.cores.foldl (fun n e => n + e.2.inflt g) 0 + s.dies.foldl (fun n e => n + e.2.inflt g) 0

/-! ### State codes -/

/-- STATE of CCTL (R253). -/
def CtxPhase.code : CtxPhase → Nat
  | .loaded => 1 | .ready => 2 | .running => 3 | .parkedYield => 4 | .parkedState => 5 | .halted => 6
/-- STATE of QSTAT (R304). -/
def QPhase.code : QPhase → Nat
  | .unbound => 0 | .stopped => 1 | .idle => 2 | .pending => 3 | .launched => 4 | .fenced => 5
/-- STATE of LSTAT (R415). -/
def PortPhase.code : PortPhase → Nat
  | .down => 0 | .training => 1 | .up => 2 | .held => 3 | .contained => 4
/-- STATE of GSSTAT (R449). -/
def SockPhase.code : SockPhase → Nat
  | .down => 0 | .training => 1 | .up => 2 | .fenced => 3
/-- STATE of a claim slot as CLSREC shows it (R437). -/
def ClaimPhase.code : ClaimPhase → Nat
  | .pending => 1 | .beaten => 2 | .objected => 3

/-! ### A die's control page -/

def State.port (s : State) (d p : Nat) : Port := SMap.get .reset (s.die d).ports p
def State.setPort (s : State) (d p : Nat) (x : Port) : State :=
  s.modDie d fun y => { y with ports := SMap.set .reset y.ports p x }
def State.modPort (s : State) (d p : Nat) (f : Port → Port) : State := s.setPort d p (f (s.port d p))
def State.tl (s : State) (d i : Nat) : Timeline := SMap.get .reset (s.die d).tls i
def State.setTl (s : State) (d i : Nat) (x : Timeline) : State :=
  s.modDie d fun y => { y with tls := SMap.set .reset y.tls i x }
def State.modSock (s : State) (d : Nat) (f : Socket → Socket) : State := s.modDie d fun y => { y with sock := f y.sock }

/-- LSTAT (R415). -/
def Port.lstat (p : Port) : Word :=
  packW [(p.ifail, 16), (bit p.err, 11), (p.stest, 8), (bit p.kexh, 7), (bit p.kdue, 6), (bit p.nxt.isSome, 5),
    (bit p.wdog, 4), (p.phase.code, 0)]

/-- A register of a port's block (R415). -/
def Port.regRead (p : Port) (off : Nat) : Word :=
  match off with
  | 0x00 => p.lstat
  | 0x08 => BitVec.ofNat 64 p.cmd
  | 0x10 => packW [(p.epoch.toNat, 48), (p.count.toNat, 0)]
  | 0x18 => p.lswt
  | _ => 0

/-- QSTAT (R300). -/
def Queue.qstat (q : Queue) : Word :=
  packW [(bit q.mismatch, 11), (bit q.dirty, 10), (bit q.err, 9), (q.rank, 4), (q.phase.code, 0)]

/-- A register of a queue at the die that serves it (R300). -/
def Queue.regRead (q : Queue) (off : Nat) : Word :=
  match off with
  | 0x00 => setField q.qcba 0 4 q.cmd
  | 0x08 => q.qstat
  | 0x10 => packW [(q.prod.toNat, 32), (q.cons.toNat, 0)]
  | _ => 0

/-- GVSTAT of a value as it reads (R265). -/
def State.gvRead (s : State) (v : Nat) : Word :=
  let w := SMap.get 0 s.gvstat v
  if 2 ≤ fieldOf w 0 3 then setField w 16 16 (min 0xFFFF (s.inflt (BitVec.ofNat 10 v))) else w

/-- FREE of TBSYNC: the die takes time from a port that is not Up (R421). -/
def State.tbFree (s : State) (d : Nat) : Bool :=
  let w := s.dctl d 0xB310
  !w.getLsbD 7 && (s.port d (fieldOf w 4 3)).phase != .up

/-- PCFG of a partition (R250). -/
def State.pcfg (s : State) (p : Nat) : Word := SMap.get pcfgReset s.parts p

/-- WHLMAP of a position as written last (R381). -/
def State.whlRead (s : State) (n : Nat) : Word :=
  match (s.whlNext.filter fun e => e.1 == n).getLast? with
  | some e => e.2.1
  | none => SMap.get 0 s.whlmap n

/-- A word of a claim group's entry (R423). -/
def ClaimGroup.word (g : ClaimGroup) (i : Nat) : Word :=
  match i with
  | 0 => g.w0
  | 1 => g.w1
  | 2 => g.w2
  | _ => 0

/-- The next number a timeline counter shows as NEXT or DONE (R368). -/
def Timeline.regRead (t : Timeline) (off : Nat) : Word := BitVec.ofNat 64 (if off = 0 then t.next else t.done)

/-- GSSTAT (R449). -/
def Socket.gsstat (x : Socket) : Word :=
  packW [(x.fcode, 24), (bit x.fovf, 8), (bit x.err, 7), (x.phase.code, 0)]

/-- A die's control page read at an 8-byte aligned offset (R255); the RATE of a critical partition is 256 (R274). -/
def State.dieRead (s : State) (d off : Nat) : Word :=
  if off = 0x30 then setField (s.dctl d 0x30) 0 1 (bit (s.die d).throttled)
  else if off = 0x100 then s.gpool
  else if off = 0x108 then packW [(s.carder.passes.toNat, 32), (bit s.carder.active, 0)]
  else if 0x1000 ≤ off ∧ off < 0x3000 then s.gvRead ((off - 0x1000) / 8)
  else if 0x4000 ≤ off ∧ off < 0x5000 ∧ off % 0x40 = 0 then s.pcfg ((off - 0x4000) / 0x40)
  else if 0x4000 ≤ off ∧ off < 0x5000 ∧ off % 0x40 = 0x10 ∧ (s.pcfg ((off - 0x4000) / 0x40)).getLsbD 1 = true then
    setField (s.dctl d off) 0 9 256
  else if 0x6000 ≤ off ∧ off < 0x8000 then s.whlRead ((off - 0x6000) / 8)
  else if 0xB000 ≤ off ∧ off < 0xB180 then (s.port d ((off - 0xB000) / 0x40)).regRead (off % 0x40)
  else if off = 0xB310 then setField (s.dctl d off) 3 1 (bit (s.tbFree d))
  else if 0xE000 ≤ off ∧ off < 0xF000 then
    (SMap.get ClaimGroup.reset (s.die d).clgrp ((off - 0xE000) / 32)).word (off % 32 / 8)
  else if off = 0xF080 then (s.die d).clsidx.setWidth 64
  else if 0xF088 ≤ off ∧ off < 0xF0B0 then ((s.die d).clsrec[(off - 0xF088) / 8]?).getD 0
  else if off = 0xF200 then BitVec.ofNat 64 (s.die d).sock.cmd
  else if off = 0xF208 then (s.die d).sock.gsstat
  else if 0x10000 ≤ off ∧ off < 0x18000 then
    let q := s.queue ((off - 0x10000) / 0x20)
    if q.phase = .unbound ∨ q.die = d then q.regRead (off % 0x20) else 0
  else if 0x20000 ≤ off ∧ off < 0x30000 then (s.tl d ((off - 0x20000) / 16)).regRead (off % 16)
  else if 0x30000 ≤ off then
    if (s.die d).phase = .recovery then s.rawWord (locStage d (off - 0x30000)) else 0
  else s.dctl d off

/-! ### A context's control page -/

/-- OUT of a window (R200). -/
def Ctx.out (c : Ctx) (w : Nat) : Nat := SMap.get 0 c.outs w

/-- CSLICE of a context (R279): the counts of the group's first gang, running or parked. -/
def State.cslice (s : State) (id : Nat) (c : Ctx) : Word :=
  match c.parkedAt.find? fun e => e.1 == 0 with
  | some e => packW [(e.2.sleft, 32), (e.2.seq.runleft, 0)]
  | none =>
    match c.gangs.head? with
    | some p => let x := s.seq p.seq; if x.ctx = some id then packW [(x.sleft, 32), (x.runleft, 0)] else 0
    | none => 0

/-- A context's control page read at an 8-byte aligned offset (R255). -/
def State.ctxRead (s : State) (x off : Nat) : Word :=
  match s.ctx? x with
  | none => 0
  | some c =>
    if off = 0 then packW [(x, 32), (c.phase.code, 29)]
    else if 0x100 ≤ off ∧ off < 0x200 ∧ off % 16 = 8 then setField (c.ctl off) 8 8 (c.out ((off - 0x100) / 16))
    else if off = 0x318 then s.cslice x c
    else if off = 0x320 then c.savectr
    else if off = 0x340 then setField (setField (c.ctl off) 16 4 c.ndie) 0 11 c.ncore
    else c.ctl off

/-! ### Host functions -/

/-- The registers of a virtual function (R305). -/
def State.vfRead (s : State) (p off : Nat) : Word :=
  let v := s.vf p
  match off with
  | 0x100 => v.evcfg
  | 0x108 => v.evhead.setWidth 64
  | 0x110 => v.evtail.setWidth 64
  | 0x118 => v.hwdisc.setWidth 64
  -- The value in force: that of the lowest present die, where system mode has made the dies differ (log entry 81).
  | 0x120 => (allDies.find? s.present).elim 0 fun d => setField 0 8 5 (fieldOf (s.dctl d (0x4000 + 0x40 * p + 8)) 8 5)
  | _ => 0

/-- A mask of the dies that meet a condition. -/
def dieMask (p : Nat → Bool) : Nat := allDies.foldl (fun m d => if p d then m + 2 ^ d else m) 0

/-- PKGID (R35). -/
def State.pkgid (s : State) : Word :=
  packW [(0x0801, 48), (0x03, 40), (0x01, 32), (dieMask s.present, 24), (0x0A, 16), (0x10, 8), (0x4, 4)]

/-- FWSTAT (R467). -/
def State.fwstat (s : State) : Word :=
  packW [(s.fuses.fwctr % 256, 56), (s.svn % 256, 48), (s.fuses.lcs, 8), (dieMask (fun d => (s.die d).phase == .recovery), 0)]

/-- BAR 0 of the physical function read at an 8-byte aligned offset. A life-cycle command runs whole here, so GO reads 0. -/
def State.pfRead (s : State) (off : Nat) : Word :=
  if off = 0 then s.pkgid
  else if off = 0x18 then s.fwstat
  else if off = 0x20 then packW [(s.lcResult, 8)]
  else if off = 0x28 then Config.pkguid
  else if off = 0x100 then s.pfEv.evcfg
  else if off = 0x108 then s.pfEv.evhead.setWidth 64
  else if off = 0x110 then s.pfEv.evtail.setWidth 64
  else if 0x8000 ≤ off ∧ off < 0x10000 then s.rawWord (locLcblk (off - 0x8000))
  else if 0x100000 ≤ off ∧ off < 0x300000 then s.dieRead ((off - 0x100000) / 0x40000) (off % 0x40000)
  else if 0x10000000 ≤ off ∧ off < 0x20000000 then s.ctxRead ((off - 0x10000000) / 0x1000) (off % 0x1000)
  else 0

/-- A register page read at an 8-byte aligned offset. -/
def State.pageRead (s : State) (p : RegPage) (off : Nat) : Word :=
  match p with
  | .pf => s.pfRead off
  | .vf n => s.vfRead n off
  | .die d => s.dieRead d off
  | .ctx x => s.ctxRead x off

/-! ### Register pages as locations -/

/-- A byte of a register page as the location of an access. -/
def locPage (p : RegPage) (off : Nat) : Nat :=
  match p with
  | .pf => 2 ^ 84 + off
  | .vf n => 2 ^ 85 + n * 2 ^ 20 + off
  | .die d => 2 ^ 86 + d * 2 ^ 20 + off
  | .ctx x => 2 ^ 87 + x * 2 ^ 20 + off

/-- The register page and offset of a location. -/
def pageAt (loc : Nat) : Option (RegPage × Nat) :=
  if loc < 2 ^ 84 ∨ 2 ^ 88 ≤ loc then none
  else if loc < 2 ^ 85 then some (.pf, loc - 2 ^ 84)
  else if loc < 2 ^ 86 then some (.vf ((loc - 2 ^ 85) / 2 ^ 20), (loc - 2 ^ 85) % 2 ^ 20)
  else if loc < 2 ^ 87 then some (.die ((loc - 2 ^ 86) / 2 ^ 20), (loc - 2 ^ 86) % 2 ^ 20)
  else some (.ctx ((loc - 2 ^ 87) / 2 ^ 20), (loc - 2 ^ 87) % 2 ^ 20)

/-- The bytes of a register page from an offset on (R180: an access reads the bytes it names). -/
def State.pageBytes (s : State) (p : RegPage) (off n : Nat) : List Byte :=
  (upFrom off n).map fun i => ((s.pageRead p (i / 8 * 8)) >>> (8 * (i % 8))).setWidth 8

/-- Bytes at a location, of memory under a generation or of a register page. -/
def State.fetchBytes (s : State) (a : Acc) (loc n : Nat) : List Byte :=
  match pageAt loc with
  | some (p, off) => s.pageBytes p off n
  | none => s.readBytes a loc n

end Sys2Proof.Machine
end

