-- ==== Sys2Proof/Machine/Matrix.lean ====
section
/-! DEFINITION. The matrix slot (R153 to R177, R477) and the arithmetic of its steps (R91 to R101). -/

namespace Sys2Proof.Machine

/-! ### Format entries (R91 to R94) -/

def fmtWt (e : QWord) : Nat := e.toNat % 8
def fmtAt (e : QWord) : Nat := e.toNat / 2 ^ 8 % 4
def fmtScl (e : QWord) : Nat := e.toNat / 2 ^ 10 % 4
def fmtOut (e : QWord) : Nat := e.toNat / 2 ^ 12 % 4
def fmtOsat (e : QWord) : Bool := e.getLsbD 14
def fmtAct (e : QWord) : Nat := e.toNat / 2 ^ 15 % 4
def fmtOrm (e : QWord) : Rm := Rm.ofCode (e.extractLsb' 17 2)
def fmtAexp (e : QWord) : Int := signed 8 (e.toNat / 2 ^ 24)

/-- Cycles of a step (R92). -/
def stepTime (e : QWord) : Nat := if fmtWt e = 0 ∧ fmtAt e = 0 then 4 else 2
/-- Bytes of an activation operand over κ positions of K (R155). -/
def actBytes (e : QWord) (κ : Nat) : Nat := if fmtAt e = 0 then 64 * κ else 32 * κ
/-- Bytes of a weight operand (R155). -/
def wtBytes (e : QWord) : Nat :=
  match fmtWt e with
  | 0 => 2048
  | 1 | 2 => 1024
  | 3 => 512
  | _ => 384

/-- The binding of a context: FBIND where the context owns it or has set it since its last yield, and its reset value elsewhere (R94,
R168, R282). -/
def MatrixRegs.binding (m : MatrixRegs) (x : Nat) : Word :=
  if accOwner m.accown = x ∨ m.fbOf = some x then m.fbind else MatrixRegs.reset.fbind

/-- The entry an operation selects at issue (R94). -/
def State.fmtSel (s : State) (q c : Nat) : QWord :=
  let k := s.core c
  let w := k.mx.binding (s.ctxIdOf q)
  let b := fieldOf w 8 4
  let n := fieldOf w 3 5
  let i := s.loopIndex q c (fieldOf w 0 3)
  k.readF (s.genOf q) ((b + i % max n 1) % 16)

/-! ### Bobbins (R153, R154) -/

def bobBase (b : QWord) : Nat := b.toNat / 2 ^ 112 % 2 ^ 13
def bobSize (b : QWord) : Nat := b.toNat / 2 ^ 98 % 2 ^ 14
def bobClaim (b : QWord) : Nat := b.toNat / 2 ^ 80 % 2 ^ 13
def bobTail (b : QWord) : Nat := b.toNat / 2 ^ 32 % 2 ^ 32
def bobHead (b : QWord) : Nat := b.toNat % 2 ^ 32
/-- A descriptor from its fields. -/
def bobPack (base size claim tail head : Nat) : QWord :=
  BitVec.ofNat 128 (base % 2 ^ 13 * 2 ^ 112 + size % 2 ^ 14 * 2 ^ 98 + claim % 2 ^ 13 * 2 ^ 80 + tail % 2 ^ 32 * 2 ^ 32 +
    head % 2 ^ 32)
def bobFill (b : QWord) : Nat := (bobTail b + 2 ^ 33 - bobHead b - bobClaim b) % 2 ^ 32
def bobSetClaim (b : QWord) (n : Nat) : QWord := bobPack (bobBase b) (bobSize b) n (bobTail b) (bobHead b)
def bobSetTail (b : QWord) (n : Nat) : QWord := bobPack (bobBase b) (bobSize b) (bobClaim b) n (bobHead b)
def bobPop (b : QWord) (n : Nat) : QWord := bobPack (bobBase b) (bobSize b) 0 (bobTail b) (bobHead b + n)

/-- A descriptor register written under a generation. -/
def Core.setB (k : Core) (g : Gen) (n : Nat) (v : QWord) : Core :=
  { k with me := { k.me with b := SMap.set (Reg.wiped 128) k.me.b n (Reg.of v g) } }

/-- `n` bytes of a ring from a ring count on (R154), as the generation reads them. -/
def State.ringBytes (s : State) (c : Nat) (g : Gen) (b : QWord) (from_ n : Nat) : List Byte :=
  let cap := 256 * bobSize b
  (List.range n).map fun i =>
    s.readByte { gen := g, tagged := true, part := none } (locSpad c (256 * bobBase b + (from_ + i) % max cap 1))

/-- The operand a step takes from a ring: its bytes from HEAD + CLAIM (R161). -/
def State.stepOperand (s : State) (c : Nat) (g : Gen) (r n : Nat) : List Byte :=
  let b := (s.core c).readB g r
  s.ringBytes c g b (bobHead b + bobClaim b) n

/-! ### Step arithmetic (R95 to R100) -/

/-- An activation's bits and format (R155). -/
def actVal (e : QWord) (a : Nat) (n : Nat) : Nat :=
  if fmtAt e = 0 then a / 2 ^ (16 * n) % 2 ^ 16 else a / 2 ^ (8 * n) % 2 ^ 8
def actX (e : QWord) (bits : Nat) : XVal := val (match fmtAt e with | 0 => fmtBf16 | 1 => fmtE4m3 | _ => fmtE5m2) bits

/-- A weight's exact value: element n of its stream (R81, R155). -/
def wtX (e : QWord) (w n : Nat) : XVal :=
  match fmtWt e with
  | 0 => val fmtBf16 (w / 2 ^ (16 * n) % 2 ^ 16)
  | 1 => val fmtE4m3 (w / 2 ^ (8 * n) % 2 ^ 8)
  | 2 => val fmtE5m2 (w / 2 ^ (8 * n) % 2 ^ 8)
  | 3 => xOfInt (signed 4 (w / 2 ^ (4 * n)))
  | _ => xOfInt (signed 3 (w / 2 ^ (3 * n)))

/-- Element (i, j) of a tile. -/
def tileAt (t : Tile) (i j : Nat) : Nat := t.toNat / 2 ^ (32 * (32 * i + j)) % 2 ^ 32
/-- A tile from a function of row and column. -/
def tileOf (f : (i j : Nat) → Nat) : Tile :=
  BitVec.ofNat 32768 (joinElems 32 ((List.range 1024).map fun n => f (n / 32) (n % 32)))

/-- floor(log2 |p|) of a finite value that is not zero. -/
def xExp : XVal → Int
  | .fin _ m e _ => e + Nat.log2 m
  | _ => 0

/-- sign(p) × floor(|p| / 2^u). -/
def xTrunc (u : Int) : XVal → Int
  | .fin neg m e _ =>
    let n : Nat := if u ≤ e then m * 2 ^ (e - u).toNat else m / 2 ^ (u - e).toNat
    if neg then -(n : Int) else n
  | _ => 0

def xIsInf : XVal → Option Bool
  | .inf n => some n
  | _ => none
def xIsZero : XVal → Bool
  | .zero _ => true
  | _ => false

/-- `group_add` of R99: the element `t`, the pairs of activation and weight that are not pruned, and σ. -/
def groupAdd (level : Nat) (sigma : Option XVal) (t : Nat) (ps : List (XVal × XVal)) : Nat :=
  let f := fmtF32
  let aftz := decide (level ≤ 2)
  let l := val f t :: ps.flatMap fun p => [p.1, p.2]
  match firstNan l, sigma with
  | some _, _ => nanPick level l f
  | none, none => canonNan f
  | none, some sg =>
    let x := finVal f aftz t
    let p := ps.map fun p => xMul (xMul p.1 p.2) sg
    if p.any fun v => v == .invalid then canonNan f
    else
      let infs := (x :: p).filterMap xIsInf
      match infs with
      | b :: _ => if infs.all fun a => a == b then encInf f b else canonNan f
      | [] =>
        match p.filter fun v => !xIsZero v with
        | [] => roundFp f .rne false false x
        | v :: r =>
          let u := (r.foldl (fun m w => max m (xExp w)) (xExp v)) - 40
          let n := p.foldl (fun a w => a + xTrunc u w) 0
          let y := if n = 0 then (match x with | .zero _ => .zero false | x => x)
            else xAdd .rne x (.fin (decide (n < 0)) n.natAbs u false)
          match y with
          | .zero _ => 0
          | y => roundFp f .rne false aftz y

/-- σ_j of a column (R95 to R97): none when invalid. `sc` holds the column's GS16 values, or none without scales. -/
def sigmaOf (e : QWord) (sc : Option Nat) (j : Nat) : Option XVal :=
  match sc with
  | none => some (.fin false 1 (fmtAexp e) false)
  | some v => gs16 (v / 2 ^ (16 * j) % 2 ^ 16) (fmtAexp e)

/-- One half of a step over 32 dense positions from `k0` on: `rows k` is the weight row of position k, none where pruned. -/
def stepHalf (level : Nat) (e : QWord) (κ a w : Nat) (rows : Nat → Option Nat) (k0 : Nat) (sc : Option Nat) (t : Tile) : Tile :=
  let g := if level = 1 then 16 else 32
  tileOf fun i j =>
    let sg := sigmaOf e sc j
    (List.range (32 / g)).foldl (fun acc b =>
      groupAdd level sg acc ((upFrom (k0 + b * g) g).filterMap fun k =>
        (rows k).map fun r => (actX e (actVal e a (κ * i + k)), wtX e w (32 * r + j)))) (tileAt t i j)

/-- The weight row that stands at dense position k under a metadata word (R165). -/
def keptRow (m : Word) (k : Nat) : Option Nat :=
  let nib := m.toNat / 2 ^ (4 * (k / 4)) % 16
  if nib % 4 = k % 4 then some (2 * (k / 4))
  else if nib / 4 = k % 4 then some (2 * (k / 4) + 1)
  else none

/-- The metadata word is legal: every nibble has lo below hi (R165). -/
def metaOk (m : Word) : Bool := (List.range 16).all fun n => let nib := m.toNat / 2 ^ (4 * n) % 16; decide (nib % 4 < nib / 4)

/-- `m.acc` on one element (R170). -/
def accElem (level a b : Nat) : Nat :=
  let f := fmtF32
  match firstNan [val f a, val f b] with
  | some _ => nanPick level [val f a, val f b] f
  | none =>
    let ftz := decide (level ≤ 2)
    match xAdd .rne (finVal f ftz a) (finVal f ftz b) with
    | .invalid => canonNan f
    | y => roundFp f .rne false ftz y

/-- The output conversion of one element (R101). -/
def outElem (level : Nat) (e : QWord) (v : Nat) : Nat :=
  let x := val fmtF32 v
  let out := match fmtOut e with | 0 => fmtF32 | 1 => fmtBf16 | 2 => fmtE4m3 | _ => fmtE5m2
  let ftz := decide (level ≤ 2 ∧ fmtOut e ≤ 1)
  let rm := if level = 1 ∧ fmtOut e = 1 then .rz else fmtOrm e
  match x with
  | .nan n => if level = 1 then canonNan out else encNanFrom out n
  | x =>
    let below := match x with
      | .inf n | .zero n | .fin n _ _ _ => n
      | _ => false
    roundFp out rm (fmtOsat e) ftz (if fmtAct e = 1 && below then .zero false else x)

def outBytes (e : QWord) : Nat := match fmtOut e with | 0 => 4 | 1 => 2 | _ => 1

/-- The bytes `m.st` writes (R173). -/
def storeBytes (level : Nat) (e : QWord) (t : Tile) : List Byte :=
  (List.range 1024).flatMap fun n => bytesOfWord (outBytes e) (outElem level e (tileAt t (n / 32) (n % 32)))

/-- A tile as its 4096 bytes and back (R177). -/
def tileBytes (t : Tile) : List Byte := (List.range 1024).flatMap fun n => bytesOfWord 4 (tileAt t (n / 32) (n % 32))

/-! ### The metadata read (R164, R165) -/

/-- What a read by the sequencer gives. -/
inductive SeqRead where
  | ok (w : Word)
  | fault (cause : Nat)
  | hold
  deriving DecidableEq, Repr

/-- The metadata word for the bundle at issue. -/
def State.metaRead (s : State) (q : Nat) : SeqRead :=
  let x := s.seq q
  match x.mword with
  | some w => .ok w
  | none =>
    let g := s.genOf q
    let va := (x.mpc.read g).toNat
    if va < 2 ^ 32 then .fault cXLATE
    else
      match s.resolve q (s.lead q) .read (q * 1024 + 2) (BitVec.ofNat 64 va) with
      | .fault c => .fault c
      | .hold => .hold
      | .ok (.mem loc tagged) =>
        let a : Acc := { gen := g, tagged := tagged, part := none }
        if s.meetsPend loc 8 then .hold
        else if s.readsPoison a loc 8 then .fault cPOISON
        else .ok (wordOf (s.readBytes a loc 8))
      | .ok (.reg p off) => .ok (s.pageRead p off)
      | .ok _ => .fault cXLATE

/-- The place in memory of the metadata word. -/
def State.metaLoc (s : State) (q : Nat) : Option Nat :=
  let va := ((s.seq q).mpc.read (s.genOf q)).toNat
  if va < 2 ^ 32 then none
  else
    match s.resolve q (s.lead q) .read (q * 1024 + 2) (BitVec.ofNat 64 va) with
    | .ok (.mem loc _) => some loc
    | _ => none

/-- The metadata word is read when its bundle first stands at issue, and kept while it stands there (R165). -/
def State.keepMeta (s : State) (q : Nat) : State :=
  if (s.seq q).mword.isSome then s
  else
    let s := (s.metaLoc q).elim s fun loc => s.meetErrors (s.genOf q) loc 8
    match s.metaRead q with
    | .ok w => s.modSeq q fun x => { x with mword := some w }
    | _ => s

/-! ### Ownership (R175, R176) -/

/-- ACCFIRST of an operation that uses the matrix state (R176). -/
def State.accFirst (s : State) (q c : Nat) : Option Bad :=
  let w := (s.core c).mx.accown
  if !(s.seq q).sys && accArm w && decide (accOwner w ≠ s.ctxIdOf q) then some (Bad.of cACCFIRST) else none

/-- LIVE, SQ and FB set by a context that owns the state (R175). -/
def MatrixRegs.live (m : MatrixRegs) (id t : Nat) : MatrixRegs :=
  if accOwner m.accown = id then { m with accown := setField m.accown (8 + t) 1 1 } else m
def MatrixRegs.usedSq (m : MatrixRegs) (id : Nat) : MatrixRegs :=
  if accOwner m.accown = id then { m with accown := setField m.accown 1 1 1 } else m
def MatrixRegs.usedFb (m : MatrixRegs) (id : Nat) : MatrixRegs :=
  if accOwner m.accown = id then { m with accown := setField m.accown 0 1 1 } else m

/-- A tile written under a generation. -/
def MatrixRegs.setT (m : MatrixRegs) (g : Gen) (t : Nat) (v : Tile) : MatrixRegs :=
  { m with t := SMap.set (Reg.wiped 32768) m.t t (Reg.of v g) }

/-! ### Busy bits and stalls (R159, R160) -/

/-- A tile is busy (R159). -/
def MatrixRegs.busy (m : MatrixRegs) (t : Nat) : Bool :=
  (match m.eng with
   | some { op := .step td .., .. } => td == t
   | some { op := .acc td ts .., .. } => td == t || ts == t
   | none => false) ||
  (match m.tst with
   | some { op := .write ts .., .. } => ts == t
   | some { op := .read td .., .. } => td == t
   | none => false)

/-- The bytes of the own scratchpad that a running tile-store operation touches: offset and length (R173, R177). -/
def MatrixRegs.tstBytes (m : MatrixRegs) : Option (Nat × Nat) :=
  m.tst.map fun b =>
    match b.op with
    | .write _ off bytes _ => (off, bytes.length)
    | .read _ off .. => (off, 4096)

/-- An access of the own scratchpad meets bytes of a running tile-store operation (R173). -/
def State.tstMeets (s : State) (c off n : Nat) : Bool :=
  (s.core c).mx.tstBytes.elim false fun t => decide (off < t.1 + t.2 ∧ t.1 < off + n)

/-- Whether tiles or a unit hold a bundle. -/
def tileWait (tiles : List Nat) (unit : MatrixRegs → Bool) : State → Nat → Nat → Wait := fun s _ c =>
  let m := (s.core c).mx
  if (tiles.any m.busy) || unit m then .uncounted else .none

/-! ### Steps (R161 to R167) -/

/-- Scale-queue entries a step needs (R161). -/
def scaleNeed (e : QWord) (sparse half : Bool) : Nat :=
  if fmtScl e ≠ 1 then 0 else if sparse && half then 2 else 1

/-- An `l.scl` of the core is outstanding (R166). -/
def State.sclOut (s : State) (c : Nat) : Bool := s.flights.any fun f => f.core == c && decide (f.op = .scl)

/-- The value of a scale-queue entry under a generation (R161). -/
def ScaleEntry.read (e : ScaleEntry) (g : Gen) : Nat := if e.tag.is g then e.val.toNat else 0

/-- Operand sizes of a step (R155). -/
def stepKappa (sparse : Bool) : Nat := if sparse then 64 else 32

/-- The ILLOP of R161, then for `m.mms` the metadata word (R477 items 1 to 3). -/
def State.stepAlways (s : State) (sparse : Bool) (x : LayMma) (q c : Nat) : Option Bad :=
  let e := s.fmtSel q c
  let g := s.genOf q
  let ba := (s.core c).readB g x.ba.toNat
  let bw := (s.core c).readB g x.bw.toNat
  if bobSize ba = 0 ∨ bobSize bw = 0 ∨ 256 * bobSize ba < actBytes e (stepKappa sparse) ∨ 256 * bobSize bw < wtBytes e
      ∨ (fmtScl e = 2 ∧ x.v = 0) then some (Bad.of cILLOP)
  else if sparse then
    match s.metaRead q with
    | .fault cause => some (Bad.of cause)
    | .ok w => if metaOk w then none else some (Bad.of cILLOP)
    | .hold => none
  else none

/-- ACCFIRST, QIMB and POISON (R477 items 4 to 6), not decided while the metadata word is awaited. `scl` says that the bundle holds an
`l.scl` that acts on the core and has not left yet. -/
def State.stepCheck (s : State) (sparse scl : Bool) (q c : Nat) : Option Bad :=
  let e := s.fmtSel q c
  let m := (s.core c).mx
  let need := scaleNeed e sparse m.half
  if sparse && s.metaRead q == .hold then none
  else match s.accFirst q c with
  | some b => some b
  | none =>
    if m.scq.length < need ∧ !(s.sclOut c || scl) then some (Bad.of cQIMB)
    else if (m.scq.take need).any ScaleEntry.poisoned then some (Bad.of cPOISON)
    else none

/-- The stalls of R160 and R161. -/
def State.stepWait (s : State) (sparse : Bool) (x : LayMma) (q c : Nat) : Wait :=
  let e := s.fmtSel q c
  let g := s.genOf q
  let m := (s.core c).mx
  if bobFill ((s.core c).readB g x.ba.toNat) < actBytes e (stepKappa sparse) ∨
      bobFill ((s.core c).readB g x.bw.toNat) < wtBytes e ∨ m.scq.length < scaleNeed e sparse m.half then .counted
  else if m.eng.isSome || m.busy x.td.toNat || (sparse && s.metaRead q == .hold) then .uncounted
  else .none

/-- The scales of the halves of a step, and what is left of the queue and HALF (R96, R97, R166, R167). -/
def State.stepScales (s : State) (sparse : Bool) (x : LayMma) (q c : Nat) : (Option Nat × Option Nat) × List ScaleEntry × Bool :=
  let e := s.fmtSel q c
  let g := s.genOf q
  let m := (s.core c).mx
  let at0 := (m.scq[0]?).elim 0 fun e => e.read g
  let at1 := (m.scq[1]?).elim 0 fun e => e.read g
  match fmtScl e with
  | 1 =>
    if sparse then
      if m.half then ((some at0, some at1), m.scq.drop 1, true) else ((some at0, some at0), m.scq.drop 1, false)
    else ((some at0, some at0), if m.half then m.scq.drop 1 else m.scq, !m.half)
  | 2 =>
    let v := ((s.core c).readV g x.vr.toNat).toNat / 2 ^ (512 * x.sel.toNat)
    ((some v, some v), m.scq, m.half)
  | _ => ((none, none), m.scq, m.half)

/-- The result of a step (R98 to R100). -/
def State.stepResult (s : State) (sparse : Bool) (x : LayMma) (q c : Nat) : Tile :=
  let e := s.fmtSel q c
  let g := s.genOf q
  let lvl := s.levelOf q
  let κ := stepKappa sparse
  let a := wordOfBytes (s.stepOperand c g x.ba.toNat (actBytes e κ))
  let w := wordOfBytes (s.stepOperand c g x.bw.toNat (wtBytes e))
  let sc := (s.stepScales sparse x q c).1
  let t := (s.core c).readT g x.td.toNat
  if sparse then
    let m := match s.metaRead q with | .ok w => w | _ => 0
    stepHalf lvl e κ a w (keptRow m) 32 sc.2 (stepHalf lvl e κ a w (keptRow m) 0 sc.1 t)
  else stepHalf lvl e κ a w some 0 sc.1 t

/-- The issue of a step on a core: claims, scales and the engine. An `m.mms` with SCL = 1 inverts HALF twice; it counts as changing HALF
for SQ: DESIGN CHOICE (log entry 70). -/
def State.stepAct (s : State) (sparse : Bool) (x : LayMma) (q c : Nat) (k : Core) : Core :=
  let e := s.fmtSel q c
  let g := s.genOf q
  let sa := actBytes e (stepKappa sparse)
  let sw := wtBytes e
  let (_, scq, half) := s.stepScales sparse x q c
  let k := (k.setB g x.ba.toNat (bobSetClaim ((s.core c).readB g x.ba.toNat) sa)).setB g x.bw.toNat
    (bobSetClaim ((s.core c).readB g x.bw.toNat) sw)
  let op : EngOp := .step x.td.toNat (s.stepResult sparse x q c) g x.ba.toNat x.bw.toNat sa sw
  let m := { k.mx with scq := scq, half := half, eng := some { left := stepTime e, bnd := s.nextId, op := op } }
  { k with mx := if fmtScl e = 1 then m.usedSq (s.ctxIdOf q) else m }

/-- A step, `sparse` for `m.mms`. -/
def semStep (sparse : Bool) (scl : State → Nat → Nat → Bool) (x : LayMma) : Sem :=
  { slot := 3, grd := x.grd,
    names := fun s q c => if x.v = 1 then s.vName q c x.vr.toNat else [],
    always := fun s q c => s.stepAlways sparse x q c,
    check := fun s q c => s.stepCheck sparse (scl s q c) q c,
    wait := fun s q c => s.stepWait sparse x q c,
    act := fun s q c k => s.stepAct sparse x q c k }

/-- No `l.scl` in the bundle. -/
def noScl : State → Nat → Nat → Bool := fun _ _ _ => false

/-- `m.mma` (R161). -/
def semMMma (x : LayMma) (scl : State → Nat → Nat → Bool := noScl) : Sem := semStep false scl x

/-- MPC past the word, once for the bundle, whatever the guards (R165). -/
def State.advanceMpc (s : State) (q : Nat) : State :=
  let g := s.genOf q
  s.modSeq q fun y => { y with mpc := Reg.of (y.mpc.read g + 8) g }

/-- `m.mms` (R161, R165). -/
def semMMms (x : LayMma) (scl : State → Nat → Nat → Bool := noScl) : Sem :=
  { semStep true scl x with issued := fun _ q t => t.advanceMpc q, stand := fun q s => s.keepMeta q }

/-! ### Tile operations (R168 to R177) -/

/-- `m.zero` (R169). -/
def semMZero (x : LayMT) : Sem :=
  { slot := 3, grd := x.grd, check := fun s q c => s.accFirst q c,
    wait := tileWait [x.t.toNat] fun _ => false,
    act := fun s q _ k =>
      let m := (k.mx.setT (s.genOf q) x.t.toNat 0).live (s.ctxIdOf q) x.t.toNat
      { k with mx := { (if k.mx.half then m.usedSq (s.ctxIdOf q) else m) with half := false } } }

/-- `m.acc` (R170). -/
def semMAcc (x : LayMAcc) : Sem :=
  { slot := 3, grd := x.grd, check := fun s q c => s.accFirst q c,
    wait := tileWait [x.td.toNat, x.ts.toNat] fun m => m.eng.isSome,
    act := fun s q c k =>
      let g := s.genOf q
      let a := (s.core c).readT g x.td.toNat
      let b := (s.core c).readT g x.ts.toNat
      let r := tileOf fun i j => accElem (s.levelOf q) (tileAt a i j) (tileAt b i j)
      { k with mx := { k.mx with eng := some { left := 2, bnd := s.nextId, op := .acc x.td.toNat x.ts.toNat r g } } } }

/-- Rows 2k and 2k + 1 of a tile as a vector value. -/
def tileRows (t : Tile) (k : Nat) : VWord := t.extractLsb' (2048 * k) 2048
/-- A tile with rows 2k and 2k + 1 replaced. -/
def tileSetRows (t : Tile) (k : Nat) (v : VWord) : Tile :=
  BitVec.ofNat 32768 (t.toNat % 2 ^ (2048 * k) + v.toNat * 2 ^ (2048 * k) +
    t.toNat / 2 ^ (2048 * (k + 1)) * 2 ^ (2048 * (k + 1)))

/-- `m.rd` (R171). -/
def semMRd (x : LayMRd) : Sem :=
  { slot := 3, grd := x.grd, names := fun s q c => s.vName q c x.d.toNat,
    check := fun s q c => s.accFirst q c, wait := tileWait [x.ts.toNat] fun _ => false,
    act := fun s q c k =>
      let g := s.genOf q
      k.land g .lV .v (physV (k.base g) x.d.toNat) (BitVec.allOnes 128) (tileRows ((s.core c).readT g x.ts.toNat) x.k.toNat) 6 }

/-- `m.wr` (R172). -/
def semMWr (x : LayMWr) : Sem :=
  { slot := 3, grd := x.grd, names := fun s q c => s.vName q c x.vs.toNat,
    check := fun s q c => s.accFirst q c, wait := tileWait [x.td.toNat] fun _ => false,
    act := fun s q c k =>
      let g := s.genOf q
      let t := tileSetRows ((s.core c).readT g x.td.toNat) x.k.toNat ((s.core c).readV g x.vs.toNat)
      { k with mx := (k.mx.setT g x.td.toNat t).live (s.ctxIdOf q) x.td.toNat } }

/-- `m.st` (R173). -/
def semMSt (x : LayMOff) : Sem :=
  { slot := 3, grd := x.grd, mem := true, own := fun _ _ _ => true, check := fun s q c => s.accFirst q c,
    wait := tileWait [x.t.toNat] fun m => m.tst.isSome,
    act := fun s q c k =>
      let g := s.genOf q
      let e := s.fmtSel q c
      let bs := storeBytes (s.levelOf q) e ((s.core c).readT g x.t.toNat)
      { k with mx := { k.mx with tst := some { left := 4 * outBytes e, bnd := s.nextId, op := .write x.t.toNat (256 * x.off.toNat) bs (Tag.of g) } } } }

/-- `m.fmt` (R168). -/
def semMFmt (x : LayMFmt) : Sem :=
  { slot := 3, grd := x.grd, check := fun s q c => s.accFirst q c,
    act := fun s q _ k =>
      let w : Word := BitVec.ofNat 64 (x.fb.toNat * 256 + x.n.toNat * 8 + x.lvl.toNat)
      { k with mx := ({ k.mx with fbind := w, fbOf := some (s.ctxIdOf q) } : MatrixRegs).usedFb (s.ctxIdOf q) } }

/-- `m.save` (R177): in system mode the rows take the tile's own tag. -/
def semMSave (x : LayMOff) : Sem :=
  { slot := 3, grd := x.grd, mem := true, own := fun _ _ _ => true, check := fun s q c => s.accFirst q c,
    wait := tileWait [x.t.toNat] fun m => m.tst.isSome,
    act := fun s q c k =>
      let g := s.genOf q
      let r := SMap.get (Reg.wiped 32768) (s.core c).mx.t x.t.toNat
      let (v, tag) := if (s.seq q).sys then (r.val, r.tag) else (r.read g, Tag.of g)
      { k with mx := { k.mx with tst := some { left := 16, bnd := s.nextId, op := .write x.t.toNat (256 * x.off.toNat) (tileBytes v) tag } } } }

/-- `m.rest` (R177). -/
def semMRest (x : LayMOff) : Sem :=
  { slot := 3, grd := x.grd, mem := true, own := fun _ _ _ => true, check := fun s q c => s.accFirst q c,
    wait := tileWait [x.t.toNat] fun m => m.tst.isSome,
    act := fun s q _ k =>
      { k with mx := { k.mx with
          tst := some { left := 16, bnd := s.nextId, op := .read x.t.toNat (256 * x.off.toNat) (s.genOf q) (s.seq q).sys } } } }

/-- `m.wait` (R174). -/
def semMWait (x : LayMT) : Sem :=
  { slot := 3, grd := x.grd, check := fun s q c => s.accFirst q c, wait := tileWait [x.t.toNat] fun _ => false }

/-! ### Retirement of steps and tile-store operations (R159, R161, R173, R177) -/

/-- The engine's operation retires: the tile, and the bytes its bobbins release. -/
def Core.engDone (k : Core) (id : Nat) : Core :=
  match k.mx.eng with
  | none => k
  | some b =>
    match b.op with
    | .step td r g ba bw sa sw =>
      let k := (k.setB g ba (bobPop (k.readB g ba) sa)).setB g bw (bobPop (k.readB g bw) sw)
      { k with mx := ({ k.mx with eng := none }.setT g td r).live id td }
    | .acc td _ r g => { k with mx := ({ k.mx with eng := none }.setT g td r).live id td }

/-- A scratchpad row written with a tag: a row that held another tag is emptied first (R256). -/
def State.putRow (s : State) (c off : Nat) (bs : List Byte) (tag : Tag) : State :=
  let loc := locSpad c off
  let s := if (s.unit loc).tag = tag then s
    else (({ s with mem := Memory.clear s.mem loc 256 }).clearFull loc 256).setUnit loc { tag := tag, poison := false, pend := false }
  s.putRaw loc bs

/-- Whole rows written with one tag. -/
def State.putRows (c : Nat) (tag : Tag) : (rows : Nat) → State → (off : Nat) → List Byte → State
  | 0, s, _, _ => s
  | n + 1, s, off, bs => State.putRows c tag n (s.putRow c off (bs.take 256) tag) (off + 256) (bs.drop 256)

/-- The tile that `m.rest` reads back, and its tag (R177). -/
def State.restTile (s : State) (c off : Nat) (g : Gen) (sys : Bool) : Reg 32768 :=
  let tag := if sys then (s.unit (locSpad c off)).tag else Tag.of g
  let bs := (List.range 16).flatMap fun r =>
    let loc := locSpad c (off + 256 * r)
    if (s.unit loc).tag = tag then s.raw loc 256 else List.replicate 256 0
  { val := BitVec.ofNat 32768 (wordOfBytes bs), tag := tag }

/-- The tile store's operation performs. -/
def State.tstDone (s : State) (c id : Nat) : State :=
  match (s.core c).mx.tst with
  | none => s
  | some b =>
    let s := s.modCore c fun k => { k with mx := { k.mx with tst := none } }
    match b.op with
    | .write _ off bs tag => State.putRows c tag (bs.length / 256) s off bs
    | .read td off g sys =>
      let r := s.restTile c off g sys
      s.modCore c fun k =>
        { k with mx := ({ k.mx with t := SMap.set (Reg.wiped 32768) k.mx.t td r } : MatrixRegs).live id td }

end Sys2Proof.Machine
end

