-- ==== Sys2Proof/Machine/Access.lean ====
section
/-! DEFINITION. What a load-slot or store-slot operation asks of memory: its addresses, their places and classes (R178 to
R181), the pieces in which it performs (R383, R384), and the access in flight it becomes (R62, R183, R192). -/

namespace Sys2Proof.Machine

/-- A run of bytes of an access that lies in one 64-byte line: its address, length and place among the access's bytes. -/
structure Run where
  addr : Word
  len : Nat
  off : Nat
  deriving DecidableEq, Repr

/-- The runs of `n` bytes from an address on, by 64-byte line; addresses wrap (R180). -/
def runsFrom : (fuel : Nat) → (addr : Word) → (n off : Nat) → List Run
  | 0, _, _, _ => []
  | f + 1, a, n, off =>
    if n = 0 then []
    else
      let m := min n (64 - a.toNat % 64)
      { addr := a, len := m, off := off } :: runsFrom f (a + BitVec.ofNat 64 m) (n - m) (off + m)
def runsOf (a : Word) (n : Nat) : List Run := runsFrom (n / 64 + 2) a n 0

/-- The alignment R181 asks for: `al` bytes, or no crossing of a 64-byte line when `al` is 0. -/
def misaligned (a : Word) (n al : Nat) : Bool :=
  if al = 0 then decide (64 < a.toNat % 64 + n) else decide (a.toNat % al ≠ 0)

/-- The places of an access, or why it has none. -/
inductive Spots where
  | ok (l : List (Run × Place))
  | fault (cause : Nat)
  | hold
  deriving DecidableEq, Repr

/-- The runs of an access translated in order; `salt` tells the accesses of a cycle apart (log entry 9). -/
def State.spotsFrom (s : State) (q c salt : Nat) (u : Use) : (i : Nat) → List Run → Spots
  | _, [] => .ok []
  | i, r :: l =>
    match s.resolve q c u (salt * 256 + i) r.addr with
    | .fault cause => .fault cause
    | .hold => .hold
    | .ok p =>
      match State.spotsFrom s q c salt u (i + 1) l with
      | .ok t => .ok ((r, p) :: t)
      | o => o
def State.spots (s : State) (q c slot : Nat) (u : Use) (l : List Run) : Spots := s.spotsFrom q c (c * 16 + slot) u 0 l

/-- Class own (R180). -/
def Place.isOwn : Place → Bool
  | .own _ => true
  | _ => false
def allOwn (l : List (Run × Place)) : Bool := l.all fun x => x.2.isOwn
/-- Every place is of class own. -/
def Spots.own : Spots → Bool
  | .ok l => allOwn l
  | _ => false
def Spots.list : Spots → List (Run × Place)
  | .ok l => l
  | _ => []

/-- The location that reads as zero and keeps nothing: the aperture as a load sees it (R213). -/
def locZero : Nat := 2 ^ 90

/-- An access of a register page that R476 admits: 1, 2, 4 or 8 bytes, naturally aligned. -/
def regAligned (off n : Nat) : Bool := (n == 1 || n == 2 || n == 4 || n == 8) && decide (off % n = 0)

/-- The pieces of a run at a location, by 32-byte sector (R384). -/
def sectorPieces (tagged : Bool) : (fuel : Nat) → (loc off n : Nat) → List Piece
  | 0, _, _, _ => []
  | f + 1, loc, off, n =>
    if n = 0 then []
    else
      let m := min n (32 - loc % 32)
      { loc := loc, off := off, len := m, tagged := tagged, done := false } :: sectorPieces tagged f (loc + m) (off + m) (n - m)

/-- The pieces of a run at its place. -/
def placePieces (c : Nat) (x : Run × Place) : List Piece :=
  let r := x.1
  match x.2 with
  | .own off => sectorPieces true 3 (locSpad c off) r.off r.len
  | .peer p off => sectorPieces true 3 (locSpad p off) r.off r.len
  | .mem loc tagged => sectorPieces tagged 3 loc r.off r.len
  | .window _ fab => sectorPieces true 3 (locFabric fab) r.off r.len
  | .reg p off =>
    let loc := if regAligned off r.len then locPage p off else locZero
    [{ loc := loc, off := r.off, len := r.len, tagged := false, done := false }]
  | .aperture _ _ => [{ loc := locZero, off := r.off, len := r.len, tagged := false, done := false }]

/-- The windows an access uses, each once. -/
def spotWindows (l : List (Run × Place)) : List Nat :=
  (l.filterMap fun x => match x.2 with | .window w _ => some w | _ => none).eraseDups

/-- The spots of one window, or those outside every window. -/
def spotsOf (w : Option Nat) (l : List (Run × Place)) : List (Run × Place) :=
  l.filter fun x => match x.2 with | .window v _ => decide (w = some v) | _ => w.isNone

/-- The ASID and pages whose translations a near or remote access uses (R400). -/
def spotPins (asid : Nat) (l : List (Run × Place)) : List (Nat × Nat) :=
  (l.filterMap fun x => match x.2 with
    | .own _ | .aperture _ _ => none
    | _ => some (asid, x.1.addr.toNat / 2 ^ 16)).eraseDups

/-! ### SC operations (R379, R380) -/

/-- The stamp of an SC operation of the bundle at issue; `store` for the store slot. -/
def State.scStamp (s : State) (q c : Nat) (store : Bool) : Option ScStamp :=
  (s.seq q).whl.map fun n =>
    { rev := s.tbase (dieOfSeq q) / 4096, pos := n, grank := (s.core c).sp.grank, slot := bit store }

/-- A place outside the package (R380): host memory, or a window of pod or spine scope. -/
def State.outsidePkg (s : State) (q : Nat) : Place → Bool
  | .mem loc _ => isHost loc
  | .window _ fab => decide (s.windowTier (dieOfSeq q) fab ≠ 4)
  | _ => false

/-- The cause an SC operation raises for its target (R380). -/
def State.scBad (s : State) (q : Nat) (l : List (Run × Place)) : Option Bad :=
  if (s.seq q).whl.isSome && l.any fun x => s.outsidePkg q x.2 then some (Bad.of cPERM) else none

/-- Before an SC operation the core's earlier accesses have performed at package scope (R380). -/
def State.scWaits (s : State) (q c : Nat) (own : Bool) : Bool :=
  (s.seq q).whl.isSome && !own && !s.performed c 4 s.nextId

/-! ### Access in flight -/

/-- An access of a core at issue, as slot's access j. -/
def State.newFlight (s : State) (q c slot j : Nat) (op : FlightOp) (l : List (Run × Place)) (data : List Byte)
    (dest : Option Dest) (w : Option Nat) : Flight :=
  let own := allOwn l
  { id := s.accessId q c slot j, bnd := s.nextId, core := c, ctx := s.ctxIdOf q, gen := s.genOf q, op := op,
    pieces := l.flatMap (placePieces c), data := data, dest := dest,
    -- Loads read in cycle c + 3, stores perform at its end (R183).
    due := if l.any fun x => x.2.isOwn then some (if op.reads then 3 else 4) else none,
    failed := none, window := w, pins := spotPins (s.seq q).asid l,
    sc := if own then none else s.scStamp q c (slot == 5), acked := w.isNone, sent := none, ready := false, written := false }

/-- A flight joins those under way. -/
def State.addFlight (s : State) (f : Flight) : State := { s with flights := s.flights ++ [f] }

/-- After an SC operation the core acts as under `y.fence.package` (R380). -/
def State.scFence (s0 : State) (q c : Nat) (own : Bool) (s : State) : State :=
  if (s0.seq q).whl.isSome && !own then
    s.modCore c fun k => { k with pp := { k.pp with fences := k.pp.fences ++ [{ scope := 4, upto := s0.nextId + bundleIds }] } }
  else s

/-- Whether a core is one of the gang, and not a shadow (R350). -/
def State.isPrimary (s : State) (q c : Nat) : Bool := (s.gang q).contains c

/-- A load of a core joins those under way: of a shadow only what its own scratchpad serves (R350). -/
def State.issueLoad (s0 : State) (q c slot : Nat) (op : FlightOp) (l : List (Run × Place)) (bytes : Nat)
    (dest : Option Dest) (s : State) : State :=
  let own := allOwn l
  if !own && !s0.isPrimary q c then s
  else
    let f := s0.newFlight q c slot 0 op l (List.replicate bytes 0) (if own then none else dest) (spotWindows l).head?
    scFence s0 q c own (s.addFlight { f with acked := true })

/-- One more posted write through a window (R201). -/
def State.postOut (s : State) (x w : Nat) : State :=
  s.modCtx x fun c => { c with outs := SMap.modify 0 c.outs w (· + 1) }

/-- The parts of a store: what it writes outside windows, and one posted write for each window (R201). -/
def State.issueStoreParts (s0 : State) (q c slot : Nat) (op : FlightOp) (l : List (Run × Place)) (data : List Byte)
    (dest : Option Dest) : (j : Nat) → List (Option Nat) → State → State
  | _, [], s => s
  | j, w :: r, s =>
    let here := spotsOf w l
    let s :=
      if here.isEmpty then s
      else
        let s := s.addFlight (s0.newFlight q c slot j op here data dest w)
        match w with
        | some w => s.postOut (s0.ctxIdOf q) w
        | none => s
    State.issueStoreParts s0 q c slot op l data dest (j + 1) r s

/-- A store, scatter or reduction of a core joins the accesses under way (R192, R201). -/
def State.issueStore (s0 : State) (q c slot : Nat) (op : FlightOp) (l : List (Run × Place)) (data : List Byte) (s : State) :
    State :=
  let own := allOwn l
  let l := if s0.isPrimary q c then l else l.filter fun x => x.2.isOwn
  scFence s0 q c own (s0.issueStoreParts q c slot op l data none 0 (none :: (spotWindows l).map some) s)

/-- An atomic that returns joins the accesses under way; it uses no allowance (R201). -/
def State.issueAtom (s0 : State) (q c slot : Nat) (op : FlightOp) (l : List (Run × Place)) (bytes : Nat) (dest : Option Dest)
    (s : State) : State :=
  let own := allOwn l
  if !own && !s0.isPrimary q c then s
  else
    let f := s0.newFlight q c slot 0 op l (List.replicate bytes 0) dest (spotWindows l).head?
    scFence s0 q c own (s.addFlight { f with acked := true })

/-- Posted writes of the bundle through a window by the cores up to a CRANK would take OUT above ALLOW (R201). `ws c` are
the windows that core c posts to. -/
def State.allowWaits (s : State) (q c : Nat) (ws : Nat → List Nat) : Bool :=
  match s.ctxOf q with
  | none => false
  | some x =>
    let upTo := (s.gang q).take ((s.gang q).findIdx (· == c) + 1)
    (ws c).any fun w => decide (fieldOf (x.win w 0) 0 8 < x.out w + (upTo.filter fun d => (ws d).contains w).length)

/-! ### Waits and checks common to the accesses -/

/-- An access meets bytes that a running tile-store operation has still to perform (R173). -/
def State.spotsMeetTst (s : State) (c : Nat) (l : List (Run × Place)) : Bool :=
  l.any fun x => match x.2 with
    | .own off => s.tstMeets c off x.1.len
    | _ => false

/-- What holds an access whose places are known: translation, the tile store, an SC operation's fence. -/
def State.spotsWait (s : State) (q c : Nat) (sp : Spots) : Wait :=
  match sp with
  | .hold => .uncounted
  | .fault _ => .none
  | .ok l =>
    if s.scWaits q c (allOwn l) then .counted
    else if s.spotsMeetTst c l then .uncounted
    else .none

/-- The causes of an access: its alignment, its translation, and its place on a wheel bundle (R180, R181, R380). -/
def State.spotsBad (s : State) (q : Nat) (bad : Bool) (sp : Spots) : Option Bad :=
  if bad then some (Bad.of cALIGN)
  else
    match sp with
    | .fault cause => some (Bad.of cause)
    | .ok l => s.scBad q l
    | .hold => none

/-! ### Values (R185) -/

/-- The value of a load's bytes. -/
def loadValue (form : LoadForm) (bs : List Byte) : VWord :=
  match form with
  | .scalar sg =>
    let n := wordOfBytes bs
    let w := 8 * bs.length
    (BitVec.ofInt 64 (if sg then signed w n else n)).setWidth 2048
  | .vector => BitVec.ofNat 2048 (wordOfBytes bs)
  | .spread => BitVec.ofNat 2048 (wordOfBytes ((List.replicate (256 / max 1 bs.length) bs).flatten))

/-- A load of class own joins the landing queue; its value comes with its read (R183). -/
def Core.landLoad (k : Core) (g : Gen) (path : WPath) (file : RFile) (index id : Nat) : Core :=
  let e : LqEntry := { rem := 5, path := path, file := file, index := index, gen := g, mask := BitVec.allOnes 128, value := 0,
                       held := false, load := some id }
  { k with pp := { k.pp with fresh := k.pp.fresh ++ [e] } }

/-- The landing-queue entry of a load takes the value read (R183). -/
def Core.loadRead (k : Core) (id : Nat) (v : VWord) : Core :=
  let f (e : LqEntry) : LqEntry := if e.load = some id then { e with value := v, load := none } else e
  { k with pp := { k.pp with lq := k.pp.lq.map f } }

end Sys2Proof.Machine
end

