-- ==== Sys2Proof/Machine/Timeline.lean ====
section
/-! DEFINITION. Timeline counters (R223 to R226, R356, R368, R369): numbers taken, completed and failed. -/

namespace Sys2Proof.Machine

/-- PQSYNC, PQTL and PQCLM of a sequencer's partition on its die (R248). -/
def State.quota (s : State) (q off : Nat) : Word := s.dctl (dieOfSeq q) (0x4000 + 0x40 * partOf (s.ctxIdOf q) + off)

/-- The physical counter of a timeline index, when the quota grants it (R221, R356). -/
def State.tlOf (s : State) (q n : Nat) : Option Nat :=
  let w := s.quota q 0x20
  if n < fieldOf w 32 13 then some ((fieldOf w 0 12 + n) % 4096) else none

/-- QUOTA for a timeline index beyond the grant, or for numbers past 2^64 − 1: `k` numbers are taken by this core and the
cores before it (R221, R223). -/
def State.tlBad (s : State) (q n k : Nat) : Option Bad :=
  match s.tlOf q n with
  | none => some (Bad.of cQUOTA)
  | some i => if 2 ^ 64 ≤ (s.tl (dieOfSeq q) i).next + k then some (Bad.of cQUOTA) else none

/-- A counter about to change at a time, in cycles of some length: what it shows is kept for the waits of that cycle (R368). -/
def Timeline.touch (t : Timeline) (units now : Nat) : Timeline :=
  if now / units ≤ t.stamp / units then t else { t with stamp := now, wasDone := t.done, wasFails := t.fails }
/-- The counter as a wait sees it: DONE and the records as they stood at the start of the cycle (R368). -/
def State.tlSeen (s : State) (d i : Nat) : Timeline :=
  let t := s.tl d i
  if t.stamp / s.cycleUnits d = s.time / s.cycleUnits d then { t with done := t.wasDone, fails := t.wasFails } else t

/-- DONE moved over numbers that have ended. -/
def Timeline.advance : (fuel : Nat) → Timeline → Timeline
  | 0, t => t
  | f + 1, t =>
    if t.ended.contains (t.done + 1) then
      Timeline.advance f { t with done := t.done + 1, ended := t.ended.erase (t.done + 1) }
    else t

/-- Numbers from `first` on end, and DONE follows (R368). -/
def Timeline.finish (t : Timeline) (first n : Nat) : Timeline :=
  Timeline.advance (t.ended.length + n) { t with ended := t.ended ++ upFrom first n }

/-- A number fails: recorded, or held while 8 records stand (R368). -/
def Timeline.fail (t : Timeline) (n cause : Nat) : Timeline :=
  if t.fails.length < 8 then Timeline.finish { t with fails := t.fails ++ [(n, cause)] } n 1
  else { t with heldFails := t.heldFails ++ [(n, cause)] }

/-- A failure record is acquired: it goes, and a held failure takes its place (R368). -/
def Timeline.acquire (t : Timeline) (n : Nat) : Timeline :=
  let t := { t with fails := t.fails.filter fun e => e.1 ≠ n }
  match t.heldFails with
  | e :: r => Timeline.fail { t with heldFails := r } e.1 e.2
  | [] => t

/-- The lowest failed number at or below N, with its cause (R224). -/
def Timeline.failedUpTo (t : Timeline) (n : Nat) : Option (Nat × Nat) :=
  (t.fails.filter fun e => decide (e.1 ≤ n)).foldl (fun b e =>
    match b with
    | some a => if e.1 < a.1 then some e else b
    | none => some e) none

/-- A number taken on a counter of a die (R223). -/
def State.tlTake (s : State) (d i : Nat) : Nat × State :=
  let t := s.tl d i
  (t.next + 1, s.setTl d i { t with next := t.next + 1 })
/-- A counter that changes now. -/
def State.tlTouched (s : State) (d i : Nat) : Timeline := (s.tl d i).touch (s.cycleUnits d) s.time
def State.tlFinish (s : State) (d i n : Nat) : State := s.setTl d i ((s.tlTouched d i).finish n 1)
def State.tlFail (s : State) (d i n cause : Nat) : State := s.setTl d i ((s.tlTouched d i).fail n cause)

/-- Every store, atomic, reduction and posted write of a core numbered below `upto` has performed at die scope, posted writes once
acknowledged (R225, R227). -/
def State.stored (s : State) (c upto : Nat) : Bool :=
  s.flights.all fun f => !(f.core == c && decide (f.id < upto) && f.op.writes && !(f.allDone && f.acked))
/-- The same with the tile-store operations (R225). -/
def State.wrote (s : State) (c upto : Nat) : Bool := s.stored c upto && (s.core c).mx.tst.all fun b => decide (upto ≤ b.bnd)

/-- Blocks of `y.tladv` on a counter whose writes have performed complete, as of a time (R225, R368). -/
def State.tlSettle (s : State) (d i now : Nat) : State :=
  let t := s.tl d i
  let ready := t.blocks.filter fun b => s.wrote b.core b.upto
  if ready.isEmpty then s
  else
    let t := { t.touch (s.cycleUnits d) now with blocks := t.blocks.filter fun b => !s.wrote b.core b.upto }
    s.setTl d i (ready.foldl (fun t b => t.finish b.first b.count) t)

/-- Every counter of a die with blocks under way. -/
def State.tlSettleAll (s : State) (d now : Nat) : State :=
  ((s.die d).tls.filter fun e => !e.2.blocks.isEmpty).foldl (fun s e => s.tlSettle d e.1 now) s

/-- Position of a core in its gang, from 1. -/
def State.place (s : State) (q c : Nat) : Nat := (s.gang q).findIdx (· == c) + 1

/-! ### The sync bucket (R358) -/

/-- The bucket of a sequencer's partition holds fewer than n tokens; none are counted when SRATE is 0, and a released line has reserved
those of its bundles (R358, R364). -/
def State.syncShort (s : State) (q n : Nat) : Bool :=
  let w := s.quota q 0x18
  !(s.seq q).released && decide (fieldOf w 56 8 ≠ 0) && decide (16 < SMap.get 0 (s.die (dieOfSeq q)).syncSpent (partOf (s.ctxIdOf q)) + n)

/-- Tokens spent by a sequencer's operation. -/
def State.syncSpend (s : State) (q n : Nat) : State :=
  if fieldOf (s.quota q 0x18) 56 8 = 0 ∨ (s.seq q).released = true then s
  else s.modDie (dieOfSeq q) fun y => { y with syncSpent := SMap.modify 0 y.syncSpent (partOf (s.ctxIdOf q)) (· + n) }

/-! ### The timeline operations (R224 to R226) -/

/-- Whether the guard of a per-core operation reads 1 on a core that is not idle. -/
def State.guarded (s : State) (q c : Nat) (grd : BitVec 3) : Bool := !s.idle q c && (s.core c).readQ (s.genOf q) grd.toNat

/-- The failure a `y.tlwait` meets: the lowest number at or below the N of any core of the gang (R224). No N is read while a long result
is outstanding to its register (R62). -/
def State.tlwaitFail (s : State) (q : Nat) (x : LayYTl) : Option (Nat × Nat) :=
  let on := (s.gang q).filter fun c => s.guarded q c x.grd
  if on.any fun c => (sName x.sa).any fun d => (s.longTo c d).isSome then none
  else
    (s.tlOf q x.tl.toNat).bind fun i =>
      match on.map fun c => (s.rs q c x.sa).toNat with
      | [] => none
      | n :: r => (s.tlSeen (dieOfSeq q) i).failedUpTo (r.foldl max n)

/-- `y.tlwait` (R224): a failed number traps on every core of the gang, and is acquired by that trap. -/
def semYTlwait (x : LayYTl) : Sem :=
  { slot := 7, grd := x.grd, names := fun _ _ _ => sName x.sa,
    always := fun s q _ => (s.tlwaitFail q x).map fun e => { cause := e.2, info := 0, late := true },
    check := fun s q _ => s.tlBad q x.tl.toNat 0,
    wait := fun s q c =>
      match s.tlOf q x.tl.toNat with
      | some i => if (s.tlSeen (dieOfSeq q) i).done < (s.rs q c x.sa).toNat then .counted else .none
      | none => .none,
    act := fun s q c k =>
      match s.tlOf q x.tl.toNat with
      | some i => { k with pp := { k.pp with acquired := SMap.modify 0 k.pp.acquired i (max (s.rs q c x.sa).toNat) } }
      | none => k,
    trapped := fun s q t =>
      match s.tlwaitFail q x, s.tlOf q x.tl.toNat with
      | some e, some i => t.setTl (dieOfSeq q) i ((t.tlTouched (dieOfSeq q) i).acquire e.1)
      | _, _ => t }

/-- Numbers that the cores of a gang up to a core take with a `y.tladv`. -/
def State.advUpTo (s : State) (q c : Nat) (x : LayYTl) : Nat :=
  (((s.gang q).take (s.place q c)).filter fun d => s.guarded q d x.grd).foldl (fun n d => n + (s.rs q d x.sa).toNat) 0

/-- `y.tladv` (R225). -/
def semYTladv (x : LayYTl) : Sem :=
  { slot := 7, grd := x.grd, names := fun _ _ _ => sName x.sa,
    check := fun s q c =>
      if 65535 < (s.rs q c x.sa).toNat then some { cause := cILLOP, info := 0, late := false }
      else s.tlBad q x.tl.toNat (s.advUpTo q c x),
    wait := fun s q c =>
      let upto := ((s.gang q).take (s.place q c)).filter fun d => s.guarded q d x.grd && decide (s.rs q d x.sa ≠ 0)
      if (s.rs q c x.sa ≠ 0) && s.syncShort q upto.length then .counted else .none,
    takes := fun s q c => (s.tlOf q x.tl.toNat).map fun i => (i, (s.rs q c x.sa).toNat),
    tokens := fun s q => ((s.gang q).filter fun d => s.guarded q d x.grd && decide (s.rs q d x.sa ≠ 0)).length,
    shared := fun s q c t =>
      let k := (s.rs q c x.sa).toNat
      match s.tlOf q x.tl.toNat with
      | some i =>
        if k = 0 || !s.isPrimary q c then t
        else
          let d := dieOfSeq q
          let tl := t.tl d i
          let b : AdvBlock := { core := c, upto := s.nextId + bundleIds, first := tl.next + 1, count := k }
          (t.setTl d i { tl with next := tl.next + k, blocks := tl.blocks ++ [b] }).syncSpend q 1
      | none => t,
    issued := fun s q t =>
      match s.tlOf q x.tl.toNat with
      | some i => t.tlSettle (dieOfSeq q) i t.time
      | none => t }

/-- `y.tlread` (R226). -/
def semYTlread (x : LayYTlr) : Sem :=
  { slot := 7, grd := x.grd, names := fun _ _ _ => sName x.sd,
    check := fun s q _ => s.tlBad q x.tl.toNat 0,
    act := fun s q _ k =>
      match s.tlOf q x.tl.toNat with
      | some i => k.landS (s.genOf q) .x x.sd.toNat (BitVec.ofNat 64 (s.tlSeen (dieOfSeq q) i).done) 2
      | none => k }

end Sys2Proof.Machine
end

