-- ==== Sys2Proof/Machine/Copy.lean ====
section
/-! DEFINITION. The copy slot (R204 to R217): shapes, copies and how they start, bobbin bindings, templates and their
bindings with a key, and cache maintenance as it issues. -/

namespace Sys2Proof.Machine

/-! ### Shapes (R205, R206) -/

def shpLen (w : Word) : Nat := fieldOf w 0 40
def shpExt (w : Word) : Nat := fieldOf w 40 3

/-- COUNT, source step and destination step of an extension register, in bytes (R205). -/
def shpDim (w : Word) : Nat × Int × Int := (fieldOf w 48 16, signed 24 (fieldOf w 24 24) * 16, signed 24 (fieldOf w 0 24) * 16)

/-- `c.shp` (R206): pending for the bundles up to n + 2. -/
def semCShp (x : LayCShp) : Sem :=
  { slot := 6, grd := x.grd, names := fun _ _ _ => sName x.sa,
    act := fun s q c k => { k with me := { k.me with shp := k.me.shp ++ [(x.hd.toNat, 3, s.rs q c x.sa, s.genOf q)] } },
    cmd := fun s q c => [s.rs q c x.sa] }

/-- A shape: the length of a row and its dimensions, innermost first; none where a `c.go` raises ILLOP (R205). -/
def shapeOf (first : Word) (ext : List Word) : Option (Nat × List (Nat × Int × Int)) :=
  if fieldOf first 43 21 ≠ 0 ∨ 5 < shpExt first then none else some (shpLen first, (ext.take (shpExt first)).map shpDim)

/-- The shape in a register and those after it (R205). -/
def Core.shapeAt (k : Core) (g : Gen) (hs : Nat) : Option (Nat × List (Nat × Int × Int)) :=
  let w := k.readH g hs
  if 15 < hs + shpExt w then none else shapeOf w ((upFrom (hs + 1) (shpExt w)).map (k.readH g))

/-! ### Rows (R207) -/

/-- The rows of a shape come to no byte. -/
def noBytes (len : Nat) (dims : List (Nat × Int × Int)) : Bool := len == 0 || dims.any fun d => d.1 == 0

/-- The next index tuple, i1 fastest; none past the last. -/
def nextIdx : List (Nat × Int × Int) → List Nat → Option (List Nat)
  | d :: ds, i :: is => if i + 1 < d.1 then some ((i + 1) :: is) else (nextIdx ds is).map (0 :: ·)
  | _, _ => none

/-- 16 × the sum of the indexes by the steps, for source or destination. -/
def rowOffset (pick : Nat × Int × Int → Int) : List (Nat × Int × Int) → List Nat → Int
  | d :: ds, i :: is => i * pick d + rowOffset pick ds is
  | _, _ => 0

/-- Addresses of the next byte a copy moves. -/
def CopyRun.srcAt (r : CopyRun) : Word := r.src + BitVec.ofInt 64 (rowOffset (fun d => d.2.1) r.dims r.idx) + BitVec.ofNat 64 r.off
def CopyRun.dstAt (r : CopyRun) : Word := r.dst + BitVec.ofInt 64 (rowOffset (fun d => d.2.2) r.dims r.idx) + BitVec.ofNat 64 r.off

/-- The copy after `n` more bytes of its row. -/
def CopyRun.step (r : CopyRun) (n : Nat) : CopyRun :=
  if r.off + n < r.len then { r with off := r.off + n }
  else
    match nextIdx r.dims r.idx with
    | some i => { r with off := 0, idx := i }
    | none => { r with off := 0, finished := true }

/-! ### Channels (R207, R213) -/

def Core.chanOf (k : Core) (ch : Nat) : List CopyRun := SMap.get [] k.chan ch
def Core.setChan (k : Core) (ch : Nat) (l : List CopyRun) : Core := { k with chan := SMap.set [] k.chan ch l }
/-- A copy joins a channel. -/
def State.pushCopy (s : State) (c ch : Nat) (r : CopyRun) : State := s.modCore c fun k => k.setChan ch (k.chanOf ch ++ [r])

/-- A copy as its start queues it: it takes the next number on its counter, and one that moves nothing ends at once (R207,
R208, R209). `late` is a cause it fails with whatever it moves. -/
def State.startCopy (s : State) (d c ch : Nat) (r : CopyRun) (late : Option Nat) : State :=
  let (n, s) := s.tlTake d r.tl
  let r := { r with num := n }
  match late with
  | some cause => s.tlFail d r.tl n cause
  | none => if noBytes r.len r.dims && r.sealed.isNone then s.tlFinish d r.tl n else s.pushCopy c ch r

/-- A copy of the bundle at issue. -/
def State.newCopy (s : State) (q : Nat) (tl : Nat) (src dst : Word) (bob : Option Nat) (sh : Nat × List (Nat × Int × Int)) :
    CopyRun :=
  { ctx := s.ctxIdOf q, gone := none, asid := (s.seq q).asid, gen := s.genOf q, held := s.genOf q, sys := (s.seq q).sys, tl := tl, num := 0,
    src := src, dst := dst, bobbin := bob, len := sh.1, dims := sh.2, idx := sh.2.map fun _ => 0, off := 0, sealed := none,
    wait := 4, failed := none, finished := noBytes sh.1 sh.2 }

/-- `c.go` (R207, R208). -/
def semCGo (x : LayCGo) : Sem :=
  { slot := 6, grd := x.grd,
    check := fun s q c =>
      if ((s.core c).shapeAt (s.genOf q) x.hs.toNat).isNone then some (Bad.of cILLOP) else s.tlBad q x.tl.toNat 0,
    takes := fun s q _ => (s.tlOf q x.tl.toNat).map fun i => (i, 1),
    shared := fun s q c t =>
      let k := s.core c
      let g := s.genOf q
      match s.tlOf q x.tl.toNat, k.shapeAt g x.hs.toNat with
      | some i, some sh =>
        if !s.isPrimary q c then t
        else
          let bob := if x.dk = 1 then some x.dst.toNat else none
          let unbound := x.dk = 1 ∧ bobSize (k.readB g x.dst.toNat) = 0
          t.startCopy (dieOfSeq q) c 0
            (s.newCopy q i (k.readA g x.src.toNat) (if x.dk = 1 then 0 else k.readA g x.dst.toNat) bob sh)
            (if unbound then some cILLOP else none)
      | _, _ => t,
    cmd := fun s q c =>
      let k := s.core c
      let g := s.genOf q
      [k.readA g x.src.toNat, k.readA g x.dst.toNat, k.readH g x.hs.toNat, x.tl.setWidth 64] ++
        (upFrom (x.hs.toNat + 1) 5).map (k.readH g) }

/-- `c.ring` (R211): it waits for the step that holds CLAIM and for copies into the bobbin. -/
def semCRing (x : LayCRing) : Sem :=
  { slot := 6, grd := x.grd,
    wait := fun s q c =>
      let k := s.core c
      if bobClaim (k.readB (s.genOf q) x.b.toNat) ≠ 0 || k.chan.any fun e => e.2.any fun r => decide (r.bobbin = some x.b.toNat)
        then .counted else .none,
    act := fun s q _ k => k.setB (s.genOf q) x.b.toNat (bobPack x.base.toNat x.size.toNat 0 0 0),
    cmd := fun _ _ _ => [x.b.setWidth 64, x.base.setWidth 64, x.size.setWidth 64] }

/-! ### Cache maintenance (R216, R217) -/

/-- A cache command joins those under way. -/
def State.addMaint (s : State) (m : Maint) : State := { s with maints := s.maints ++ [m] }

/-- Instruction-cache lines of a die that touch a range leave it. -/
def State.dropLines (s : State) (d asid : Nat) (lo len : Nat) : State :=
  s.modDie d fun y =>
    { y with icache := y.icache.filter fun l => !(l.asid == asid && decide (0 < len) && decide (l.va.toNat < lo + len ∧ lo < l.va.toNat + 64)) }

/-- `c.icinv` (R216): the local die's lines leave before the next fetch. -/
def semCIcinv (x : LayCIc) : Sem :=
  { slot := 6, grd := x.grd, names := fun _ _ _ => sName x.sl,
    check := fun s q _ => s.tlBad q x.tl.toNat 0,
    takes := fun s q _ => (s.tlOf q x.tl.toNat).map fun i => (i, 1),
    shared := fun s q c t =>
      match s.tlOf q x.tl.toNat with
      | none => t
      | some i =>
        if !s.isPrimary q c then t
        else
          let d := dieOfSeq q
          let lo := s.ra q c x.an
          let len := s.rs q c x.sl
          let asid := (s.seq q).asid
          let (n, t) := t.tlTake d i
          let t := t.dropLines d asid lo.toNat len.toNat
          let others := allDies.filter fun e => s.present e && e != d
          if x.scope = 4 ∧ others ≠ [] then
            (t.addMaint { id := s.accessId q c 6 0, die := d, tl := i, num := n, ctx := s.ctxIdOf q, gen := s.genOf q, kind := 0,
                          asid := asid, lo := lo, len := len, dies := others })
          else t.tlFinish d i n,
    cmd := fun s q c => [s.ra q c x.an, s.rs q c x.sl, x.tl.setWidth 64] }

/-- `c.l2wb` and `c.l2inv` take a number and run on their own (R217). -/
def semMaint (kind : Nat) (x : LayCL2) : Sem :=
  { slot := 6, grd := x.grd, names := fun _ _ _ => sName x.sl,
    check := fun s q _ => s.tlBad q x.tl.toNat 0,
    takes := fun s q _ => (s.tlOf q x.tl.toNat).map fun i => (i, 1),
    shared := fun s q c t =>
      match s.tlOf q x.tl.toNat with
      | none => t
      | some i =>
        if !s.isPrimary q c then t
        else
          let d := dieOfSeq q
          let (n, t) := t.tlTake d i
          t.addMaint { id := s.accessId q c 6 0, die := d, tl := i, num := n, ctx := s.ctxIdOf q, gen := s.genOf q, kind := kind,
                       asid := (s.seq q).asid, lo := s.ra q c x.an, len := s.rs q c x.sl, dies := allDies.filter s.present },
    cmd := fun s q c => [s.ra q c x.an, s.rs q c x.sl, x.tl.setWidth 64] }
def semCL2wb (x : LayCL2) : Sem := semMaint 1 x
def semCL2inv (x : LayCL2) : Sem := semMaint 2 x

/-! ### Templates (R212 to R215) -/

/-- The template of a context as memory holds it, read at issue under the context's generation. -/
inductive Template where
  | ok (w : List Word)
  | fault (cause : Nat)
  | hold
  deriving DecidableEq, Repr

/-- Bytes at a place, for a read at issue. -/
def State.placeBytes (s : State) (g : Gen) (c : Nat) (p : Place) (n : Nat) : List Byte :=
  match p with
  | .own off => s.readBytes { gen := g, tagged := true, part := none } (locSpad c off) n
  | .peer p off => s.readBytes { gen := g, tagged := true, part := none } (locSpad p off) n
  | .mem loc tagged => s.readBytes { gen := g, tagged := tagged, part := none } loc n
  | .reg p off => if regAligned off n then s.pageBytes p off n else List.replicate n 0
  | _ => List.replicate n 0

/-- A place meets a poisoned granule, or one whose integrity is pending. -/
def State.placePoison (s : State) (g : Gen) (p : Place) (n : Nat) : Bool :=
  match p with
  | .mem loc tagged => s.readsPoison { gen := g, tagged := tagged, part := none } loc n
  | _ => false
def State.placePend (s : State) (p : Place) (n : Nat) : Bool :=
  match p with
  | .mem loc _ => s.meetsPend loc n
  | _ => false

/-- 8-byte words of a list of bytes. -/
def wordsOf : (n : Nat) → List Byte → List Word
  | 0, _ => []
  | n + 1, bs => wordOf (bs.take 8) :: wordsOf n (bs.drop 8)

/-- Template t of the running context (R212, R213). -/
def State.template (s : State) (q c t : Nat) : Template :=
  let base := ((s.ctxOf q).elim 0 fun x => x.ctl 0x328) + BitVec.ofNat 64 (128 * t)
  match s.spots q c 6 .read (runsOf base 128) with
  | .fault cause => .fault cause
  | .hold => .hold
  | .ok l =>
    let g := s.genOf q
    if l.any fun x => s.placePend x.2 x.1.len then .hold
    else if l.any fun x => s.placePoison g x.2 x.1.len then .fault cPOISON
    else .ok (wordsOf 16 (l.flatMap fun x => s.placeBytes g c x.2 x.1.len))

/-- The binding of a template on a core (R214). -/
def State.binding (s : State) (q c t : Nat) : Option SealSlot :=
  (s.core c).seals.find? fun b => b.tpl == t && b.owner == s.ctxIdOf q

/-- The words a start uses: the snapshot of a binding, else the table (R214). -/
def State.startWords (s : State) (q c t : Nat) : Template :=
  match s.binding q c t with
  | some b => .ok b.words
  | none => s.template q c t

def tplWord (w : List Word) (i : Nat) : Word := (w[i]?).getD 0

/-- The causes of an aperture start (R213): its channel and data, its template, its counter and its shape. -/
def State.startBad (s : State) (q c ch : Nat) (data : Word) : Option Bad :=
  if ch = 0 ∨ 32 ≤ data.toNat then some (Bad.of cPERM)
  else
    match s.startWords q c data.toNat with
    | .fault cause => some (Bad.of cause)
    | .hold => none
    | .ok w =>
      if (upFrom 10 6).any fun i => tplWord w i ≠ 0 then some (Bad.of cPERM)
      else if (shapeOf (tplWord w 3) ((upFrom 4 5).map (tplWord w))).isNone then some (Bad.of cILLOP)
      else s.tlBad q (fieldOf (tplWord w 2) 0 12) (s.place q c)

/-- The counter on which an aperture start takes a number. -/
def State.startTakes (s : State) (q c : Nat) (data : Word) : Option (Nat × Nat) :=
  match s.startWords q c data.toNat with
  | .ok w => (s.tlOf q (fieldOf (tplWord w 2) 0 12)).map fun i => (i, 1)
  | _ => none

/-- The context whose key a binding used is loaded with that key still (R215). -/
def State.keyAlive (s : State) (b : SealSlot) : Bool := (s.ctx? b.kctx).elim false fun x => x.key == some b.key

/-- An aperture start (R213, R215): a seal reads SAVECTR and SSEQ, and counts SSEQ. -/
def State.apertureStart (s0 : State) (q c ch : Nat) (data : Word) (s : State) : State :=
  match s0.startWords q c data.toNat with
  | .ok w =>
    match s0.tlOf q (fieldOf (tplWord w 2) 0 12), shapeOf (tplWord w 3) ((upFrom 4 5).map (tplWord w)) with
    | some i, some sh =>
      let r := s0.newCopy q i (tplWord w 0) (tplWord w 1) none sh
      match s0.binding q c data.toNat with
      | none => s.startCopy (dieOfSeq q) c ch r none
      | some b =>
        match s.ctx? b.kctx with
        | some k =>
          if !s.keyAlive b then s.startCopy (dieOfSeq q) c ch r (some cPERM)
          else if !b.opening && decide (k.sseq = 2 ^ 32 - 1) then s.startCopy (dieOfSeq q) c ch r (some cPERM)
          else
            let run : SealRun := { key := b.key, kctx := b.kctx, tpl := b.tpl, opening := b.opening,
                                   order := s0.accessId q c 5 0, trailer := tplWord w 9, savectr := k.savectr, sseq := k.sseq, done := [], head := none }
            let s := if b.opening then s else s.modCtx b.kctx fun k => { k with sseq := k.sseq + 1 }
            s.startCopy (dieOfSeq q) c ch { r with gen := k.gen, sealed := some run } none
        | none => s.startCopy (dieOfSeq q) c ch r (some cPERM)
    | _, _ => s
  | _ => s

/-- `c.seal` (R214): a binding keeps the template's words with the key of KCTX. -/
def semCSeal (x : LayCSeal) : Sem :=
  let t := x.tpl.toNat
  let kctxOf (w : List Word) : Nat := fieldOf (tplWord w 2) 16 16
  { slot := 6, grd := x.grd, priv := true,
    check := fun s q c =>
      if x.mode = 0 then none
      else
        match s.template q c t with
        | .fault cause => some (Bad.of cause)
        | .hold => none
        | .ok w =>
          if ((s.ctx? (kctxOf w)).bind Ctx.key).isNone then some (Bad.of cPERM)
          else if (s.binding q c t).isNone ∧ 4 ≤ ((s.core c).seals.filter fun b => b.owner == s.ctxIdOf q).length then
            some (Bad.of cQUOTA)
          else none,
    wait := fun s q c => if x.mode ≠ 0 && s.template q c t == .hold then .uncounted else .none,
    act := fun s q c k =>
      let rest := k.seals.filter fun b => !(b.tpl == t && b.owner == s.ctxIdOf q)
      if x.mode = 0 then { k with seals := rest }
      else
        match s.template q c t with
        | .ok w =>
          match (s.ctx? (kctxOf w)).bind Ctx.key with
          | some key =>
            { k with seals := rest ++ [{ owner := s.ctxIdOf q, tpl := t, words := w, key := key, kctx := kctxOf w, opening := x.mode == 2 }] }
          | none => k
        | _ => k,
    cmd := fun _ _ _ => [x.tpl.setWidth 64, x.mode.setWidth 64] }

end Sys2Proof.Machine
end

