-- ==== Sys2Proof/Machine/LoadStore.lean ====
section
/-! DEFINITION. The load slot and the store slot (R181 to R203): one `Sem` for each operation, and the requests that leave
while their bundle stands at issue (R166, R187, R194). -/

namespace Sys2Proof.Machine

/-- Bytes as the words that a redundant pair compares. -/
def asWords (bs : List Byte) : List Word := wordsOf (bs.length / 8 + 1) bs

/-! ### Plain loads (R185) -/

/-- A plain load: its bytes, its alignment, its form and its destination. -/
structure LoadSpec where
  bytes : Nat
  align : Nat
  form : LoadForm
  file : RFile

/-- A load from [an + off24]. -/
def semLoad (x : LayL) (p : LoadSpec) : Sem :=
  let spots (s : State) (q c : Nat) : Spots := s.spots q c 4 .read (runsOf (s.addr q c x.an x.off) p.bytes)
  let index (s : State) (q c : Nat) : Nat :=
    match p.file with
    | .s => x.d.toNat
    | _ => physV ((s.core c).base (s.genOf q)) x.d.toNat
  let dest (s : State) (q c : Nat) : Option Dest :=
    if p.file = .s ∧ x.d = 0 then none else some { file := p.file, index := index s q c }
  { slot := 4, grd := x.grd, mem := true, wheel := 1,
    names := fun s q c => (dest s q c).toList, own := fun s q c => (spots s q c).own,
    check := fun s q c => s.spotsBad q (misaligned (s.addr q c x.an x.off) p.bytes p.align) (spots s q c),
    wait := fun s q c => s.spotsWait q c (spots s q c),
    act := fun s q c k =>
      if (spots s q c).own then
        k.landLoad (s.genOf q) (if p.file = .s then .lS else .lV) p.file (index s q c) (s.accessId q c 4 0)
      else k,
    shared := fun s q c t =>
      let l := (spots s q c).list
      s.issueLoad q c 4 (.load p.form (allOwn l)) l p.bytes (dest s q c) t }

/-- Bytes of a scalar load. -/
def scalarBytes (sz : BitVec 3) : Nat := match sz.toNat with | 0 | 1 => 1 | 2 | 3 => 2 | 4 | 5 => 4 | _ => 8
/-- `l.s` (R185). -/
def semLS (x : LayL) : Sem :=
  semLoad x { bytes := scalarBytes x.sz, align := 0, form := .scalar (x.sz.toNat % 2 == 0), file := .s }
/-- `l.v` (R185). -/
def semLV (x : LayL) : Sem := semLoad x { bytes := 256, align := 64, form := .vector, file := .v }
/-- `l.vp` (R185). -/
def semLVp (x : LayL) : Sem := semLoad x { bytes := 4 * 2 ^ x.sz.toNat, align := 0, form := .vector, file := .v }
/-- `l.b` (R185). -/
def semLB (x : LayL) : Sem := semLoad x { bytes := 2 ^ x.sz.toNat, align := 0, form := .spread, file := .v }

/-! ### Gather (R186) -/

/-- Bytes of the own scratchpad as a load of the bundle at issue will read them: the core's stores under way have performed
by its cycle c + 3 (R183). -/
def State.ownAhead (s : State) (c : Nat) (g : Gen) (off n : Nat) : List Byte :=
  let loc := locSpad c off
  let ws := s.flights.filter fun f => f.core == c && f.due.isSome && decide (f.op = .store)
  let s := ws.foldl (fun s f => f.pieces.foldl (fun s p =>
    if isSpad p.loc && spadCore p.loc == c && !p.done then
      s.writeBytes { gen := f.gen, tagged := true, part := none } p.loc ((f.data.drop p.off).take p.len)
    else s) s) s
  s.readBytes { gen := g, tagged := true, part := none } loc n

/-- The 64 indices of a gather. -/
def State.gatherIdx (s : State) (q c : Nat) (x : LayLG) : List Nat :=
  let bs := s.ownAhead c (s.genOf q) ((s.ra q c x.ai).toNat % 2 ^ 21) 256
  (List.range 64).map fun e => wordOfBytes ((bs.drop (4 * e)).take 4)

/-- The runs of a gather or scatter: word e at B + 4 × index. -/
def elemRuns (base : Word) (idx : List Nat) : List Run :=
  (List.range idx.length).map fun e => { addr := base + BitVec.ofNat 64 (4 * (idx[e]?).getD 0), len := 4, off := 4 * e }

/-- The index register of a gather names the own scratchpad, and is 64-byte aligned; so must all its 256 bytes lie there (R186). -/
def State.gatherBad (s : State) (q c : Nat) (x : LayLG) : Option Bad :=
  match s.spots q c 4 .read (runsOf (s.ra q c x.ai) 1) with
  | .ok l =>
    if !allOwn l then some (Bad.of cXLATE)
    else if (s.ra q c x.ai).toNat % 64 ≠ 0 then some (Bad.of cALIGN)
    else if (s.spots q c 4 .read (runsOf (s.ra q c x.ai) 256)).own then none
    else some (Bad.of cXLATE)
  | _ => some (Bad.of cXLATE)

/-- `l.g` (R186). -/
def semLG (x : LayLG) : Sem :=
  let runs (s : State) (q c : Nat) : List Run := elemRuns (s.addr q c x.ab x.off) (s.gatherIdx q c x)
  let spots (s : State) (q c : Nat) : Spots := s.spots q c 4 .read (runs s q c)
  let index (s : State) (q c : Nat) : Nat := physV ((s.core c).base (s.genOf q)) x.d.toNat
  { slot := 4, grd := x.grd, mem := true, wheel := 2,
    names := fun s q c => s.vName q c x.d.toNat, own := fun s q c => (spots s q c).own,
    check := fun s q c =>
      match s.gatherBad q c x with
      | some b => some b
      | none => s.spotsBad q ((runs s q c).any fun r => misaligned r.addr 4 4) (spots s q c),
    wait := fun s q c =>
      if s.tstMeets c ((s.ra q c x.ai).toNat % 2 ^ 21) 256 then .uncounted else s.spotsWait q c (spots s q c),
    act := fun s q c k =>
      if (spots s q c).own then k.landLoad (s.genOf q) .lV .v (index s q c) (s.accessId q c 4 0) else k,
    shared := fun s q c t =>
      let l := (spots s q c).list
      s.issueLoad q c 4 (.load .vector (allOwn l)) l 256 (some { file := .v, index := index s q c }) t }

/-! ### Full/empty accesses (R187, R194, R195) -/

/-- A full/empty access: its address and what it does. -/
structure FeReq where
  slot : Nat
  grd : BitVec 3
  addr : State → Nat → Nat → Word
  /-- The granule must be full for a load, empty for a store. -/
  load : Bool
  take : Bool

def feOfLoad (x : LayL) : FeReq :=
  { slot := 4, grd := x.grd, addr := fun s q c => s.addr q c x.an x.off, load := true, take := x.fq == 2 }
def feOfStore (x : LayW) : FeReq :=
  { slot := 5, grd := x.grd, addr := fun s q c => s.addr q c x.an x.off, load := false, take := false }

/-- The granule of a full/empty access: its core and offset, and whether it is the core's own; none elsewhere (R187). -/
def FeReq.granule (r : FeReq) (s : State) (q c : Nat) : Option (Nat × Nat × Bool) :=
  match s.spots q c r.slot (if r.load then .read else .write) (runsOf (r.addr s q c) 16) with
  | .ok [(_, .own off)] => some (c, off, true)
  | .ok [(_, .peer p off)] => some (p, off, false)
  | _ => none

/-- ALIGN, and XLATE for an address outside every scratchpad (R181, R187). -/
def FeReq.bad (r : FeReq) (s : State) (q c : Nat) : Option Bad :=
  if misaligned (r.addr s q c) 16 16 then some (Bad.of cALIGN)
  else if (r.granule s q c).isNone then some (Bad.of cXLATE)
  else none

/-- The state of an own granule once the core's full/empty accesses already under way have applied (R187, R371). -/
def State.fullAhead (s : State) (c : Nat) (g : Gen) (off : Nat) : Bool :=
  let loc := locSpad c off
  let fs := s.flights.filter fun f => f.core == c && f.due.isSome && f.pieces.any fun p => p.loc == loc
  fs.foldl (fun b f =>
    match f.op with
    | .fe take _ => if take then false else b
    | .wfe => true
    | _ => b) (s.isFull g loc)

/-- The near request of a slot for the bundle at issue, once sent. -/
def State.fedAccess (s : State) (c slot : Nat) : Option Flight :=
  ((s.core c).pp.fed.find? fun e => e.1 == slot).bind fun e => s.flight? e.2

/-- What an earlier full/empty load of the bundle leaves of an own granule: `before` is its request (R371). -/
def FeReq.stateFor (r : FeReq) (before : Option FeReq) (s : State) (q c off : Nat) : Bool :=
  let b := s.fullAhead c (s.genOf q) off
  match before with
  | none => b
  | some l =>
    if r.load then b
    else
      match l.granule s q c with
      | some (_, o, true) => if s.guarded q c l.grd && o == off && l.take then false else b
      | _ => b

/-- A full/empty access holds its bundle until it will be served (R187, R194). -/
def FeReq.waits (r : FeReq) (before : Option FeReq) (s : State) (q c : Nat) : Wait :=
  match r.granule s q c with
  | none => .none
  | some (_, off, true) =>
    if s.tstMeets c off 16 then .uncounted
    else if r.stateFor before s q c off == r.load then .none else .counted
  | some (_, _, false) =>
    match s.fedAccess c r.slot with
    | some f => if f.allDone then .none else .counted
    | none => .counted

/-- The access is of class own. -/
def FeReq.isOwn (r : FeReq) (s : State) (q c : Nat) : Bool := (r.granule s q c).elim false fun g => g.2.2
/-- The own granules that the accesses of a gang need as they are: what a release reserves (R364). -/
def FeReq.grains (r : FeReq) (s : State) (q : Nat) : List Nat :=
  (s.gang q).filterMap fun c =>
    if s.guarded q c r.grd && r.isOwn s q c then (r.granule s q c).map fun g => locSpad g.1 g.2.1 else none

/-- Bytes that a `w.fe` stores. -/
def State.wfeBytes (s : State) (q c : Nat) (x : LayW) : List Byte :=
  bytesOfWord 16 (((s.core c).readV (s.genOf q) x.src.toNat).toNat / 2 ^ (128 * x.k.toNat))

/-- `l.fe` (R187). -/
def semLFe (x : LayL) : Sem :=
  let r := feOfLoad x
  let index (s : State) (q c : Nat) : Nat := physV ((s.core c).base (s.genOf q)) x.d.toNat
  { slot := 4, grd := x.grd, mem := true, wheel := 2,
    names := fun s q c => s.vName q c x.d.toNat, own := r.isOwn, grains := r.grains,
    check := fun s q c => r.bad s q c,
    wait := fun s q c => r.waits none s q c,
    act := fun s q c k =>
      match r.granule s q c with
      | some (_, _, true) => k.landLoad (s.genOf q) .lV .v (index s q c) (s.accessId q c 4 0)
      | _ => k,
    shared := fun s q c t =>
      match r.granule s q c, s.fedAccess c 4 with
      | some (_, _, true), _ =>
        s.issueLoad q c 4 (.fe r.take true) (s.spots q c 4 .read (runsOf (r.addr s q c) 16)).list 16 none t
      | _, some f => t.modFlight f.id fun f => { f with dest := some { file := .v, index := index s q c } }
      | _, none => t }

/-- `w.fe` (R194); `before` is the `l.fe` of its bundle. -/
def semWFe (x : LayW) (before : Option FeReq := none) : Sem :=
  let r := feOfStore x
  { slot := 5, grd := x.grd, mem := true, wheel := 2,
    names := fun s q c => s.vName q c x.src.toNat, own := r.isOwn, grains := r.grains,
    check := fun s q c => r.bad s q c,
    wait := fun s q c => r.waits before s q c,
    shared := fun s q c t =>
      match r.granule s q c, s.fedAccess c 5 with
      | some (_, _, true), _ =>
        s.issueStore q c 5 .wfe (s.spots q c 5 .write (runsOf (r.addr s q c) 16)).list (s.wfeBytes q c x) t
      | _, some f => t.dropFlight f.id
      | _, none => t,
    cmd := fun s q c => r.addr s q c :: asWords (s.wfeBytes q c x) }

/-- The near request of a full/empty access leaves once, while its bundle stands at issue and no long result to its vector register is
awaited (R62, R187, R194). -/
def FeReq.send (r : FeReq) (op : FlightOp) (v : Nat) (data : State → Nat → Nat → List Byte) (q : Nat) : List Nat → State → State
  | [], s => s
  | c :: rest, s =>
    let s :=
      match r.granule s q c with
      | some (_, _, false) =>
        if s.guarded q c r.grd && (s.fedAccess c r.slot).isNone && !s.fenced false c && (s.vName q c v).all fun d => (s.longTo c d).isNone then
          let l := (s.spots q c r.slot (if r.load then .read else .write) (runsOf (r.addr s q c) 16)).list
          let f := s.newFlight q c r.slot 0 op l (data s q c) none none
          (s.addFlight { f with sc := none }).modCore c fun k => { k with pp := { k.pp with fed := k.pp.fed ++ [(r.slot, f.id)] } }
        else s
      | _ => s
    FeReq.send r op v data q rest s

/-- The requests of a bundle's `l.fe` and `w.fe`. -/
def earlyLFe (x : LayL) : Early := fun s q =>
  let n := s.flights.length
  let s := (feOfLoad x).send (.fe (x.fq == 2) false) x.d.toNat (fun _ _ _ => List.replicate 16 0) q (s.gang q) s
  if s.flights.length = n then s else { s with nextId := s.nextId + bundleIds }
def earlyWFe (x : LayW) : Early := fun s q =>
  let n := s.flights.length
  let s := (feOfStore x).send .wfe x.src.toNat (fun s q c => s.wfeBytes q c x) q (s.gang q) s
  if s.flights.length = n then s else { s with nextId := s.nextId + bundleIds }

/-! ### Scale loads and link receives (R188, R189) -/

/-- `l.scl` outstanding at a core (R188). -/
def State.sclCount (s : State) (c : Nat) : Nat := (s.flights.filter fun f => f.core == c && decide (f.op = .scl)).length

/-- The `l.scl` of this bundle has left already (R166). -/
def State.sclGone (s : State) (q c : Nat) : Bool := decide ((s.core c).pp.sclSent = some (s.seq q).pc)

def State.sclSpots (s : State) (q c : Nat) (x : LayLAn) : Spots := s.spots q c 4 .read (runsOf (s.addr q c x.an x.off) 64)

/-- `l.scl` joins the accesses under way. -/
def State.sclIssue (s0 : State) (q c : Nat) (x : LayLAn) (s : State) : State :=
  let f := s0.newFlight q c 4 0 .scl (s0.sclSpots q c x).list (List.replicate 64 0) none none
  if s0.isPrimary q c then s.addFlight { f with acked := true, sc := none } else s

/-- `l.scl` (R188). -/
def semLScl (x : LayLAn) : Sem :=
  { slot := 4, grd := x.grd, mem := true, wheel := 2, own := fun s q c => (s.sclSpots q c x).own,
    check := fun s q c =>
      match s.accFirst q c with
      | some b => some b
      | none => s.spotsBad q (misaligned (s.addr q c x.an x.off) 64 64) (s.sclSpots q c x),
    wait := fun s q c =>
      if s.sclGone q c then .none
      else if 8 ≤ (s.core c).mx.scq.length + s.sclCount c then .counted
      else s.spotsWait q c (s.sclSpots q c x),
    act := fun _ _ _ k => { k with pp := { k.pp with sclSent := none } },
    shared := fun s q c t => if s.sclGone q c then t else s.sclIssue q c x t }

/-- In a bundle with a step, the `l.scl` leaves in the first cycle in which nothing of its own holds it (R166). -/
def State.sclSend (x : LayLAn) (q : Nat) : List Nat → State → State
  | [], s => s
  | c :: r, s =>
    let m := semLScl x
    let s :=
      if s.guarded q c x.grd && !s.sclGone q c && !s.fenced (m.own s q c) c && m.wait s q c == .none then
        (s.sclIssue q c x s).modCore c fun k => { k with pp := { k.pp with sclSent := some (s.seq q).pc } }
      else s
    State.sclSend x q r s
def earlyLScl (x : LayLAn) : Early := fun s q =>
  let n := s.flights.length
  let s := State.sclSend x q (s.gang q) s
  if s.flights.length = n then s else { s with nextId := s.nextId + bundleIds }

/-- LCH of a channel (R342). -/
def State.lch (s : State) (q ch : Nat) : Word := (s.ctxOf q).elim 0 fun x => x.ctl (0x380 + 8 * ch)
/-- The core of a group with a GRANK, on any die (R340). -/
def Ctx.coreOfGrank (x : Ctx) (n : Nat) : Option Nat := allDies.findSome? fun d => x.coreOfRank d n

/-- The core whose GRANK is that of a core plus a signed distance modulo NCORE (R342). -/
def State.rankAway (s : State) (q c : Nat) (by_ : Int) : Option Nat :=
  (s.ctxOf q).bind fun x =>
    if x.ncore = 0 then none
    else x.coreOfGrank ((((s.core c).sp.grank : Int) + by_) % (x.ncore : Int)).toNat

def Core.rq (k : Core) (ch : Nat) : RcvQueue := SMap.get .reset k.rcvq ch
def Core.modRq (k : Core) (ch : Nat) (f : RcvQueue → RcvQueue) : Core := { k with rcvq := SMap.modify .reset k.rcvq ch f }

/-- A record kept for a core of a parked or evicted gang changed. -/
def State.modKept (s : State) (x c : Nat) (f : Core → Core) : State :=
  s.modCtx x fun y =>
    { y with parkedAt := y.parkedAt.map fun e =>
        (e.1, { e.2 with cores := e.2.cores.map fun k => if k.1 = c then (k.1, f k.2) else k }) }
/-- A gang of a context that holds a core is parked or evicted. -/
def State.keptCore (s : State) (x c : Nat) : Bool :=
  (s.ctx? x).elim false fun y => y.parkedAt.any fun e => e.2.cores.any fun k => k.1 == c

/-- A credit returns to the sender of a channel, where its gang stands (R202, R203). -/
def State.creditBack (s : State) (x c ch : Nat) : State :=
  let f (k : Core) : Core := k.modRq ch fun r => { r with credits := r.credits + 1 }
  if s.keptCore x c then s.modKept x c f else s.modCore c f

/-- `l.rcv` (R189): the head entry is a long result. -/
def semLRcv (x : LayLRcv) : Sem :=
  let ch := x.ch.toNat
  { slot := 4, grd := x.grd, wheel := 2, chan := true, names := fun s q c => s.vName q c x.d.toNat,
    check := fun s q _ => if (s.lch q ch).getLsbD 63 then none else some (Bad.of cLINKFLT),
    wait := fun s _ c => if ((s.core c).rq ch).entries.isEmpty then .counted else .none,
    shared := fun s q c t =>
      let t := t.modCore c fun k => k.modRq ch fun r => { r with entries := r.entries.drop 1 }
      if !s.isPrimary q c then t
      else
        let g := s.genOf q
        let v := (((s.core c).rq ch).entries[0]?).elim (0 : VWord) fun e => e.read g
        let d : Dest := { file := .v, index := physV ((s.core c).base g) x.d.toNat }
        let f := s.newFlight q c 4 0 .rcv [] (bytesOfWord 256 v.toNat) (some d) none
        let t := t.addFlight { f with sc := none }
        match s.rankAway q c (-(s.lch q ch |>.extractLsb' 0 16).toInt) with
        | some from_ => t.creditBack (s.ctxIdOf q) from_ ch
        | none => t }

/-! ### Address registers and MPC (R190) -/

/-- `l.aadd` (R190). -/
def semLAadd (x : LayLAadd) : Sem :=
  { slot := 4, grd := x.grd,
    names := fun _ _ _ => if x.i = 0 then sName (x.b.extractLsb' 38 6) else [],
    act := fun s q c k =>
      let b := if x.i = 0 then s.rs q c (x.b.extractLsb' 38 6) else x.b.signExtend 64
      k.land (s.genOf q) .lA .a x.ad.toNat (BitVec.allOnes 128) (asV (s.ra q c x.an + b)) 1 }
/-- `l.ali` (R190). -/
def semLAli (x : LayLAli) : Sem :=
  { slot := 4, grd := x.grd,
    act := fun s q _ k => k.land (s.genOf q) .lA .a x.ad.toNat (BitVec.allOnes 128) (x.imm.setWidth 2048) 1 }
/-- `l.amov` (R190). -/
def semLAmov (x : LayLAmov) : Sem :=
  { slot := 4, grd := x.grd, names := fun _ _ _ => sName x.sa,
    act := fun s q c k => k.land (s.genOf q) .lA .a x.ad.toNat (BitVec.allOnes 128) (asV (s.rs q c x.sa)) 2 }
/-- `l.mpc` (R190): the lead core decides. -/
def semLMpc (x : LayLAn) : Sem :=
  { slot := 4, grd := x.grd, cls := .lead,
    once := fun s q t => t.modSeq q fun z => { z with post := z.post ++ [(1, s.addr q (s.lead q) x.an x.off)] } }

/-! ### Stores (R192, R193, R213) -/

/-- A store's place in the aperture, when every byte lies there (R213). -/
def apertureOf (l : List (Run × Place)) : Option (Nat × Nat) :=
  l.findSome? fun x => match x.2 with | .aperture ch off => some (ch, off) | _ => none

/-- An aperture channel is full: 4 copies queued (R213). -/
def State.chanFull (s : State) (c ch : Nat) : Bool := decide (4 ≤ ((s.core c).chanOf ch).length)

/-- A store to [an + off24]: `start` gives the data of a start that an 8-byte `w.s` makes in the aperture (R213). -/
def semStore (slotGrd : BitVec 3) (bytes align : Nat) (addr : State → Nat → Nat → Word) (data : State → Nat → Nat → List Byte)
    (names : State → Nat → Nat → List Dest) (start : Bool) : Sem :=
  let spots (s : State) (q c : Nat) : Spots := s.spots q c 5 .write (runsOf (addr s q c) bytes)
  { slot := 5, grd := slotGrd, mem := true, wheel := 1, names := names, own := fun s q c => (spots s q c).own,
    takes := fun s q c => (apertureOf (spots s q c).list).bind fun _ => s.startTakes q c (wordOf (data s q c)),
    check := fun s q c =>
      match s.spotsBad q (misaligned (addr s q c) bytes align) (spots s q c) with
      | some b => some b
      | none =>
        match apertureOf (spots s q c).list with
        | none => none
        | some (ch, off) =>
          if start && off == 0 then s.startBad q c ch (wordOf (data s q c)) else some (Bad.of cPERM),
    wait := fun s q c =>
      match apertureOf (spots s q c).list with
      | some (ch, _) =>
        if s.startWords q c (wordOf (data s q c)).toNat == .hold then .uncounted
        else if s.chanFull c ch then .counted else .none
      | none =>
        match s.spotsWait q c (spots s q c) with
        | .none => if s.allowWaits q c (fun d => spotWindows (spots s q d).list) then .counted else .none
        | w => w,
    shared := fun s q c t =>
      let l := (spots s q c).list
      match apertureOf l with
      | some (ch, _) => if s.isPrimary q c then s.apertureStart q c ch (wordOf (data s q c)) t else t
      | none => s.issueStore q c 5 .store l (data s q c) t,
    cmd := fun s q c => addr s q c :: asWords (data s q c) }

/-- `w.s` (R192). -/
def semWS (x : LayW) : Sem :=
  let n := 2 ^ x.sz.toNat
  semStore x.grd n 0 (fun s q c => s.addr q c x.an x.off)
    (fun s q c => bytesOfWord n (s.rs q c (x.src.extractLsb' 0 6)).toNat) (fun _ _ _ => sName (x.src.extractLsb' 0 6)) (n == 8)
/-- `w.v` (R192). -/
def semWV (x : LayW) : Sem :=
  semStore x.grd 256 64 (fun s q c => s.addr q c x.an x.off)
    (fun s q c => bytesOfWord 256 ((s.core c).readV (s.genOf q) x.src.toNat).toNat) (fun s q c => s.vName q c x.src.toNat) false
/-- `w.vp` (R192). -/
def semWVp (x : LayW) : Sem :=
  let n := 4 * 2 ^ x.sz.toNat
  semStore x.grd n 0 (fun s q c => s.addr q c x.an x.off)
    (fun s q c => bytesOfWord n (((s.core c).readV (s.genOf q) x.src.toNat).toNat / 2 ^ (8 * n * x.k.toNat)))
    (fun s q c => s.vName q c x.src.toNat) false

/-- `w.sc` (R193): a word for each element, the higher e last. -/
def semWSc (x : LayWSc) : Sem :=
  let runs (s : State) (q c : Nat) : List Run :=
    elemRuns (s.addr q c x.an x.off) (elems 32 ((s.core c).readV (s.genOf q) x.vi.toNat))
  let spots (s : State) (q c : Nat) : Spots := s.spots q c 5 .write (runs s q c)
  let data (s : State) (q c : Nat) : List Byte := bytesOfWord 256 ((s.core c).readV (s.genOf q) x.vs.toNat).toNat
  { slot := 5, grd := x.grd, mem := true, wheel := 2,
    names := fun s q c => s.vName q c x.vs.toNat ++ s.vName q c x.vi.toNat, own := fun s q c => (spots s q c).own,
    check := fun s q c =>
      match s.spotsBad q ((runs s q c).any fun r => misaligned r.addr 4 4) (spots s q c) with
      | some b => some b
      | none => if (apertureOf (spots s q c).list).isSome then some (Bad.of cPERM) else none,
    wait := fun s q c =>
      match s.spotsWait q c (spots s q c) with
      | .none => if s.allowWaits q c (fun d => spotWindows (spots s q d).list) then .counted else .none
      | w => w,
    shared := fun s q c t => s.issueStore q c 5 .store (spots s q c).list (data s q c) t,
    cmd := fun s q c =>
      s.addr q c x.an x.off :: asWords (data s q c) ++
        asWords (bytesOfWord 256 ((s.core c).readV (s.genOf q) x.vi.toNat).toNat) }

/-! ### Atomics and reductions (R196 to R199) -/

def aopOf (n : Nat) : Aop :=
  match n with
  | 0 => .add | 1 => .min | 2 => .max | 3 => .minz | 4 => .maxz | 5 => .and | 6 => .or | 7 => .xor | 8 => .xchg | _ => .fadd

/-- Bytes of an atomic's location (R197). -/
def atomBytes (ty : Nat) : Nat := if ty = 0 then 8 else 4

/-- f(M, V) of R197 at a width in bits. -/
def atomFn (op : Aop) (level w m v : Nat) : Nat :=
  let sm := signed w m
  let sv := signed w v
  match op with
  | .add => (m + v) % 2 ^ w
  | .min => if sm ≤ sv then m else v
  | .max => if sm ≥ sv then m else v
  | .minz => min m v
  | .maxz => max m v
  | .and => (BitVec.ofNat 64 m &&& BitVec.ofNat 64 v).toNat
  | .or => (BitVec.ofNat 64 m ||| BitVec.ofNat 64 v).toNat
  | .xor => (BitVec.ofNat 64 m ^^^ BitVec.ofNat 64 v).toNat
  | .xchg => v
  | .fadd => fpElem .add level 0 .rne false [m, v]

/-- The value an atomic returns (R197). -/
def atomReturn (ty m : Nat) : Word :=
  match ty with
  | 1 => BitVec.ofInt 64 (signed 32 m)
  | _ => BitVec.ofNat 64 m

/-- An atomic at [an + off24] with a scalar destination, or a scalar reduction without one. -/
def semAtomAt (grd : BitVec 3) (ty : Nat) (an : BitVec 4) (off : BitVec 24) (dest : Option (BitVec 6)) (srcs : List (BitVec 6))
    (op : State → Nat → Nat → FlightOp) (operands : State → Nat → Nat → List Word) : Sem :=
  let n := atomBytes ty
  let spots (s : State) (q c : Nat) : Spots := s.spots q c 5 .both (runsOf (s.addr q c an off) n)
  { slot := 5, grd := grd, mem := true, wheel := 1,
    names := fun _ _ _ => srcs.flatMap sName ++ dest.elim [] sName, own := fun s q c => (spots s q c).own,
    check := fun s q c =>
      match s.spotsBad q (misaligned (s.addr q c an off) n n) (spots s q c) with
      | some b => some b
      | none => if (apertureOf (spots s q c).list).isSome then some (Bad.of cPERM) else none,
    wait := fun s q c =>
      match s.spotsWait q c (spots s q c) with
      | .none =>
        if dest.isNone && s.allowWaits q c (fun d => spotWindows (spots s q d).list) then .counted else .none
      | w => w,
    shared := fun s q c t =>
      let l := (spots s q c).list
      match dest with
      | some d =>
        s.issueAtom q c 5 (op s q c) l n (if d = 0 then none else some { file := .s, index := d.toNat }) t
      | none => s.issueStore q c 5 (op s q c) l (List.replicate n 0) t,
    cmd := fun s q c => s.addr q c an off :: operands s q c }

/-- `w.atom` (R197). -/
def semWAtom (x : LayWAtom) : Sem :=
  semAtomAt x.grd x.ty.toNat x.an x.off (some x.sd) [x.sv]
    (fun s q c => .atom (aopOf x.aop.toNat) x.ty.toNat (s.rs q c x.sv) true) (fun s q c => [s.rs q c x.sv])
/-- `w.cas` (R198). -/
def semWCas (x : LayWCas) : Sem :=
  semAtomAt x.grd x.ty.toNat x.an x.off (some x.sd) [x.sc, x.sn]
    (fun s q c => .cas x.ty.toNat (s.rs q c x.sc) (s.rs q c x.sn)) (fun s q c => [s.rs q c x.sc, s.rs q c x.sn])

/-- Vector `w.red`: 64 words, ascending (R199). -/
def semWRedV (x : LayWRed) : Sem :=
  let addr (s : State) (q c : Nat) : Word := s.addr q c x.an x.off
  let runs (s : State) (q c : Nat) : List Run := elemRuns (addr s q c) (List.range 64)
  let spots (s : State) (q c : Nat) : Spots := s.spots q c 5 .both (runs s q c)
  let v (s : State) (q c : Nat) : VWord := (s.core c).readV (s.genOf q) x.src.toNat
  { slot := 5, grd := x.grd, mem := true, wheel := 1, names := fun s q c => s.vName q c x.src.toNat,
    own := fun s q c => (spots s q c).own,
    check := fun s q c =>
      match s.spotsBad q (misaligned (addr s q c) 256 256) (spots s q c) with
      | some b => some b
      | none => if (apertureOf (spots s q c).list).isSome then some (Bad.of cPERM) else none,
    wait := fun s q c =>
      match s.spotsWait q c (spots s q c) with
      | .none => if s.allowWaits q c (fun d => spotWindows (spots s q d).list) then .counted else .none
      | w => w,
    shared := fun s q c t =>
      s.issueStore q c 5 (.redv (aopOf x.aop.toNat) x.ty.toNat (v s q c)) (spots s q c).list (List.replicate 256 0) t,
    cmd := fun s q c => addr s q c :: asWords (bytesOfWord 256 (v s q c).toNat) }

/-- `w.red` (R199). -/
def semWRed (x : LayWRed) : Sem :=
  if x.vec = 1 then semWRedV x
  else
    let sv := x.src.extractLsb' 0 6
    semAtomAt x.grd x.ty.toNat x.an x.off none [sv]
      (fun s q c => .atom (aopOf x.aop.toNat) x.ty.toNat (s.rs q c sv) false) (fun s q c => [s.rs q c sv])

/-! ### Link send (R202) -/

/-- The tick at which a bundle that finds no send credit came to stand so, once for the bundle (R202, R420). -/
def State.creditStand (s : State) (q : Nat) (stalls : Nat → Bool) : State :=
  let y := s.seq q
  if (s.gang q).any stalls && (y.creditAt.all fun e => e.1 != y.issued) then
    s.modSeq q fun y => { y with creditAt := some (y.issued, s.ticks) }
  else s

/-- `w.snd` (R202): a credit, and 256 bytes on their way to the receive queue bound to the channel. -/
def semWSnd (x : LayWSnd) : Sem :=
  let ch := x.ch.toNat
  let v (s : State) (q c : Nat) : VWord := (s.core c).readV (s.genOf q) x.vs.toNat
  { slot := 5, grd := x.grd, wheel := 2, chan := true, names := fun s q c => s.vName q c x.vs.toNat,
    check := fun s q _ => if (s.lch q ch).getLsbD 63 then none else some (Bad.of cLINKFLT),
    wait := fun s _ c => if ((s.core c).rq ch).credits = 0 then .uncounted else .none,
    stand := fun q s => s.creditStand q fun c => s.guarded q c x.grd && ((s.core c).rq ch).credits == 0,
    shared := fun s q c t =>
      let t := t.modCore c fun k => k.modRq ch fun r => { r with credits := r.credits - 1 }
      if !s.isPrimary q c then t
      else
        match s.rankAway q c (s.lch q ch |>.extractLsb' 0 16).toInt with
        | some target =>
          let f := s.newFlight q c 5 0 (.send target ch) [] (bytesOfWord 256 (v s q c).toNat) none none
          t.addFlight { f with acked := false, sc := none }
        | none => t,
    cmd := fun s q c => x.ch.setWidth 64 :: asWords (bytesOfWord 256 (v s q c).toNat) }

end Sys2Proof.Machine
end

