-- ==== Sys2Proof/Machine/Sync.lean ====
section
/-! DEFINITION. The sync slot but for timelines and claims (R227 to R229, R233 to R235, R242 to R246, R366, R367). -/

namespace Sys2Proof.Machine

/-! ### Fences and drains (R228 to R230, R377) -/

/-- An operation that names a scope performs at the clipped scope, which a clip records (R377, R378). -/
def State.fenceAct (s : State) (q : Nat) (scope : Nat) (k : Core) : Core :=
  let sc := s.clippedScope (partOf (s.ctxIdOf q)) scope
  let k := { k with pp := { k.pp with fences := k.pp.fences ++ [{ scope := sc, upto := s.nextId + bundleIds }] } }
  if sc = scope then k else k.clip (s.genOf q) scope

/-- `y.fence` (R228). -/
def semYFence (x : LayYScope) : Sem :=
  { slot := 7, grd := x.grd, act := fun s q _ k => s.fenceAct q x.scope.toNat k }

/-- OUT is 0 in every window of a tier that the scope covers (R229). -/
def State.outsDone (s : State) (q scope : Nat) : Bool :=
  match s.ctxOf q with
  | none => true
  | some x =>
    (List.range 16).all fun w =>
      x.out w == 0 || !scopeCovers scope (s.windowTier (dieOfSeq q) (fieldOf (x.win w 1) 16 48 * 2 ^ 16))

/-- `y.drain` (R229). -/
def semYDrain (x : LayYScope) : Sem :=
  { slot := 7, grd := x.grd,
    wait := fun s q c =>
      let sc := s.clippedScope (partOf (s.ctxIdOf q)) x.scope.toNat
      if s.performed c sc s.nextId && s.outsDone q sc then .none else .counted,
    act := fun s q _ k => s.fenceAct q x.scope.toNat k }

/-! ### Phasers (R227, R366, R367) -/

def State.phaser (s : State) (d n : Nat) : Phaser := SMap.get .reset (s.die d).phasers n
def State.setPhaser (s : State) (d n : Nat) (x : Phaser) : State :=
  s.modDie d fun y => { y with phasers := SMap.set .reset y.phasers n x }

/-- The physical phaser of an index, when the quota grants it (R221, R356). -/
def State.phOf (s : State) (q n : Nat) : Option Nat :=
  let w := s.quota q 0x18
  if n < fieldOf w 32 11 then some ((fieldOf w 16 10 + n) % 1024) else none

def Phaser.member (p : Phaser) (q : Nat) : Option PhMember := p.members.find? fun m => m.seq == q
def Phaser.modMember (p : Phaser) (q : Nat) (f : PhMember → PhMember) : Phaser :=
  { p with members := p.members.map fun m => if m.seq = q then f m else m }

/-- The members that signal. -/
def Phaser.signallers (p : Phaser) : List PhMember := p.members.filter fun m => m.kind != 2

/-- The completion test in a tick, once for each phase now met: members that joined in that tick stand outside it (R227, R367). With no
signaller left no phase completes, also where a signaller that still owed the phase has just dropped: DESIGN CHOICE (log entry 71). -/
def Phaser.complete (now : Nat) : (fuel : Nat) → Phaser → Phaser
  | 0, p => p
  | f + 1, p =>
    let ms := p.signallers.filter fun m => decide (m.joined ≠ some now)
    if !ms.isEmpty && ms.all fun m => decide (p.p < SMap.get 0 p.counted m.seq) then
      Phaser.complete now f { p with p := p.p + 1 }
    else p

/-- A member that joins, or that joined in this tick, counts from the phase after P (R227, R367). -/
def Phaser.entrant (p : Phaser) (m : PhMember) : PhMember := { m with s := p.p + 1, w := p.p + 1 }

/-- The members that joined in a tick count from the P that its completions leave (R367). -/
def Phaser.rebase (p : Phaser) (now : Nat) : Phaser :=
  let new := p.members.filter fun m => decide (m.joined = some now)
  { p with members := p.members.map fun m => if m.joined = some now then p.entrant m else m,
           counted := new.foldl (fun c m => SMap.set 0 c m.seq (p.p + 1)) p.counted }

/-- Phases that the counted signals could meet. -/
def Phaser.span (p : Phaser) : Nat := p.counted.foldl (fun n e => max n e.2) 0 - p.p + 1
def Phaser.settle (p : Phaser) (now : Nat) : Phaser := (p.complete now p.span).rebase now

/-- Signals whose gang's earlier writes have performed at die scope count, in ascending sequencer (R227, R367). -/
def State.phSettle (s : State) (d n : Nat) : State :=
  let p := s.phaser d n
  let ready (g : PhSignal) : Bool := g.cores.all fun c => s.stored c g.upto
  let now := p.signals.filter ready
  if now.isEmpty then s
  else
    let p := { p with signals := p.signals.filter fun g => !ready g }
    let p := now.foldl (fun p g => { p with counted := SMap.modify 0 p.counted g.seq (max (g.phase + 1)) }) p
    s.setPhaser d n (p.settle s.ticks)
def State.phSettleAll (s : State) (d : Nat) : State :=
  ((s.die d).phasers.filter fun e => !e.2.signals.isEmpty).foldl (fun s e => s.phSettle d e.1) s

/-- A phaser of the partition, or QUOTA; PERM where another context owns it; ILLOP where the membership does not allow the
operation (R227, R366). -/
def State.phBad (s : State) (q n : Nat) (fit : Option PhMember → Bool) : Option Bad :=
  match s.phOf q n with
  | none => some (Bad.of cQUOTA)
  | some i =>
    let p := s.phaser (dieOfSeq q) i
    if p.owner.isSome && p.owner != (s.seq q).ctx then some (Bad.of (if fit none then cPERM else cILLOP))
    else if fit (p.member q) then none else some (Bad.of cILLOP)

def State.phMod (t : State) (s : State) (q n : Nat) (f : Phaser → Phaser) : State :=
  match s.phOf q n with
  | some i => t.setPhaser (dieOfSeq q) i (f (t.phaser (dieOfSeq q) i))
  | none => t

/-- A sync token is short for a phaser operation (R358). -/
def syncWait (s : State) (q _ : Nat) : Wait := if s.syncShort q 1 then .counted else .none
/-- The token of a phaser operation, on the lead core's guard. -/
def oneToken (grd : BitVec 3) (s : State) (q : Nat) : Nat := bit ((s.core (s.lead q)).readQ (s.genOf q) grd.toNat)

/-- `y.phreg` (R227, R366). -/
def semYPhreg (x : LayYPhr) : Sem :=
  { slot := 7, grd := x.grd, cls := .lead,
    check := fun s q _ => s.phBad q x.ph.toNat Option.isNone,
    wait := syncWait, tokens := oneToken x.grd,
    once := fun s q t =>
      (t.phMod s q x.ph.toNat fun p =>
        let m : PhMember := p.entrant { seq := q, kind := x.mode.toNat, s := 0, w := 0, joined := some s.ticks }
        { p with owner := (s.seq q).ctx, members := p.members ++ [m], counted := SMap.set 0 p.counted q (p.p + 1) }).syncSpend q 1 }

/-- A member leaves; the last one leaves the phaser unused (R227, R366). -/
def Phaser.drop (p : Phaser) (q now : Nat) : Phaser :=
  let ms := p.members.filter fun m => m.seq != q
  if ms.isEmpty then .reset
  else ({ p with members := ms, signals := p.signals.filter fun g => g.seq != q, counted := SMap.set 0 p.counted q 0 } : Phaser).settle now

/-- `y.phdrop` (R227, R366). -/
def semYPhdrop (x : LayYPh) : Sem :=
  { slot := 7, grd := x.grd, cls := .lead,
    check := fun s q _ => s.phBad q x.ph.toNat Option.isSome,
    wait := syncWait, tokens := oneToken x.grd,
    once := fun s q t => (t.phMod s q x.ph.toNat fun p => p.drop q s.ticks).syncSpend q 1 }

/-- `y.phsig` (R227). -/
def semYPhsig (x : LayYPh) : Sem :=
  { slot := 7, grd := x.grd, cls := .lead,
    check := fun s q _ => s.phBad q x.ph.toNat fun m => m.elim false fun m => m.kind != 2,
    wait := fun s q _ =>
      let ahead := ((s.phOf q x.ph.toNat).bind fun i =>
        ((s.phaser (dieOfSeq q) i).member q).map fun m => decide ((s.phaser (dieOfSeq q) i).p + 1 < m.s)).getD false
      if ahead || s.syncShort q 1 then .counted else .none,
    tokens := oneToken x.grd,
    once := fun s q t =>
      let t := t.phMod s q x.ph.toNat fun p =>
        let phase := (p.member q).elim 0 PhMember.s
        let g : PhSignal := { seq := q, phase := phase, cores := s.gang q, upto := s.nextId }
        { p.modMember q (fun m => { m with s := m.s + 1 }) with signals := p.signals ++ [g] }
      let t := t.syncSpend q 1
      match s.phOf q x.ph.toNat with
      | some i => t.phSettle (dieOfSeq q) i
      | none => t }

/-- `y.phwait` (R227). -/
def semYPhwait (x : LayYPh) : Sem :=
  { slot := 7, grd := x.grd, cls := .lead,
    check := fun s q _ => s.phBad q x.ph.toNat fun m => m.elim false fun m => m.kind != 1,
    wait := fun s q _ =>
      let short := ((s.phOf q x.ph.toNat).bind fun i =>
        ((s.phaser (dieOfSeq q) i).member q).map fun m => decide ((s.phaser (dieOfSeq q) i).p < m.w)).getD false
      if short then .counted else .none,
    once := fun s q t => t.phMod s q x.ph.toNat fun p => p.modMember q fun m => { m with w := m.w + 1 } }

/-! ### Spawn, join and retire (R233 to R235) -/

def State.setFin (s : State) (q : Nat) (f : Fin) : State := s.modSeq q fun x => { x with fin := some f }

/-- The sizes a gang may have. -/
def gangSizeOk (n : Nat) : Bool := n == 1 || n == 2 || n == 4 || n == 8

/-- ILLOP for the mask of a spawn (R233 item 1). -/
def State.spawnMaskBad (s : State) (q : Nat) (m : Word) : Bool :=
  let n := (s.gang q).length
  let k := popcount 16 (m.toNat % 2 ^ 16)
  decide (2 ^ 16 ≤ m.toNat) || m.getLsbD 0 || decide (2 ^ n ≤ m.toNat % 2 ^ 16) || !gangSizeOk k || !gangSizeOk (n - k)

/-- A loaded context whose placement names a sequencer. -/
def State.placedOn (s : State) (q : Nat) : List Nat :=
  (s.ctxs.filter fun e => e.2.elim false fun c => c.gangs.any fun g => g.seq == q).map Prod.fst

/-- The contexts that a sequencer runs, holds, or has a placement for. -/
def State.claimants (s : State) (r : Nat) : List Nat := s.placedOn r ++ (s.seq r).ctx.toList

/-- PERM and SPBUSY of a spawn (R233 items 2 and 3, R350). -/
def State.spawnBusy (s : State) (q r : Nat) : Option Nat :=
  let me := s.ctxIdOf q
  if (s.claimants r).any fun x => partOf x != partOf me then some cPERM
  else if s.paired q && !s.paired r then some cPERM
  else if (s.seq r).phase != .idle || ((s.claimants r).any fun x => x != me) then some cSPBUSY
  else none

/-- `y.spawn` (R233). -/
def semYSpawn (x : LayYSpawn) : Sem :=
  { slot := 7, grd := x.grd, cls := .lead, names := fun _ _ _ => sName x.se ++ sName x.sm,
    lands := fun _ _ _ => (upFrom x.ab.toNat 8).flatMap fun n => sName (BitVec.ofNat 6 n),
    -- The sequencer's own index is a function value that no entry assigns, whatever the guard (R40, R64 item 2).
    always := fun _ q _ => if sibSeq q x.sib.toNat = q then some (Bad.of cILLOP) else none,
    check := fun s q c =>
      if s.spawnMaskBad q (s.rs q c x.sm) then some (Bad.of cILLOP) else (s.spawnBusy q (sibSeq q x.sib.toNat)).map Bad.of,
    once := fun s q t =>
      let l := s.lead q
      let m := (s.rs q l x.sm).toNat % 2 ^ 16
      let vals := (s.allCores q).map fun c => (c, (upFrom x.ab.toNat 8).map fun n => (s.core c).readS (s.genOf q) n)
      t.setFin q (.spawn (sibSeq q x.sib.toNat) (lineAddr (s.rs q l x.se)) m vals),
    cmd := fun s q c => [x.sib.setWidth 64, s.rs q c x.se, s.rs q c x.sm] ++
      (upFrom x.ab.toNat 8).map fun n => (s.core c).readS (s.genOf q) n }

/-- `y.join` (R234). -/
def semYJoin (x : LayYJoin) : Sem :=
  { slot := 7, grd := x.grd, cls := .lead,
    check := fun s q _ =>
      if (s.seq q).sibs.any fun b => b.seq == sibSeq q x.sib.toNat then none else some (Bad.of cILLOP),
    wait := fun s q _ => if (s.seq (sibSeq q x.sib.toNat)).phase == .retired then .none else .counted,
    once := fun _ q t => t.setFin q (.join (sibSeq q x.sib.toNat)) }

/-- `y.retire` (R235). -/
def semYRetire (x : LayYNone) : Sem :=
  { slot := 7, grd := x.grd, cls := .lead, once := fun _ q t => t.setFin q .retire }

/-! ### Traps, generations, events and debug (R242 to R246) -/

/-- `y.trap` (R242). -/
def semYTrap (x : LayYImm) : Sem :=
  { slot := 7, grd := x.grd, cls := .lead,
    check := fun _ _ _ => some { cause := cTRAP, info := x.imm.toNat, late := true } }

/-- `y.tret` (R243). -/
def semYTret (x : LayYNone) : Sem :=
  { slot := 7, grd := x.grd, cls := .lead,
    check := fun s q _ => if s.acting q then none else some (Bad.of cILLOP),
    once := fun _ q t => t.setFin q .tret }

/-- Another sequencer of the context runs or is held for a join (R244). -/
def State.othersOf (s : State) (q : Nat) : Bool :=
  allSeqs.any fun r => r != q && (s.seq r).ctx == (s.seq q).ctx && (s.seq r).phase != .idle &&
    ((s.seq r).phase != .retired || (s.seq r).parent.isSome)

/-- `y.geninc` (R244). -/
def semYGeninc (x : LayYNone) : Sem :=
  { slot := 7, grd := x.grd, cls := .lead, priv := true,
    check := fun s q _ =>
      if s.othersOf q then some (Bad.of cILLOP)
      else if s.nextGen.isNone then some (Bad.of cQUOTA)
      else none,
    once := fun _ q t => t.setFin q .geninc }

/-- Records that wait for earlier writes before they are posted to a partition's ring (R245). -/
def State.eventsDue (s : State) (p : Nat) : Nat :=
  (s.flights.filter fun f => partOf f.ctx == p && (match f.op with | .event _ => true | _ => false)).length

/-- The ring of a partition has no room for one more record. -/
def State.ringShort (s : State) (p : Nat) : Bool :=
  let v := s.vf p
  decide (v.ringSize ≤ (v.evtail - v.evhead).toNat + s.eventsDue p)

/-- Records whose gang's earlier writes have performed at host scope are posted, in the order given (R245). -/
def State.eventSettle (s : State) : State :=
  s.flights.foldl (fun t f =>
    match f.op with
    | .event cores =>
      if cores.all fun c => t.performedHost c f.bnd then
        let v := t.vf (partOf f.ctx)
        let t := if v.ringFull then t.setVf (partOf f.ctx) (v.later f.data) else (t.putRaw v.ringLoc f.data).setVf (partOf f.ctx) v.posted
        t.dropFlight f.id
      else t
    | _ => t) s

/-- `y.evt` (R245): the record follows every write the gang issued before it. -/
def semYEvt (x : LayYEvt) : Sem :=
  { slot := 7, grd := x.grd, cls := .lead, names := fun _ _ _ => sName x.sa,
    wait := fun s q _ => if s.ringShort (partOf (s.ctxIdOf q)) then .counted else .none,
    once := fun s q t =>
      let l := s.lead q
      let f := s.newFlight q l 7 0 (.event (s.gang q)) [] (eventRecord (s.rs q l x.sa) x.code.toNat (s.ctxIdOf q) false) none none
      (t.addFlight { f with sc := none }).eventSettle,
    cmd := fun s q c => [s.rs q c x.sa, x.code.setWidth 64] }

/-- The debug port may act on a context's cores of a die (R246, R329, R473). -/
def State.debugOk (s : State) (x d : Nat) : Bool :=
  match s.ctx? x with
  | none => false
  | some c => !c.image.isProtected && (s.fuses.lcs != 2 || (s.dctl d (0x4000 + 0x40 * partOf x + 0x30)).getLsbD 0)

/-- `y.dbg` (R246). -/
def semYDbg (x : LayYImm) : Sem :=
  { slot := 7, grd := x.grd, cls := .lead,
    once := fun s q t => if s.debugOk (s.ctxIdOf q) (dieOfSeq q) then t.setFin q (.halt x.imm.toNat) else t }

end Sys2Proof.Machine
end

