-- ==== Sys2Proof/Machine/Route.lean ====
section
/-! DEFINITION. The fabric: identities and routes (R392, R407 to R409), flits and their queues (R410 to R412), and how the
remote accesses of this package become flits (R200 to R202). -/

namespace Sys2Proof.Machine

/-! ### Identities -/

/-- SELFID of a die (R409). -/
def State.selfFab (s : State) (d : Nat) : BitVec 18 := (s.dctl d 0xB300).extractLsb' 46 18
def fabPod (f : BitVec 18) : Nat := f.toNat / 2 ^ 10
def fabBoard (f : BitVec 18) : Nat := f.toNat / 2 ^ 4 % 2 ^ 6
def fabDevice (f : BitVec 18) : Nat := f.toNat % 16
/-- The destination lies on the package of a die (R409). -/
def State.ownPackage (s : State) (d : Nat) (f : BitVec 18) : Bool := (s.selfFab d).toNat / 8 == f.toNat / 8
/-- The die of this package that a fabric identity names, when it is one. -/
def State.dieOfFab (s : State) (f : BitVec 18) : Option Nat := allDies.find? fun d => s.selfFab d == f

/-! ### The package ring (R407, R408) -/

/-- The port at the other end of a package-ring port. -/
def ringPeer (d p : Nat) : Nat × Nat := if p = 0 then ((d + 1) % 8, 1) else ((d + 7) % 8, 0)
/-- A hop from a die, clockwise or not, is Up at both ends (R414). -/
def State.hopUp (s : State) (d : Nat) (cw : Bool) : Bool :=
  let p := if cw then 0 else 1
  (s.port d p).phase == .up && (s.port (ringPeer d p).1 (ringPeer d p).2).phase == .up
def ringHops (d e : Nat) (cw : Bool) : Nat := if cw then (e + 8 - d) % 8 else (d + 8 - e) % 8
/-- Every hop of a way is Up (R408). -/
def State.wayUp (s : State) (d e : Nat) (cw : Bool) : Bool :=
  (List.range (ringHops d e cw)).all fun i => s.hopUp (if cw then (d + i) % 8 else (d + 8 - i) % 8) cw
/-- The direction a source station chooses (R408). -/
def State.ringWay (s : State) (d e : Nat) : Option Bool :=
  let first :=
    if ringHops d e true < ringHops d e false then true
    else if ringHops d e false < ringHops d e true then false
    else decide (d % 2 = 0)
  if s.wayUp d e first then some first else if s.wayUp d e (!first) then some (!first) else none

/-! ### Ports (R407) -/

/-- A port is present on a die. -/
def State.portPresent (s : State) (d p : Nat) : Bool :=
  decide (p < 2) || (decide (p < 4) && d % 2 == 0) || (decide (p < 6) && d % 2 == 0 && (s.dctl d 0xB310).getLsbD 2)

/-- Where a flit goes next from a station (R408, R409). -/
inductive Hop where
  /-- The package ring, clockwise or not. -/
  | ring (clockwise : Bool)
  | port (p : Nat)
  | here
  | refuse (reason : Nat)
  deriving DecidableEq, Repr

/-- A flit bound for a die of the package: the direction chosen before stands while its next hop is Up (R408). -/
def State.toDie (s : State) (d e : Nat) (chosen : Option Bool) : Hop :=
  if e = d then .here
  else
    match chosen with
    | some cw => if s.hopUp d cw then .ring cw else .refuse 6
    | none => (s.ringWay d e).elim (.refuse 6) .ring

/-- The route from a station (R409). -/
def State.route (s : State) (d : Nat) (f : Flit) : Hop :=
  if s.ownPackage d f.dst then s.toDie d (f.dst.toNat % 8) f.note.clockwise
  else if d % 2 = 1 then s.toDie d (d - 1) none
  else
    let self := s.selfFab d
    let e := if fabPod f.dst = fabPod self then s.dctl d (0xC000 + 8 * (2 * fabBoard f.dst + fabDevice f.dst / 8))
      else s.dctl d (0xC400 + 8 * fabPod f.dst)
    let p := fieldOf e 0 4
    if !e.getLsbD 7 then .refuse 5
    else if p = 15 then s.toDie d (f.dst.toNat % 8) f.note.clockwise
    else
      match s.portPresent d p, (s.port d p).phase with
      | true, .up => .port p
      | true, .held => .port p
      | _, _ => .refuse 6

/-! ### Flits (R410) -/

/-- A flit with a header as a die sends it. -/
def State.newFlit (s : State) (d : Nat) (dst : BitVec 18) (kind : Nat) (mask : BitVec 64) (gen : Gen) (ctx loc : Nat)
    (payload : Line) (note : FlitNote) : Flit :=
  { mask := mask, dst := dst, src := s.selfFab d, kind := BitVec.ofNat 4 kind, gen := gen, ctxid := BitVec.ofNat 16 ctx,
    addr := BitVec.ofNat 46 loc, epoch := 0, seq := 0, rsv := 0, payload := payload, note := note }

/-- The 192 bits of a header and the 512 bits of the payload, as they arrive from outside. -/
def flitOf (bits : BitVec 704) : Flit :=
  let h : BitVec 192 := bits.extractLsb' 512 192
  { mask := h.extractLsb' 128 64, dst := h.extractLsb' 110 18, src := h.extractLsb' 92 18, kind := h.extractLsb' 88 4,
    gen := h.extractLsb' 78 10, ctxid := h.extractLsb' 62 16, addr := h.extractLsb' 16 46, epoch := h.extractLsb' 15 1,
    seq := h.extractLsb' 11 4, rsv := h.extractLsb' 0 11, payload := bits.extractLsb' 0 512, note := .none }

/-- A final refusal of a flit at a station: it reaches the sender at once when that is the station, and travels to it as a
refusal flit otherwise (R411). -/
def refusalOf (f : Flit) (self : BitVec 18) (reason : Nat) : Flit :=
  { f with mask := BitVec.allOnes 64, dst := f.src, src := self, kind := 6,
           payload := BitVec.ofNat 512 ((f.payload.extractLsb' 256 16).toNat * 2 ^ 128 + f.dst.toNat * 2 ^ 64 + f.addr.toNat * 2 ^ 8 +
             f.kind.toNat * 2 ^ 4 + reason),
           note := { f.note with clockwise := none, tries := 0, since := none, reason := reason, about := f.kind, landed := false } }

/-- A refusal noted at the sender. -/
def State.noteRefusal (s : State) (d : Nat) (f : Flit) (reason : Nat) : State :=
  s.modDie d fun y => { y with refused := y.refused ++ [(f, reason)] }

/-- A flit joins the queue of a port. -/
def State.pushFlit (s : State) (d p : Nat) (f : Flit) : State := s.modPort d p fun y => { y with sendq := y.sendq ++ [f] }

/-- A final refusal of a flit at a station. Refusals of requests come back; those of answers, of time flits and of tag flits do
not (R413; log entry 23). One with no route Up is for the sender to produce. -/
def State.refuseFlit (s : State) (d : Nat) (f : Flit) (r : Nat) : State :=
  if f.kind = 6 ∨ f.kind = 5 ∨ f.kind = 2 ∨ 9 ≤ f.kind.toNat then s
  else if f.src = s.selfFab d then s.noteRefusal d f r
  else
    let b := refusalOf f (s.selfFab d) r
    match s.route d b with
    | .here => s.noteRefusal d f r
    | .ring cw => s.pushFlit d (if cw then 0 else 1) { b with note := { b.note with clockwise := some cw } }
    | .port p => s.pushFlit d p b
    | .refuse _ => (s.dieOfFab f.src).elim s fun e => s.noteRefusal e { f with note := { f.note with lost := true } } r

/-- A flit joins the queue of the port its route gives, or the queue of its own die (port 6 here). -/
def State.sendFlit (s : State) (d : Nat) (f : Flit) : State :=
  match s.route d f with
  | .here => s.modPort d 6 fun y => { y with recv := y.recv ++ [f] }
  | .ring cw => s.pushFlit d (if cw then 0 else 1) { f with note := { f.note with clockwise := some cw } }
  | .port p => s.pushFlit d p { f with note := { f.note with clockwise := none } }
  | .refuse r => s.refuseFlit d f r

/-! ### Remote accesses become flits (R200 to R202) -/

/-- The kind of flit that carries an access (R410). -/
def FlightOp.flitKind : FlightOp → Nat
  | .store | .wfe => 0
  | .load _ _ | .fe _ _ | .scl | .rcv | .event _ => 1
  | .atom _ _ _ true | .cas .. => 3
  | .atom _ _ _ false | .redv .. => 4
  | .send _ _ => 7

/-- The lines a remote access touches, by fabric address of their first byte, each once. -/
def Flight.lines (f : Flight) : List Nat := ((f.pieces.filter fun p => isFabric p.loc).map fun p => p.loc / 64 * 64).eraseDups

/-- Byte i of a line as an access writes it, when it does. -/
def Flight.byteAt (f : Flight) (a : Nat) : Option Byte :=
  (f.pieces.filter fun p => decide (p.loc ≤ a ∧ a < p.loc + p.len)).getLast?.bind fun p => f.data[p.off + (a - p.loc)]?

/-- The byte enables and the payload of a line that an access writes. -/
def Flight.lineMask (f : Flight) (line : Nat) : BitVec 64 :=
  BitVec.ofNat 64 ((List.range 64).foldl (fun m i => if (f.byteAt (line + i)).isSome then m + 2 ^ i else m) 0)
def Flight.lineData (f : Flight) (line : Nat) : Line :=
  BitVec.ofNat 512 (wordOfBytes ((List.range 64).map fun i => (f.byteAt (line + i)).getD 0))

/-- Operands of an atomic in a payload: its value, and the new word of a compare and swap (log entry 23). -/
def FlightOp.operands : FlightOp → Nat
  | .atom _ _ v _ => v.toNat
  | .cas _ c n => c.toNat + n.toNat * 2 ^ 64
  | _ => 0

/-- The flit of one line of a remote access. -/
def State.flitFor (s : State) (f : Flight) (line : Nat) : Flit :=
  let d := dieOfCore f.core
  let fab := line - locFabric 0
  let kind := f.op.flitKind
  let first := ((f.pieces.filter fun p => p.loc / 64 * 64 == line).map Piece.loc).foldl min (line + 63)
  let payload : Line :=
    match f.op with
    | .store => f.lineData line
    | .redv _ _ v => BitVec.ofNat 512 (v.toNat / 2 ^ (8 * ((f.pieces.find? fun p => p.loc / 64 * 64 == line).elim 0 Piece.off)))
    | op => BitVec.ofNat 512 op.operands
  s.newFlit d (BitVec.ofNat 18 (fab / 2 ^ 46)) kind (if kind = 0 then f.lineMask line else BitVec.allOnes 64) f.gen f.ctx
    ((if kind = 0 then line else first) - locFabric 0)
    payload { FlitNote.none with fid := some f.id, op := some f.op, level := s.ctxLevel f.ctx }

/-- The four flits of a `w.snd` (R202). -/
def State.sendFlits (s : State) (f : Flight) (target : Nat) : List Flit :=
  (List.range 4).map fun i =>
    s.newFlit (dieOfCore f.core) (s.selfFab (dieOfCore target)) 7 (BitVec.allOnes 64) f.gen f.ctx i
      (BitVec.ofNat 512 (wordOfBytes ((f.data.drop (64 * i)).take 64))) { FlitNote.none with fid := some f.id, op := some f.op }

/-- The flits of an access that crosses the fabric; none for one that stays on its die. -/
def State.flitsOf (s : State) (f : Flight) : List Flit :=
  match f.op with
  | .send target _ => if dieOfCore target = dieOfCore f.core then [] else s.sendFlits f target
  | _ => if f.window.isSome then f.lines.map (s.flitFor f) else []

/-- Flits of accesses that may perform and have not left yet join their queues, in the order of the accesses (R374). An SC
access through a window waits for its wheel position (R380). -/
def State.launchFlits (s : State) : State :=
  s.flights.foldl (fun t f =>
    if f.sent.isSome || f.sc.isSome then t
    else
      let l := t.flitsOf f
      if l.isEmpty || !(f.pieces.all fun p => t.mayPerform f p) then t
      else
        let t := t.modFlight f.id fun g => { g with sent := some t.ticks }
        l.foldl (fun t x => t.sendFlit (dieOfCore f.core) x) t) s

end Sys2Proof.Machine
end

