-- ==== Sys2Proof/Machine/Claim.lean ====
section
/-! DEFINITION. Claims (R231, R232, R423 to R438): groups, windows, slots, the rival test, effects, objections, late notices
and broken groups. -/

namespace Sys2Proof.Machine

/-! ### Groups (R423 to R425) -/

def ClaimGroup.valid (g : ClaimGroup) : Bool := g.w0.getLsbD 63
def ClaimGroup.sysOnly (g : ClaimGroup) : Bool := g.w0.getLsbD 62
def ClaimGroup.broken (g : ClaimGroup) : Bool := g.w0.getLsbD 61
def ClaimGroup.part (g : ClaimGroup) : Nat := fieldOf g.w0 48 6
def ClaimGroup.scope (g : ClaimGroup) : Nat := fieldOf g.w0 44 4
def ClaimGroup.gid (g : ClaimGroup) : BitVec 16 := g.w0.extractLsb' 0 16
def ClaimGroup.vbase (g : ClaimGroup) : Nat := fieldOf g.w2 16 14
def ClaimGroup.vcnt (g : ClaimGroup) : Nat := fieldOf g.w2 0 15

def State.clgrp (s : State) (d i : Nat) : ClaimGroup := SMap.get .reset (s.die d).clgrp i
def State.setClgrp (s : State) (d i : Nat) (g : ClaimGroup) : State :=
  s.modDie d fun y => { y with clgrp := SMap.set .reset y.clgrp i g }

/-- The group entry of a handle for a partition: the lowest-numbered valid one (R423). -/
def State.groupOf (s : State) (d part : Nat) (gid : BitVec 16) : Option Nat :=
  (List.range 128).find? fun i => let g := s.clgrp d i; g.valid && g.part == part && g.gid == gid
/-- The group entry of a handle that a message carries: the lowest-numbered valid one (R423; log entry 24). -/
def State.groupOfMsg (s : State) (d : Nat) (gid : BitVec 16) : Option Nat :=
  (List.range 128).find? fun i => let g := s.clgrp d i; g.valid && g.gid == gid

/-- The delivery bound of a scope (R425). -/
def claimBound (scope : Nat) : Nat :=
  match scope with
  | 3 => 500
  | 4 => 2000
  | 5 => 8000
  | _ => 32000

/-- WIN of a class on a die (R426). -/
def State.clwin (s : State) (d cls : Nat) : Nat := fieldOf (s.dctl d (0xF000 + 8 * cls)) 0 32

/-- The word of a handle (R231). -/
def hReserved (h : Word) : Bool := decide (2 ^ 28 ≤ h.toNat)
def hClass (h : Word) : BitVec 4 := h.extractLsb' 24 4
def hPrio (h : Word) : BitVec 8 := h.extractLsb' 16 8
def hGroup (h : Word) : BitVec 16 := h.extractLsb' 0 16

/-- A key reserved for system mode (R436). -/
def keyReserved (k : Word) : Bool := decide (0x0001000000000000 ≤ k.toNat ∧ k.toNat ≤ 0x00FFFFFFFFFFFFFF)

/-! ### Slots (R427) -/

def State.claim? (s : State) (d n : Nat) : Option ClaimSlot := SMap.get none (s.die d).claims n
def State.setClaim (s : State) (d n : Nat) (c : Option ClaimSlot) : State :=
  s.modDie d fun y => { y with claims := SMap.set none y.claims n c }

/-- The lowest free slot of a partition's range (R427). -/
def State.freeSlot (s : State) (d part : Nat) : Option Nat :=
  let w := s.dctl d (0x4000 + 0x40 * part + 0x28)
  let base := fieldOf w 0 12
  ((upFrom base (fieldOf w 32 13)).map (· % 4096)).find? fun n => (s.claim? d n).isNone

/-- Slots of a die that hold a claim of a group on a key. -/
def State.claimsOn (s : State) (d part : Nat) (gid : BitVec 16) (key : Word) : List (Nat × ClaimSlot) :=
  (s.die d).claims.filterMap fun e => e.2.bind fun c =>
    if c.part == part && c.claim.grp == gid && c.claim.key == key then some (e.1, c) else none
/-- Whether any slot holds a claim of a group. -/
def State.claimsOf (s : State) (d part : Nat) (gid : BitVec 16) : Bool :=
  (s.die d).claims.any fun e => e.2.elim false fun c => c.part == part && c.claim.grp == gid

/-! ### Messages (R428) -/

/-- The descriptor of a claim with a code in bits [21:19]. -/
def Claim.descriptor (c : Claim) (code : Nat) : Nat :=
  c.pfab.toNat * 2 ^ 46 + c.pslot.toNat * 2 ^ 34 + c.prio.toNat * 2 ^ 26 + c.cls.toNat * 2 ^ 22 + code * 2 ^ 19 + c.grp.toNat

/-- Words 0 to 4 of a claim with a code in bits [21:19]. -/
def Claim.words (c : Claim) (code : Nat) : List Word :=
  [c.key, c.value, c.tp, c.teff, BitVec.ofNat 64 (c.descriptor code)]

def lineOfWords (ws : List Word) : Line := BitVec.ofNat 512 (wordOfBytes (ws.flatMap bytesOf))
def lineWord (l : Line) (i : Nat) : Word := l.extractLsb' (64 * i) 64

/-- The payload of a message about a claim: its type, and what an objection adds. -/
def claimPayload (c : Claim) (type : Nat) (stamp ofab octx : Word) : Line := lineOfWords (c.words type ++ [stamp, ofab, octx])

/-- The claim a payload carries. -/
def claimOf (l : Line) : Claim :=
  let w := lineWord l 4
  { key := lineWord l 0, value := lineWord l 1, tp := lineWord l 2, teff := lineWord l 3, pfab := w.extractLsb' 46 18,
    pslot := w.extractLsb' 34 12, prio := w.extractLsb' 26 8, cls := w.extractLsb' 22 4, grp := w.extractLsb' 0 16 }
def claimType (l : Line) : Nat := fieldOf (lineWord l 4) 19 3

/-- A message to one member: over the fabric, or to the die itself. -/
def State.claimSend (s : State) (d : Nat) (target : BitVec 18) (l : Line) : State :=
  if target = s.selfFab d then s.modDie d fun y => { y with claimIn := y.claimIn ++ [{ src := target, payload := l }] }
  else s.sendFlit d (s.newFlit d target 8 (BitVec.allOnes 64) 0 0 0 l .none)
def State.claimSendAll (s : State) (d : Nat) (l : Line) (tos : List (BitVec 18)) : State :=
  tos.foldl (fun s t => s.claimSend d t l) s

/-! ### The rival test (R431) -/

/-- The order of a claim. -/
def Claim.order (c : Claim) : List Nat := [c.prio.toNat, c.pfab.toNat, c.tp.toNat, c.pslot.toNat]
/-- Field by field, lowest first. -/
def lexLt : List Nat → List Nat → Bool
  | a :: l, b :: r => decide (a < b) || (a == b && lexLt l r)
  | _, _ => false
def Claim.before (a b : Claim) : Bool := lexLt a.order b.order

def ClaimSlot.rival (a b : ClaimSlot) : Bool :=
  decide (a.claim.tp.toNat < b.cut.toNat ∧ b.claim.tp.toNat < a.cut.toNat)

def ClaimSlot.beat (c : ClaimSlot) : ClaimSlot := if c.phase = .pending then { c with phase := .beaten } else c

/-- A claim joins a die in a slot, with the rival test against every claim of its group and key (R430, R431). -/
def State.holdClaim (s : State) (d n : Nat) (c : ClaimSlot) : State :=
  let others := (s.claimsOn d c.part c.claim.grp c.claim.key).filter fun e => e.2.rival c
  let beaten := others.any fun e => e.2.claim.before c.claim
  let s := others.foldl (fun s e => if c.claim.before e.2.claim then s.setClaim d e.1 (some e.2.beat) else s) s
  s.setClaim d n (some (if beaten then c.beat else c))

/-- A claim proposed on a die: the slot it takes, TP, TEFF and CUT, and a proposal for every other member (R426, R430). -/
def State.propose (s : State) (d gi : Nat) (cls : BitVec 4) (prio : BitVec 8) (key value : Word) : Option State :=
  let g := s.clgrp d gi
  (s.freeSlot d g.part).map fun n =>
    let bound := claimBound g.scope
    let tp := s.tbase d
    let w := max (s.clwin d cls.toNat) (2 * bound + 1000)
    let c : Claim :=
      { key := key, value := value, tp := BitVec.ofNat 64 tp, teff := BitVec.ofNat 64 (tp + w), pfab := s.selfFab d,
        pslot := BitVec.ofNat 12 n, prio := prio, cls := cls, grp := g.gid }
    let s := s.holdClaim d n { phase := .pending, claim := c, cut := BitVec.ofNat 64 (tp + w - bound), part := g.part }
    s.claimSendAll d (claimPayload c 1 0 0 0) (g.members.filter fun m => m != s.selfFab d)

/-! ### Broken groups (R435) -/

/-- A group becomes Broken on a die; by any cause but a notice it tells every other member. -/
def State.breakGroup (s : State) (d gi : Nat) (notify : Bool) : State :=
  let g := s.clgrp d gi
  if g.broken then s
  else
    let s := s.setClgrp d gi { g with w0 := setField g.w0 61 1 1 }
    if !notify then s
    else
      let l := lineOfWords [0, 0, 0, 0, BitVec.ofNat 64 ((s.selfFab d).toNat * 2 ^ 46 + 4 * 2 ^ 19 + g.gid.toNat), 0, 0, 0]
      s.claimSendAll d l (g.members.filter fun m => m != s.selfFab d)

/-- Every group of a die wider than the die breaks: its time base has become free (R435). -/
def State.breakWide (s : State) (d : Nat) : State :=
  (List.range 128).foldl (fun s i =>
    let g := s.clgrp d i
    if g.valid && decide (3 < g.scope) then s.breakGroup d i true else s) s

/-- The own clock of a die takes over its time base, or hands it back (R421). -/
def State.ownClock (s : State) (d : Nat) (free : Bool) : State :=
  s.modDie d fun y => { y with tbAdj := y.tbAdj + y.drifted s.ticks, freeAt := if free then some s.ticks else none }

/-- What a change of ports or of TBSYNC does to the time base and the groups of a die: `t` is the state after the change (R421, R435). -/
def State.freeEdge (s t : State) (d : Nat) : State :=
  match s.tbFree d, t.tbFree d with
  | false, true => ((t.ownClock d true).breakWide d).postPf (BitVec.ofNat 64 (fieldOf (t.dctl d 0xB310) 4 3)) 0xE003 0
  | true, false => t.ownClock d false
  | _, _ => t

/-! ### The four claim operations (R231, R232) -/

/-- The causes of a claim operation: its handle, its group and its class. -/
def State.handleBad (s : State) (q : Nat) (h : Word) : Option Bad :=
  let d := dieOfSeq q
  if hReserved h then some (Bad.of cILLOP)
  else
    match s.groupOf d (partOf (s.ctxIdOf q)) (hGroup h) with
    | none => some (Bad.of cPERM)
    | some i =>
      let g := s.clgrp d i
      if g.sysOnly && !(s.seq q).sys then some (Bad.of cPERM)
      else if s.clwin d (hClass h).toNat = 0 then some (Bad.of cPERM)
      else if g.broken then some (Bad.of cLINKFLT)
      else none

/-- A tenant names a reserved key (R436). -/
def State.keyBad (s : State) (q : Nat) (k : Word) : Option Bad :=
  if keyReserved k && !(s.seq q).sys then some (Bad.of cPERM) else none

/-- The group entry an operation names. -/
def State.groupIx (s : State) (q : Nat) (h : Word) : Nat :=
  (s.groupOf (dieOfSeq q) (partOf (s.ctxIdOf q)) (hGroup h)).getD 0

/-- `y.clm` (R232). -/
def semYClm (x : LayYClm) : Sem :=
  { slot := 7, grd := x.grd, cls := .lead, names := fun _ _ _ => sName x.sk ++ sName x.sv ++ sName x.sh,
    check := fun s q c =>
      ((s.handleBad q (s.rs q c x.sh)).or (s.keyBad q (s.rs q c x.sk))).or
        (if (s.freeSlot (dieOfSeq q) (partOf (s.ctxIdOf q))).isNone then some (Bad.of cQUOTA) else none),
    once := fun s q t =>
      let c := s.lead q
      let h := s.rs q c x.sh
      (t.propose (dieOfSeq q) (s.groupIx q h) (hClass h) (hPrio h) (s.rs q c x.sk) (s.rs q c x.sv)).getD t,
    cmd := fun s q c => [s.rs q c x.sk, s.rs q c x.sv, s.rs q c x.sh] }

/-- `y.obj` (R232, R433): one objection for every claim on the key that the die holds. -/
def semYObj (x : LayYObj) : Sem :=
  { slot := 7, grd := x.grd, cls := .lead, names := fun _ _ _ => sName x.sk ++ sName x.sh,
    check := fun s q c => (s.handleBad q (s.rs q c x.sh)).or (s.keyBad q (s.rs q c x.sk)),
    once := fun s q t =>
      let c := s.lead q
      let h := s.rs q c x.sh
      let d := dieOfSeq q
      let g := s.clgrp d (s.groupIx q h)
      let who := BitVec.ofNat 64 ((q % 40) * 2 ^ 18 + (s.selfFab d).toNat)
      (s.claimsOn d g.part g.gid (s.rs q c x.sk)).foldl (fun t e =>
        t.claimSendAll d (claimPayload e.2.claim 2 (BitVec.ofNat 64 (s.tbase d)) who (BitVec.ofNat 64 (s.ctxIdOf q)))
          g.members) t,
    cmd := fun s q c => [s.rs q c x.sk, s.rs q c x.sh] }

/-- `y.clwait` (R232). -/
def semYClwait (x : LayYObj) : Sem :=
  { slot := 7, grd := x.grd, cls := .lead, names := fun _ _ _ => sName x.sk ++ sName x.sh,
    check := fun s q c => s.handleBad q (s.rs q c x.sh),
    wait := fun s q c =>
      if (s.claimsOn (dieOfSeq q) (partOf (s.ctxIdOf q)) (hGroup (s.rs q c x.sh)) (s.rs q c x.sk)).isEmpty then .none
      else .counted }

/-- The cells of a group. -/
def ClaimGroup.cells (g : ClaimGroup) : List Nat := upFrom g.vbase g.vcnt
def State.cell (s : State) (d n : Nat) : Option (Word × Word) := SMap.get none (s.die d).cells n
def State.setCell (s : State) (d n : Nat) (v : Option (Word × Word)) : State :=
  s.modDie d fun y => { y with cells := SMap.set none y.cells n v }

/-- The value in effect for a key of a group, or 0 (R432). -/
def State.valueOf (s : State) (d gi : Nat) (key : Word) : Word :=
  ((s.clgrp d gi).cells.findSome? fun n =>
    match s.cell d n with
    | some (k, v) => if k = key then some v else none
    | none => none).getD 0

/-- `y.clread` (R232): the value lands on every core. -/
def semYClread (x : LayYClr) : Sem :=
  { slot := 7, grd := x.grd, cls := .lead, names := fun _ _ _ => sName x.sk ++ sName x.sh, lands := fun _ _ _ => sName x.sd,
    check := fun s q c => s.handleBad q (s.rs q c x.sh),
    act := fun s q _ k =>
      let c := s.lead q
      k.landS (s.genOf q) .x x.sd.toNat (s.valueOf (dieOfSeq q) (s.groupIx q (s.rs q c x.sh)) (s.rs q c x.sk)) 2 }

/-! ### Effects (R432) -/

/-- A claim's effect on the cells of its group. -/
def State.cellEffect (s : State) (d gi : Nat) (key value : Word) : State :=
  let cells := (s.clgrp d gi).cells
  match cells.find? fun n => (s.cell d n).elim false fun e => e.1 == key with
  | some n => s.setCell d n (if value = 0 then none else some (key, value))
  | none =>
    if value = 0 then s
    else
      match cells.find? fun n => (s.cell d n).isNone with
      | some n => s.setCell d n (some (key, value))
      | none => s

/-- A key whose effect R343 gives: the device range of a group's handle. -/
def deviceKey (key : Word) : Bool :=
  decide (1 ≤ fieldOf key 48 16 ∧ fieldOf key 48 16 ≤ 3) && decide (fieldOf key 16 32 = 0)

/-- Claims of a die whose effect tick has come, by tick and then by order (R434). -/
def State.claimsDue (s : State) (d : Nat) : List (Nat × ClaimSlot) :=
  let due := (s.die d).claims.filterMap fun e => e.2.bind fun c =>
    if c.claim.teff.toNat ≤ s.tbase d then some (e.1, c) else none
  sortBy (fun a b => !lexLt (b.2.claim.teff.toNat :: b.2.claim.order) (a.2.claim.teff.toNat :: a.2.claim.order)) due

/-! ### Arrivals (R430, R433, R434) -/

/-- A message leaves those on their way; whether it was there. -/
def State.takeMsg (s : State) (d : Nat) (m : ClaimMsg) : Option State :=
  if (s.die d).claimIn.contains m then some (s.modDie d fun y => { y with claimIn := y.claimIn.erase m }) else none

/-- A message of a type that is on its way to a die arrives there, and leaves those on their way (R428, R429). -/
def State.claimArrive (s : State) (d : Nat) (m : ClaimMsg) (type : Nat) (go : State → State) : State :=
  if claimType m.payload = type then (s.takeMsg d m).elim s go else s

/-- A proposal arrives (R430). -/
def State.proposalArrives (s : State) (d : Nat) (m : ClaimMsg) : State :=
  let c := claimOf m.payload
  match s.groupOfMsg d c.grp with
  | none => s
  | some gi =>
    let g := s.clgrp d gi
    if !g.members.contains m.src then s.breakGroup d gi true
    else
      match s.freeSlot d g.part with
      | none => s.breakGroup d gi true
      | some n =>
        let cut := c.teff - BitVec.ofNat 64 (claimBound g.scope)
        s.holdClaim d n { phase := .pending, claim := c, cut := cut, part := g.part }

/-- The tick by which a claim-plane flit about a claim has reached a die: a proposal is sent at TP, an objection at its own time (R429,
R430, R433). -/
def State.arrivesBy (s : State) (d : Nat) (l : Line) : Option Nat :=
  let c := claimOf l
  let sent : Option Nat := if claimType l = 1 then some c.tp.toNat else if claimType l = 2 then some (lineWord l 5).toNat else none
  (s.groupOfMsg d c.grp).bind fun gi => sent.map (· + claimBound (s.clgrp d gi).scope)

/-- A flit whose message a die has had by now (R429). -/
def State.claimOverdue (s : State) (d : Nat) (f : Flit) : Bool :=
  f.kind == 8 && f.dst == s.selfFab d && !f.note.told && (s.arrivesBy d f.payload).elim false fun t => decide (t ≤ s.tbase d)

/-- The claim-plane flits of the package that have come to their delivery bound on a die give their messages to it: those that stand on
Up ports of dies whose time base is not free (R429). -/
def State.pullClaims (s : State) (d : Nat) : State :=
  let late := s.claimOverdue d
  let tell (f : Flit) : Flit := if late f then { f with note := { f.note with told := true } } else f
  allDies.foldl (fun s e =>
    if s.tbFree e then s
    else (List.range 6).foldl (fun s p =>
      let y := s.port e p
      let fs := (y.sendq ++ y.wire ++ y.recv).filter late
      if y.phase != .up || fs.isEmpty then s
      else
        (s.setPort e p { y with sendq := y.sendq.map tell, wire := y.wire.map tell, recv := y.recv.map tell }).modDie d fun z =>
          { z with claimIn := z.claimIn ++ fs.map fun f => { src := f.src, payload := f.payload } }) s) s

/-- An objection arrives: it counts below the cut-off, and the proposer's die answers a late one (R430, R433). -/
def State.objectionArrives (s : State) (d : Nat) (m : ClaimMsg) : State :=
  let c := claimOf m.payload
  match s.groupOfMsg d c.grp with
  | none => s
  | some gi =>
    let g := s.clgrp d gi
    if !g.members.contains m.src then s.breakGroup d gi true
    else
      let stamp := lineWord m.payload 5
      let cut := (c.teff - BitVec.ofNat 64 (claimBound g.scope)).toNat
      if stamp.toNat < cut then
        match (s.claimsOn d g.part g.gid c.key).find? fun e => e.2.claim == c with
        | some (n, h) => s.setClaim d n (some { h with phase := .objected })
        | none => s
      else if c.pfab = s.selfFab d then
        let ofab := lineWord m.payload 6
        s.claimSend d (ofab.extractLsb' 0 18) (claimPayload c 3 stamp ofab (lineWord m.payload 7))
      else s

/-- A cause for a context at a sequencer (R413, R433): pending where it runs, kept with the context where it does not. -/
def State.causeTo (s : State) (q x cause : Nat) : State :=
  match s.ctx? x with
  | none => s
  | some c =>
    if (s.seq q).ctx = some x ∧ (s.seq q).phase ≠ .retired then s.pend q cause
    else
      match c.gangs.findIdx? fun g => g.seq == q with
      | some i =>
        if c.retired.contains i then s
        else if c.pending.contains (i, cause) then s
        else s.modCtx x fun c => { c with pending := c.pending ++ [(i, cause)] }
      | none => s

/-- The group of a message that comes from a die that is no member of it (R435). -/
def State.strange (s : State) (d : Nat) (m : ClaimMsg) : Option Nat :=
  (s.groupOfMsg d (claimOf m.payload).grp).filter fun gi => !(s.clgrp d gi).members.contains m.src

/-- A late notice arrives: the first one for a `y.obj` counts (R433). -/
def State.lateArrives (s : State) (d : Nat) (m : ClaimMsg) : State :=
  match s.strange d m with
  | some gi => s.breakGroup d gi true
  | none =>
    let stamp := lineWord m.payload 5
    let oseq := fieldOf (lineWord m.payload 6) 18 6
    let octx := fieldOf (lineWord m.payload 7) 0 16
    if (s.die d).lateSeen.contains (stamp, octx * 64 + oseq) then s
    else (s.modDie d fun y => { y with lateSeen := y.lateSeen ++ [(stamp, octx * 64 + oseq)] }).causeTo (d * 40 + oseq) octx cLATEOBJ

/-- A break notice arrives (R435). -/
def State.breakArrives (s : State) (d : Nat) (m : ClaimMsg) : State :=
  match s.groupOfMsg d (claimOf m.payload).grp with
  | none => s
  | some gi => s.breakGroup d gi (!(s.clgrp d gi).members.contains m.src)

/-- The order in which a die applies the proposals of one tick (R434). -/
def ClaimMsg.before (a b : ClaimMsg) : Bool :=
  lexLt [(claimOf a.payload).pfab.toNat, (claimOf a.payload).pslot.toNat] [(claimOf b.payload).pfab.toNat, (claimOf b.payload).pslot.toNat]

/-- Every proposal and objection that has come to its delivery bound has arrived: proposals in their order, then objections (R429,
R434). -/
def State.claimDeliver (s : State) (d : Nat) : State :=
  let s := s.pullClaims d
  let due := (s.die d).claimIn.filter fun m => (s.arrivesBy d m.payload).elim false fun t => decide (t ≤ s.tbase d)
  let props := sortBy (fun a b => !ClaimMsg.before b a) (due.filter fun m => claimType m.payload == 1)
  let s := props.foldl (fun s m => s.claimArrive d m 1 fun s => s.proposalArrives d m) s
  (due.filter fun m => claimType m.payload == 2).foldl (fun s m => s.claimArrive d m 2 fun s => s.objectionArrives d m) s

/-! ### Registers of the claim unit (R424, R437) -/

/-- Reserved bits of word 0 of a group entry. -/
def clgrpReserved (w0 : Word) : Bool := fieldOf w0 54 7 != 0 || fieldOf w0 16 28 != 0

/-- The member list in memory: MCNT words of 32 bits (R424). -/
def State.memberList (s : State) (d : Nat) (w1 : Word) : List (BitVec 18) :=
  let base := w1.toNat / 4096 * 4096
  (List.range (fieldOf w1 0 11)).map fun i => BitVec.ofNat 18 (wordOfBytes (s.raw (locDram d (base + 4 * i)) 4))

/-- A die lies within a scope as seen from a die. -/
def withinScope (scope : Nat) (self f : BitVec 18) : Bool :=
  match scope with
  | 3 => f == self
  | 4 => f.toNat / 8 == self.toNat / 8
  | 5 => f.toNat / 1024 == self.toNat / 1024
  | _ => true

/-- A write of word 0 with V = 1 is refused (R424). -/
def State.clgrpRefuses (s : State) (d i : Nat) (w0 : Word) (l : List (BitVec 18)) : Bool :=
  let g := s.clgrp d i
  let n : ClaimGroup := { g with w0 := w0 }
  let self := s.selfFab d
  s.claimsOf d g.part g.gid && g.valid || s.claimsOf d n.part n.gid || !l.contains self || (l.any fun f => !withinScope n.scope self f) ||
  decide (n.scope < 3 ∨ 6 < n.scope) || l.isEmpty || clgrpReserved w0 || decide (16384 < g.vbase + g.vcnt) ||
  (List.range 128).any fun j =>
    let o := s.clgrp d j
    j != i && o.valid && decide (0 < o.vcnt ∧ 0 < g.vcnt ∧ o.vbase < g.vbase + g.vcnt ∧ g.vbase < o.vbase + o.vcnt)

/-- A write of a word of CLGRPi; `full` when it includes a byte of V (R423, R424, R476). -/
def State.writeClgrp (s : State) (d i w : Nat) (full : Bool) (v : Word) : State :=
  let g := s.clgrp d i
  let kept := setField (setField v 54 7 0) 16 28 0
  match w with
  | 0 =>
    let v := setField v 61 1 (bit g.broken)
    if !full then s.setClgrp d i { g with w0 := setField kept 61 1 (bit g.broken) }
    else if v.getLsbD 63 then
      let l := s.memberList d g.w1
      if s.clgrpRefuses d i v l then s else s.setClgrp d i { g with w0 := v, members := l }
    else if g.valid && s.claimsOf d g.part g.gid then s
    else
      let s := if g.valid then g.cells.foldl (fun s n => s.setCell d n none) s else s
      s.setClgrp d i { g with w0 := setField kept 61 1 0, members := [] }
  | 1 => s.setClgrp d i { g with w1 := setField v 11 1 0 }
  | 2 => s.setClgrp d i { g with w2 := setField (setField v 30 34 0) 15 1 0 }
  | _ => s

/-- A write of CLSIDX latches the slot it names (R437). -/
def State.writeClsidx (s : State) (d : Nat) (v : Word) : State :=
  let n := v.toNat % 4096
  let ws := (s.claim? d n).elim [] fun c => c.claim.words c.phase.code
  s.modDie d fun y => { y with clsidx := BitVec.ofNat 12 n, clsrec := ws }

end Sys2Proof.Machine
end

