-- ==== Sys2Proof/Machine/Guest.lean ====
section
/-! DEFINITION. The guest engine in the distaff socket (R218, R439 to R451): packets, requests, messages, duties, fencing and
fault records. -/

namespace Sys2Proof.Machine

/-! ### Fault records (R449, R450) -/

/-- A fault record written to the ring of a die, or lost to a full ring. -/
def State.guestRecord (s : State) (d pseq : Nat) (va : Word) (ctx code source : Nat) : State :=
  let ring := s.dctl d 0xF218
  let size := 2 ^ (fieldOf ring 0 4 + 4)
  let tail : BitVec 32 := (s.dctl d 0xF228).setWidth 32
  let head : BitVec 32 := (s.dctl d 0xF220).setWidth 32
  if size ≤ (tail - head).toNat then s.modSock d fun x => { x with fovf := true }
  else
    let bytes := bytesOfWord 8 pseq ++ bytesOf va ++ bytesOfWord 2 ctx ++ bytesOfWord 1 code ++ bytesOfWord 1 source ++
      [0, 0, 0, 0] ++ bytesOfWord 8 (s.tbase d)
    (s.putRaw (locDram d (ring.toNat / 4096 * 4096 + tail.toNat % size * 32)) bytes).setDctl d 0xF228 ((tail + 1).setWidth 64)

def Socket.slot (x : Socket) (n : Nat) : GuestSlot := SMap.get .reset x.slots n
def Socket.setSlot (x : Socket) (n : Nat) (g : GuestSlot) : Socket := { x with slots := SMap.set .reset x.slots n g }
def Socket.queue (x : Socket) (q : Nat) : List Packet := SMap.get [] x.pq q
def Socket.setQueue (x : Socket) (q : Nat) (l : List Packet) : Socket := { x with pq := SMap.set [] x.pq q l }
def guestSlots : List Nat := List.range 15

/-- The packets of a socket in every place. -/
def Socket.allPackets (x : Socket) : List Packet :=
  x.slots.filterMap (fun e => if e.2.phase == .free then none else e.2.pkt) ++ x.suspended ++ x.resume ++
  x.pq.flatMap Prod.snd ++ x.closing.map Prod.fst

/-! ### Fencing (R448) -/

/-- An invalidation no longer waits for an INV of a socket (R400). -/
def State.invAnswered (s : State) (d id : Nat) : State :=
  allDies.foldl (fun s e => s.modDie e fun y =>
    { y with inval := y.inval.map fun v => { v with guests := v.guests.filter fun g => g ≠ (d, id) } }) s

/-- The socket is fenced with a breach code. -/
def State.guestFence (s : State) (d code pseq : Nat) : State :=
  let x := (s.die d).sock
  if x.phase ≠ .up then s
  else
    let s := x.invs.foldl (fun s v => s.invAnswered d v.id) s
    let s := x.allPackets.foldl (fun s p => s.tlFail d p.tl p.num cLINKFLT) s
    let s := s.modSock d fun y =>
      { y with phase := .fenced, fcode := code, slots := [], pq := [], suspended := [], resume := [], closing := [], invs := [],
               pres := [], writes := [], held := [], snoops := [] }
    let s := s.setDctl d 0xF210 (setField (s.dctl d 0xF210) 0 1 0)
    (s.guestRecord d pseq 0 0 code 1).postPf (BitVec.ofNat 64 code) 0xE004 0

/-! ### `c.gq` (R218, R442) -/

/-- GQBINDq of a die binds the queue to the partition (R449). -/
def State.gqBound (s : State) (q gq : Nat) : Bool :=
  let w := s.dctl (dieOfSeq q) (0xF240 + 8 * gq)
  w.getLsbD 63 && fieldOf w 0 6 == partOf (s.ctxIdOf q)

/-- Cores of the gang up to a core that post a packet. -/
def State.gqAhead (s : State) (q c : Nat) (x : LayCGq) : Nat :=
  (((s.gang q).take (s.place q c)).filter fun d => s.guarded q d x.grd).length

/-- `c.gq` (R218). A dropped packet has no number of its own: its record holds PSEQ 0, VA 0 and the CTXID of the context that posted it,
DESIGN CHOICE (log entry 72; R450). -/
def semCGq (x : LayCGq) : Sem :=
  let gq := x.gq.toNat
  { slot := 6, grd := x.grd,
    check := fun s q c =>
      match s.spots q c 6 .read (runsOf (s.ra q c x.an) 1) with
      | .ok l =>
        if !allOwn l then some (Bad.of cXLATE)
        else if misaligned (s.ra q c x.an) 64 64 then some (Bad.of cALIGN)
        else if !s.gqBound q gq then some (Bad.of cPERM)
        else s.tlBad q x.tl.toNat 0
      | _ => some (Bad.of cXLATE),
    takes := fun s q _ => (s.tlOf q x.tl.toNat).map fun i => (i, 1),
    wait := fun s q c =>
      let k := (s.die (dieOfSeq q)).sock
      if k.phase == .up && decide (8 < (k.queue gq).length + s.gqAhead q c x) then .counted else .none,
    shared := fun s q c t =>
      let d := dieOfSeq q
      match s.tlOf q x.tl.toNat with
      | none => t
      | some i =>
        if !s.isPrimary q c then t
        else
          let (n, t) := t.tlTake d i
          let k := (t.die d).sock
          if k.phase ≠ .up then (t.tlFail d i n cLINKFLT).guestRecord d 0 0 (s.ctxIdOf q) 0x46 1
          else
            let p : Packet :=
              { ctx := s.ctxIdOf q, gen := s.genOf q, asid := (s.seq q).asid, gq := gq, tl := i, num := n, pseq := 0, body := [],
                from_ := some (locSpad c ((s.ra q c x.an).toNat % 2 ^ 21)), wait := 4 }
            t.modSock d fun k => k.setQueue gq (k.queue gq ++ [p]),
    cmd := fun s q c => [s.ra q c x.an, x.gq.setWidth 64, x.tl.setWidth 64] }

/-- A packet whose bytes have been read (R442). -/
def State.readPacket (s : State) (p : Packet) : Packet :=
  match p.from_ with
  | none => p
  | some loc => { p with from_ := none, body := s.readBytes { gen := p.gen, tagged := true, part := none } loc 64 }

/-- A cycle of the cores `cs`: their packets come nearer to their read, and one that may be read is read or not (R442; log
entry 9). -/
def State.tickPackets (s : State) (d : Nat) (cs : List Nat) : State :=
  let f (p : Packet) : Packet :=
    match p.from_ with
    | none => p
    | some loc =>
      if !cs.contains (spadCore loc) then p
      else if 0 < p.wait then { p with wait := p.wait - 1 }
      else if s.choose (loc + p.num) 2 = 0 then s.readPacket p
      else p
  if (s.die d).sock.pq.isEmpty then s
  else s.modSock d fun x => { x with pq := SMap.mapVals [] (fun _ l => l.map f) x.pq }

/-! ### Delivery (R442, R444) -/

/-- A message of 64 bytes to the guest. -/
def State.toGuest (s : State) (d : Nat) (bs : List Byte) : State := s.out (.guest d (bs ++ List.replicate (64 - bs.length) 0))

/-- The header of a packet in a slot (R442). -/
def Packet.header (p : Packet) (slot pseq : Nat) : List Byte :=
  bytesOfWord 8 (p.gen.toNat + p.asid * 2 ^ 10 + p.ctx * 2 ^ 19 + p.gq * 2 ^ 35 + slot * 2 ^ 39) ++ bytesOfWord 8 pseq

/-- The checkpoint area of a context: its address and its bytes (R449). -/
def State.gckpt (s : State) (x : Nat) : Nat × Nat :=
  let w := (s.ctx? x).elim 0 fun c => c.ctl 0x360
  (fieldOf w 16 48 * 2 ^ 16, fieldOf w 0 16 * 2 ^ 16)

/-- A packet whose 64 bytes the port may read. -/
def Packet.readable (p : Packet) : Bool := p.wait == 0 || p.from_.isNone
/-- The queue to serve next: the first after the last served, ascending, whose head packet may be read (R442). -/
def Socket.nextQueue (x : Socket) : Option Nat :=
  ((List.range 16).map fun i => (x.last + 1 + i) % 16).find? fun q => (x.queue q).head?.elim false Packet.readable

/-- PKT: the port fills the lowest Free slot (R442). -/
def State.guestDeliver (s : State) (d : Nat) : State :=
  let x := (s.die d).sock
  if x.phase ≠ .up then s
  else
    match guestSlots.find? fun n => (x.slot n).phase == .free with
    | none => s
    | some n =>
      match x.resume with
      | p :: r =>
        let a := s.gckpt p.ctx
        let bytes := bytesOfWord 8 4 ++ bytesOfWord 2 p.ctx ++ bytesOfWord 1 n ++ List.replicate 5 0 ++ bytesOfWord 8 a.1 ++
          bytesOfWord 8 p.pseq
        (s.modSock d fun x => { x.setSlot n { phase := .delivered, pkt := some p } with resume := r }).toGuest d bytes
      | [] =>
        match x.nextQueue with
        | none => s
        | some q =>
          match x.queue q with
          | [] => s
          | p :: r =>
            let p := { s.readPacket p with pseq := x.pseq + 1 }
            let bytes := bytesOfWord 8 1 ++ p.header n p.pseq ++ (p.body.drop 16).take 40
            (s.modSock d fun x =>
              { (x.setSlot n { phase := .delivered, pkt := some p }).setQueue q r with pseq := p.pseq, last := q }).toGuest d bytes

/-! ### Requests (R439 to R441) -/

/-- The D2H requests the port knows (R439). -/
inductive GuestReq where
  | read | write | drop | other
  deriving DecidableEq, Repr

/-- Request codes of the event: 0 RdCurr, 1 RdShared, 2 RdOwn, 3 WrCur, 4 ItoMWr, 5 DirtyEvict, 6 CleanEvict (log entry 25). -/
def guestReq (code : Nat) : GuestReq := if code < 3 then .read else if code < 6 then .write else if code = 6 then .drop else .other

/-- Where a guest address of a packet leads (R441). -/
def State.guestPlace (s : State) (d : Nat) (p : Packet) (va : Nat) (u : Use) : Tr :=
  if va < 2 ^ 32 then .fault cXLATE
  else
    match s.lookup p.asid d va (2 ^ 20 + d) with
    | .fault => .fault cXLATE
    | .hold => .hold
    | .leaf e lvl => if leafPermits e u false then s.leafPlace d (partOf p.ctx) va e lvl else .fault cPERM

/-- Codes of fault records (R450). -/
def guestCode (cause : Nat) : Nat := if cause = cXLATE then 1 else if cause = cPERM then 2 else 3

/-- The port answers a request with data, or with an error completion and a record (R441). -/
def State.guestError (s : State) (d : Nat) (p : Packet) (va cause : Nat) : State :=
  (s.guestRecord d p.pseq (BitVec.ofNat 64 va) p.ctx (guestCode cause) 1).out (.guest d [])

/-- A request of the slot's packet. A write joins those on their way; a read of a pending granule, and a request on a leaf
that is migrating, wait (R395, R402). -/
def State.guestAccess (s : State) (d : Nat) (p : Packet) (slot : Nat) (req : GuestReq) (va : Nat) (data : Line) (keep : Bool) :
    State :=
  let line := va / 64 * 64
  match req with
  | .drop => s.modSock d fun x => { x with held := x.held.filter fun h => !(h.2.1 == p.asid && h.2.2 == line) }
  | .other => s
  | .read =>
    match s.guestPlace d p line .read with
    | .fault cause => s.guestError d p va cause
    | .ok (.mem loc tagged) =>
      let a : Acc := { gen := p.gen, tagged := tagged, part := none }
      let s := s.meetErrors p.gen loc 64
      if s.meetsPend loc 64 then s
      else if s.readsPoison a loc 64 then s.guestError d p va cPOISON
      else
        let s := s.out (.guest d (s.readBytes a loc 64))
        if keep then s.modSock d fun x => { x with held := x.held ++ [(loc, p.asid, line)] } else s
    | .ok _ => s.guestError d p va cXLATE
    | .hold => s
  | .write =>
    match s.guestPlace d p line .write with
    | .fault cause => s.guestError d p va cause
    | .ok (.mem loc tagged) =>
      s.modSock d fun x =>
        { x with nextId := x.nextId + 1,
                 held := x.held.filter (fun h => h.1 != loc),
                 writes := x.writes ++ [{ id := x.nextId, slot := slot, gen := p.gen, tagged := tagged, loc := loc,
                                          bytes := bytesOfWord 64 data.toNat, asid := p.asid, page := va / 2 ^ 16 }] }
    | .ok _ => s.guestError d p va cXLATE
    | .hold => s

/-- A guest write performs at its L2 slice, both sectors in one event (R373, R441, R402; log entry 83). -/
def State.guestPerform (s : State) (d n : Nat) : State :=
  match (s.die d).sock.writes.find? fun w => w.id == n with
  | none => s
  | some w =>
    let s := s.meetErrors w.gen w.loc 64
    if s.meetsPend w.loc 64 then s
    else
      let s := s.writeBytes { gen := w.gen, tagged := w.tagged, part := none } w.loc w.bytes
      let s := s.modSock d fun x =>
        { x with writes := x.writes.filter (fun v => v.id != n), closing := x.closing.map fun e => (e.1, e.2.filter (· != n)) }
      let done := (s.die d).sock.closing.filter fun e => e.2.isEmpty
      let s := done.foldl (fun s e => s.tlFinish d e.1.tl e.1.num) s
      s.modSock d fun x => { x with closing := x.closing.filter fun e => !e.2.isEmpty }

/-- The guest answers a snoop: its copy is gone (R373). -/
def State.snoopAnswered (s : State) (d loc : Nat) : State :=
  s.modSock d fun x => { x with snoops := x.snoops.filter (· != loc), held := x.held.filter fun h => h.1 != loc }

/-! ### Messages (R443 to R445) -/

def msgNat (bs : List Byte) (lo n : Nat) : Nat := wordOfBytes ((bs.drop lo).take n)
def msgZero (bs : List Byte) (lo n : Nat) : Bool := ((bs.drop lo).take n).all (· == 0)
/-- Byte 0 holds the type and bytes 1 to 7 are zero (R444). -/
def msgHead (bs : List Byte) (type : Nat) : Bool := msgNat bs 0 1 == type && msgZero bs 1 7

/-- The Delivered slot of a packet number. -/
def Socket.slotOf (x : Socket) (pseq : Nat) : Option (Nat × Packet) :=
  guestSlots.findSome? fun n =>
    match (x.slot n).phase, (x.slot n).pkt with
    | .delivered, some p => if p.pseq = pseq then some (n, p) else none
    | _, _ => none

/-- CPL (R443). -/
def State.guestCpl (s : State) (d : Nat) (bs : List Byte) : State :=
  if !(msgHead bs 0x10 && msgZero bs 16 48) then s.guestFence d 0x44 0
  else
    match (s.die d).sock.slotOf (msgNat bs 8 8) with
    | none => s.guestFence d 0x43 0
    | some (n, p) =>
      let left := ((s.die d).sock.writes.filter fun w => w.slot == n).map GuestWrite.id
      let s := s.modSock d fun x => x.setSlot n .reset
      if left.isEmpty then s.tlFinish d p.tl p.num
      else s.modSock d fun x => { x with closing := x.closing ++ [(p, left)] }

/-- FLT (R443). -/
def State.guestFlt (s : State) (d : Nat) (bs : List Byte) : State :=
  let code := msgNat bs 24 1
  if !(msgHead bs 0x11 && msgZero bs 25 39 && decide (1 ≤ code ∧ code ≤ 4)) then s.guestFence d 0x44 0
  else
    match (s.die d).sock.slotOf (msgNat bs 8 8) with
    | none => s.guestFence d 0x43 0
    | some (n, p) =>
      let cause := match code with | 1 => cXLATE | 2 => cPERM | 3 => cPOISON | _ => cLINKFLT
      ((s.modSock d fun x => x.setSlot n .reset).tlFail d p.tl p.num cause).guestRecord d p.pseq
        (BitVec.ofNat 64 (msgNat bs 16 8)) p.ctx code 0

/-- INVACK (R445). -/
def State.guestInvack (s : State) (d : Nat) (bs : List Byte) : State :=
  let id := msgNat bs 8 8
  match msgHead bs 0x12 && msgZero bs 16 48, (s.die d).sock.invs.find? fun v => v.id == id with
  | true, some v =>
    let inRange (h : Nat × Nat × Nat) : Bool :=
      h.2.1 == v.asid && (v.bytes == 0 || decide (v.lo.toNat ≤ h.2.2 ∧ h.2.2 < v.lo.toNat + v.bytes.toNat))
    (s.modSock d fun x => { x with invs := x.invs.filter (fun w => w.id != id), held := x.held.filter fun h => !inRange h }).invAnswered
      d id
  | _, _ => s.guestFence d 0x44 0

/-- Slots named by a mask. -/
def maskSlots (m : Nat) : List Nat := (List.range 16).filter fun n => decide (m / 2 ^ n % 2 = 1)

/-- CKPT (R445): each named slot is Free; its packet is suspended, or its number fails with PERM. -/
def State.guestCkpt (s : State) (d : Nat) (bs : List Byte) : State :=
  let named := maskSlots (msgNat bs 16 2)
  match msgHead bs 0x13 && msgZero bs 18 46, (s.die d).sock.pres.find? fun v => v.id == msgNat bs 8 8 with
  | true, some v =>
    if !(named.all fun n => v.slots.contains n) then s.guestFence d 0x44 0
    else
      let s := named.foldl (fun s n =>
        match ((s.die d).sock.slot n).pkt with
        | none => s
        | some p =>
          let s := s.modSock d fun x => x.setSlot n .reset
          if v.abandon then s.tlFail d p.tl p.num cPERM
          else s.modSock d fun x => { x with suspended := x.suspended ++ [p] }) s
      let left := v.slots.filter fun n => !named.contains n
      let s := s.modSock d fun x =>
        { x with pres := if left.isEmpty then x.pres.filter (fun w => w.id != v.id)
                         else x.pres.map fun w => if w.id = v.id then { w with slots := left } else w }
      if left.isEmpty && v.asked then s.setDctl d 0xF210 (setField (s.dctl d 0xF210) 0 1 0) else s
  | _, _ => s.guestFence d 0x44 0

/-- A message in the mailbox, by its type (R440, R444). -/
def State.guestMessage (s : State) (d : Nat) (bs : List Byte) : State :=
  if (s.die d).sock.phase ≠ .up then s
  else
    match msgNat bs 0 1 with
    | 0x10 => s.guestCpl d bs
    | 0x11 => s.guestFlt d bs
    | 0x12 => s.guestInvack d bs
    | 0x13 => s.guestCkpt d bs
    | _ => s.guestFence d 0x44 0

/-- A message of one type; anything else is not that event. -/
def State.guestSays (s : State) (d type : Nat) (bs : List Byte) : State :=
  if msgNat bs 0 1 = type then s.guestMessage d (bs.take 64) else s

/-- A D2H request of the guest (R440, R441). -/
def State.guestRequest (s : State) (d code : Nat) (addr : BitVec 52) (data : Line) : State :=
  let x := (s.die d).sock
  let slot := addr.toNat / 2 ^ 48
  let va := addr.toNat % 2 ^ 48
  if x.phase ≠ .up then s
  else if guestReq code = .other then s.guestFence d 0x44 0
  else if slot = 15 then
    if va % 64 = 0 ∧ va / 64 < 8 ∧ guestReq code = .write then s.guestMessage d (bytesOfWord 64 data.toNat)
    else s.guestFence d 0x43 0
  else
    match (x.slot slot).phase, (x.slot slot).pkt with
    | .delivered, some p => s.guestAccess d p slot (guestReq code) va data (code = 1 || code = 2)
    | _, _ => s.guestFence d 0x43 0

/-! ### Duties the port asks for (R445, R449) -/

/-- INV to the guest of a die for an invalidation, when a Delivered or Checkpointing slot holds the ASID: the number the
invalidation waits for. -/
def State.sendInv (s : State) (d asid : Nat) (lo : Word) (bytes : Nat) : Option (Nat × State) :=
  let x := (s.die d).sock
  if x.phase == .up && guestSlots.any fun n => (x.slot n).phase != .free && (x.slot n).pkt.elim false fun p => p.asid == asid then
    let v : InvDuty := { id := x.nextId, asid := asid, lo := lo, bytes := BitVec.ofNat 64 bytes, since := s.ticks }
    let msg := bytesOfWord 8 2 ++ bytesOf lo ++ bytesOfWord 8 bytes ++ bytesOfWord 2 asid ++ List.replicate 6 0 ++ bytesOfWord 8 v.id
    some (v.id, (s.modSock d fun x => { x with nextId := x.nextId + 1, invs := x.invs ++ [v] }).toGuest d msg)
  else none

/-- PRE to the guest of a die for a context; `asked` says that GPRE asks for it. -/
def State.sendPre (s : State) (d x : Nat) (va bytes : Nat) (asked : Bool) : State :=
  let k := (s.die d).sock
  if k.phase ≠ .up then s
  else
    let mine := guestSlots.filter fun n => (k.slot n).phase == .delivered && (k.slot n).pkt.elim false fun p => p.ctx == x
    let v : PreDuty := { id := k.nextId, ctx := x, abandon := bytes == 0, asked := asked, slots := mine, since := s.ticks }
    let msg := bytesOfWord 8 3 ++ bytesOfWord 2 x ++ List.replicate 6 0 ++ bytesOfWord 8 va ++ bytesOfWord 8 bytes ++
      bytesOfWord 8 v.id
    (s.modSock d fun k =>
      let k := mine.foldl (fun k n => k.setSlot n { k.slot n with phase := .checkpointing }) k
      { k with nextId := k.nextId + 1, pres := k.pres ++ [v] }).toGuest d msg

/-- A context with a Delivered slot is unloaded: its packets are abandoned on every die (R445). -/
def State.abandonGuests (s : State) (x : Nat) : State :=
  allDies.foldl (fun s d =>
    let k := (s.die d).sock
    if guestSlots.any fun n => (k.slot n).phase == .delivered && (k.slot n).pkt.elim false fun p => p.ctx == x then
      s.sendPre d x 0 0 false
    else s) s

/-- A write of GPRE (R449): REQ sends PRE, and RES asks for the context's suspended packets. -/
def State.writeGpre (s : State) (d : Nat) (v : Word) : State :=
  let x := fieldOf v 48 16
  let old := s.dctl d 0xF210
  let s := s.setDctl d 0xF210 (setField (setField 0 48 16 x) 0 1 (bit (old.getLsbD 0 || (v.getLsbD 0 && (s.die d).sock.phase == .up))))
  let s := if v.getLsbD 0 then let a := s.gckpt x; s.sendPre d x a.1 a.2 true else s
  if v.getLsbD 1 then
    s.modSock d fun k =>
      { k with resume := k.resume ++ k.suspended.filter (fun p => p.ctx == x),
               suspended := k.suspended.filter fun p => p.ctx != x }
  else s

/-- A duty has outlasted its limit (R445). -/
def State.dutyTimeout (s : State) (d : Nat) : State :=
  let x := (s.die d).sock
  if x.invs.any fun v => decide (2000 < s.ticks - v.since) then s.guestFence d 0x40 0
  else if x.pres.any fun v => decide (100000 < s.ticks - v.since) then s.guestFence d 0x41 0
  else s

/-! ### Training and reset (R446, R449) -/

/-- A write of GSCTL: TRAIN in Down, RESET in Fenced; anything else is refused (R449). -/
def State.writeGsctl (s : State) (d : Nat) (cmd : Nat) : State :=
  s.modSock d fun x =>
    match cmd, x.phase with
    | 0, _ => x
    | 1, .down => { x with phase := .training, cmd := 1, since := s.ticks }
    | 2, .fenced => { x with phase := .down, cmd := 0 }
    | _, _ => { x with err := true }

def State.guestTrained (s : State) (d : Nat) : State :=
  s.modSock d fun x =>
    if x.phase = .training ∧ s.ticks - x.since ≤ 1000000 then { x with phase := .up, cmd := 0, pseq := 0, slots := [] } else x
def State.guestTrainFails (s : State) (d : Nat) : State :=
  s.modSock d fun x => if x.phase = .training then { x with phase := .down, cmd := 0, err := true } else x

/-- GUEST_LINK_LOSS: the port fences the socket with the code of R450 for it (R446, R448). -/
def State.guestLinkLoss (s : State) (d : Nat) : State := s.guestFence d 0x45 0

/-- GSSTAT bits cleared by writing 1 (R449). -/
def State.writeGsstat (s : State) (d : Nat) (v : Word) : State :=
  s.modSock d fun x => { x with fovf := x.fovf && !v.getLsbD 8, err := x.err && !v.getLsbD 7 }

end Sys2Proof.Machine
end

