-- ==== Sys2Proof/Machine/Saves.lean ====
section
/-! DEFINITION. What the device keeps in a context's memory: the save area of a forced pre-emption (R287 to R290) and the
spill area of matrix state (R293, R294). -/

namespace Sys2Proof.Machine

/-! ### A context's memory as the device reaches it -/

/-- Bytes split at 64-byte lines of their address. -/
def lineRuns (va : Nat) (bs : List Byte) : List (Nat × List Byte) :=
  (runsOf (BitVec.ofNat 64 va) bs.length).map fun r => (r.addr.toNat, (bs.drop r.off).take r.len)

/-- A write to a context's memory under its generation. Bytes that do not translate are lost (log entry 26). -/
def State.ctxWrite (s : State) (x d va : Nat) (bs : List Byte) : State :=
  (lineRuns va bs).foldl (fun s r =>
    match s.ctxPlace x d r.1 with
    | some (loc, tagged) =>
      s.writeBytes { gen := (s.ctx? x).elim 0 Ctx.gen, tagged := tagged, part := some (partOf x) } loc r.2
    | none => s) s

/-- A read of a context's memory under its generation. -/
def State.ctxBytes (s : State) (x d va n : Nat) : List Byte :=
  (runsOf (BitVec.ofNat 64 va) n).flatMap fun r =>
    match s.ctxPlace x d r.addr.toNat with
    | some (loc, tagged) => s.readBytes { gen := (s.ctx? x).elim 0 Ctx.gen, tagged := tagged, part := none } loc r.len
    | none => List.replicate r.len 0

/-- Segments of a record: offsets and bytes. -/
abbrev Segs := List (Nat × List Byte)

/-- A record: its segments, and zero in the parts that they leave of the ranges its layout writes. -/
def State.writeRecord (s : State) (x d va : Nat) (zeros : List (Nat × Nat)) (segs : Segs) : State :=
  segs.foldl (fun s g => s.ctxWrite x d (va + g.1) g.2)
    (zeros.foldl (fun s z => s.ctxWrite x d (va + z.1) (List.replicate z.2 0)) s)

/-! ### The sequencer record (R288) -/

/-- The loop stack, in the order of the record. -/
def Seq.loopWords (x : Seq) : List Word :=
  (List.range 6).map x.lstaOf ++ (List.range 6).map x.lendOf ++ (List.range 6).map x.lcntOf

def Seq.record (x : Seq) (g : Gen) (pc : Word) : Segs :=
  [(0x00, bytesOf pc), (0x08, bytesOf (x.mpc.read g)),
   (0x10, bytesOfWord 8 (x.runleft % 2 ^ 18 + min 0xFFFF (x.sleft / 1024) * 2 ^ 32)),
   (0x18, bytesOfWord 8 (g.toNat + x.gang.length % 16 * 2 ^ 16)),
   (0x40, x.loopWords.flatMap bytesOf)]

/-- The sequencer with the position and the counts of a record; reserved bits read zero (R4, R38). -/
def Seq.restore (x : Seq) (g : Gen) (bs : List Byte) : Seq :=
  let w (off : Nat) : Word := wordOf ((bs.drop off).take 8)
  let loop (base : Nat) (f : Word → Word) : SMap Word := (List.range 6).foldl (fun m i => SMap.set 0 m i (f (w (base + 8 * i)))) []
  { x with pc := lineAddr (w 0), mpc := Reg.of (w 8 &&& ~~~7#64) g, runleft := fieldOf (w 0x10) 0 18, lsta := loop 0x40 fun v => setField v 0 1 0,
           lend := loop 0x70 fun v => setField v 0 33 0, lcnt := loop 0xA0 id }

/-! ### Core records (R60, R288, R289) -/

def RFile.code : RFile → Nat
  | .s => 0 | .q => 1 | .v => 2 | .oa => 3 | .ob => 4 | .p => 5 | .a => 6
def RFile.ofCode (n : Nat) : RFile :=
  match n with
  | 0 => .s | 1 => .q | 2 => .v | 3 => .oa | 4 => .ob | 5 => .p | _ => .a
def WPath.code : WPath → Nat
  | .s => 0 | .lS => 1 | .x => 2 | .va => 3 | .vb => 4 | .lV => 5 | .lA => 6
def WPath.ofCode (n : Nat) : WPath :=
  match n with
  | 0 => .s | 1 => .lS | 2 => .x | 3 => .va | 4 => .vb | 5 => .lV | _ => .lA

/-- The descriptor of a landing-queue entry (R60). -/
def LqEntry.descriptor (e : LqEntry) : Word :=
  packW [(1, 63), (e.rem, 59), (e.path.code, 56), (e.file.code, 53), (e.index, 47), (e.gen.toNat, 37),
    (bit (decide (e.mask ≠ BitVec.allOnes 128)), 36)]

/-- A landing-queue entry from its descriptor, mask and value; none where VALID is 0. The reserved PATH or FILE code 7, which only an
altered save area can hold, is taken as memory path L and file a: DESIGN CHOICE (log entry 74). -/
def lqOf (d : Word) (mask : Pred) (value : VWord) (held : Bool) : Option LqEntry :=
  if !d.getLsbD 63 then none
  else some { rem := fieldOf d 59 4, path := WPath.ofCode (fieldOf d 56 3), file := RFile.ofCode (fieldOf d 53 3),
              index := fieldOf d 47 6, gen := d.extractLsb' 37 10, mask := if d.getLsbD 36 then mask else BitVec.allOnes 128,
              value := value, held := held, load := none }

/-- Bytes of each entry of a list at a step, zeros after the last. -/
def strided {α : Type} (base step : Nat) (l : List α) (f : α → List Byte) : Segs :=
  (List.range l.length).filterMap fun i => (l[i]?).map fun a => (base + step * i, f a)

/-- The two-entry file of last results, and an operand file, as a generation reads them. -/
def fileBytes (m : SMap (Reg 2048)) (g : Gen) (n : Nat) : List Byte :=
  (List.range n).flatMap fun i => bytesOfWord 256 ((SMap.get (Reg.wiped 2048) m i).read g).toNat

/-- The record of a core but for the keep extent and the receive queues (R288). -/
def Core.record (k : Core) (x : Nat) (g : Gen) (keep : Nat) : Segs :=
  [(0x0000, bytesOfWord 8 (x + k.sp.crank * 2 ^ 16) ++ bytesOfWord 8 g.toNat ++ bytesOfWord 8 keep ++
      bytesOfWord 8 ((k.sp.lived.read g).toNat % 32 + k.base g * 2 ^ 8)),
   (0x0100, (List.range 32).flatMap fun i => bytesOf (k.readS g i)),
   (0x0200, bytesOf (k.readS g 32) ++ bytesOf (k.readS g 33) ++
      bytesOfWord 8 ((List.range 8).foldl (fun n i => n + bit (k.readQ g i) * 2 ^ i) 0) ++
      bytesOf k.sp.tpc ++ bytesOf k.sp.tcause ++ bytesOf (k.sp.clipped.read g) ++ bytesOf k.sp.waitlim),
   (0x0280, (List.range 16).flatMap fun i => bytesOf (k.readA g i)),
   (0x0300, (List.range 16).flatMap fun i => bytesOf (k.readH g i)),
   (0x0380, (List.range 16).flatMap fun i => bytesOfWord 16 (k.readB g i).toNat),
   (0x0580, (List.range 8).flatMap fun i => bytesOfWord 16 (k.readP g i).toNat),
   (0x2900, fileBytes k.ve.oa g 8 ++ fileBytes k.ve.ob g 8),
   (0x3900, fileBytes k.ve.la g 2 ++ fileBytes k.ve.lb g 2)] ++
  strided 0x0480 16 (k.me.shp.take 3) (fun e => bytesOfWord 8 (e.1 + e.2.1 * 2 ^ 4 + 2 ^ 8) ++ bytesOf (if e.2.2.2 = g then e.2.2.1 else 0)) ++
  strided 0x0600 8 k.pp.lq (fun e => bytesOf e.descriptor) ++
  strided 0x0700 16 k.pp.lq (fun e => bytesOfWord 16 e.mask.toNat) ++
  strided 0x0900 256 k.pp.lq (fun e => bytesOfWord 256 e.value.toNat) ++
  (List.range 64).filterMap (fun p =>
    if k.dead g p then none
    else some (0x4000 + 256 * p, bytesOfWord 256 ((SMap.get (Reg.wiped 2048) k.ve.v p).read g).toNat))

/-- The receive queues of a core in its record, from offset 0x8000 + KEEP (R288). -/
def Core.queueRecord (k : Core) (g : Gen) : Segs :=
  (List.range 16).flatMap fun ch =>
    let r := SMap.get RcvQueue.reset k.rcvq ch
    (16 * ch, bytesOfWord 8 (r.entries.length + r.credits * 2 ^ 8 + 2 ^ 16)) ::
      strided (256 + 4096 * ch) 256 r.entries (fun e => bytesOfWord 256 (e.read g).toNat)

/-- The keep regions of a kernel, in ascending offset. -/
def Kernel.keeps (k : Kernel) : List Region :=
  sortBy (fun a b => decide (a.off ≤ b.off)) (k.regions.filter Region.keep)

/-- Bytes of one core's record (R288). -/
def recordSize (keep : Nat) : Nat := 0x18100 + keep
/-- The size of a gang's save area (R327). -/
def Image.areaSize (i : Image) : Nat := 256 + 160 * recordSize ((i.kernels.map Kernel.keep).foldl max 0)

/-- The save area of a gang (R287, R340). -/
def Ctx.saveArea (c : Ctx) (gidx : Nat) : Nat := fieldOf (c.ctl 0x300) 8 56 * 256 + gidx * c.image.areaSize

/-- Own-scratchpad bytes of the keep regions, region by region. -/
def State.keepSegs (s : State) (c : Nat) (g : Gen) (k : Kernel) : Segs :=
  (k.keeps.foldl (fun (acc : Nat × Segs) r =>
    (acc.1 + r.size, acc.2 ++ [(acc.1, s.readBytes { gen := g, tagged := true, part := none } (locSpad c r.off) r.size)]))
    (0x8000, [])).2

/-- One core's record written (R286 item 2, R288). -/
def State.saveCore (s : State) (x d va : Nat) (g : Gen) (c : Nat) (kern : Kernel) : State :=
  let k := s.core c
  -- The slots of dead v registers are not written (R288).
  s.writeRecord x d va [(0, 0x4000), (0x8000 + kern.keep, 0x10100)]
    (k.record x g kern.keep ++ s.keepSegs c g kern ++ (k.queueRecord g).map fun e => (0x8000 + kern.keep + e.1, e.2))

/-! ### Reading a core record (R290) -/

/-- Registers of a file from a record, tagged with a generation. -/
def regsFrom (n w : Nat) (bs : List Byte) (off step : Nat) (g : Gen) (ok : Nat → Bool) : SMap (Reg w) :=
  (List.range n).foldl (fun m i =>
    if ok i then
      SMap.set (Reg.wiped w) m i (Reg.of (BitVec.ofNat w (wordOfBytes ((bs.drop (off + step * i)).take step))) g)
    else m) []

/-- The receive queues of a record, with what has arrived and come back since (R203, R290). -/
def rcvFrom (bs : List Byte) (since : SMap RcvQueue) (g : Gen) : SMap RcvQueue :=
  (List.range 16).foldl (fun m ch =>
    let w := wordOf ((bs.drop (16 * ch)).take 8)
    let later := SMap.get RcvQueue.reset since ch
    let es := (List.range (fieldOf w 0 5)).map fun e =>
      (Reg.of (BitVec.ofNat 2048 (wordOfBytes ((bs.drop (256 + 4096 * ch + 256 * e)).take 256))) g : Reg 2048)
    SMap.set .reset m ch { entries := es ++ later.entries, credits := fieldOf w 8 5 + later.credits - 16 }) []

/-- A core with the contents of its record: the matrix state, the channels and the ranks stay as they are. `kept` is what the
model keeps of the core beside the record. -/
def Core.restoreFrom (k kept : Core) (g : Gen) (held : Bool) (keep : Nat) (bs : List Byte) : Core :=
  let w (off : Nat) : Word := wordOf ((bs.drop off).take 8)
  let w3 := w 24
  let base := fieldOf w3 8 5
  let depth := if fieldOf w3 0 5 = 0 then 32 else fieldOf w3 0 5
  let alive (p : Nat) : Bool := !decide (32 ≤ p ∧ 32 + depth ≤ logicalV base p)
  let shp := (List.range 3).filterMap fun i =>
    let d := w (0x480 + 16 * i)
    if d.getLsbD 8 then some (fieldOf d 0 4, fieldOf d 4 2, w (0x488 + 16 * i), g) else none
  let lq := (List.range 32).filterMap fun i =>
    lqOf (w (0x600 + 8 * i)) (BitVec.ofNat 128 (wordOfBytes ((bs.drop (0x700 + 16 * i)).take 16)))
      (BitVec.ofNat 2048 (wordOfBytes ((bs.drop (0x900 + 256 * i)).take 256))) held
  { k with
    sc := { s := regsFrom 32 64 bs 0x100 8 g (· ≠ 0),
            q := (List.range 8).foldl (fun m i =>
              if i = 0 then m else SMap.set (Reg.wiped 1) m i (Reg.of (BitVec.ofNat 1 (fieldOf (w 0x210) i 1)) g)) [],
            ls := regsFrom 2 64 bs 0x200 8 g fun _ => true },
    ve := { v := regsFrom 64 2048 bs 0x4000 256 g alive, p := regsFrom 8 128 bs 0x580 16 g (· ≠ 0),
            oa := regsFrom 8 2048 bs 0x2900 256 g fun _ => true, ob := regsFrom 8 2048 bs 0x3100 256 g fun _ => true,
            la := regsFrom 2 2048 bs 0x3900 256 g fun _ => true, lb := regsFrom 2 2048 bs 0x3B00 256 g fun _ => true },
    me := { a := regsFrom 16 64 bs 0x280 8 g (· ≠ 0), h := regsFrom 16 64 bs 0x300 8 g fun _ => true,
            b := regsFrom 16 128 bs 0x380 16 g fun _ => true, shp := shp },
    sp := { k.sp with rrb := Reg.of (BitVec.ofNat 64 base) g, lived := Reg.of (BitVec.ofNat 64 (fieldOf w3 0 5)) g,
                      tpc := lineAddr (w 0x218), tcause := tcauseWrite true 0 (w 0x220), clipped := Reg.of (w 0x228 &&& 0xF1#64) g,
                      waitlim := w 0x230 &&& 0xFFFFFFFF#64 },
    pp := { kept.pp with lq := lq, waitCnt := 0 },
    rcvq := rcvFrom (bs.drop (0x8000 + keep)) kept.rcvq g }

/-- The core when the record carries another generation: every register reads zero, and no entry is restored (R261). -/
def Core.restoreZero (k kept : Core) : Core :=
  { k with sc := .reset, ve := .reset, me := .reset,
           sp := { k.sp with rrb := Reg.wiped 64, lived := Reg.wiped 64, clipped := Reg.wiped 64, tpc := 0, tcause := 0, waitlim := 0 },
           pp := { kept.pp with lq := [], waitCnt := 0 }, rcvq := kept.rcvq }

/-- One core restored from its record, with its keep extent (R290). -/
def State.restoreCore (s : State) (x d va : Nat) (g : Gen) (held : Bool) (c : Nat) (kept : Core) (kern : Kernel) : State :=
  let bs := s.ctxBytes x d va (recordSize kern.keep)
  let recGen : Gen := BitVec.ofNat 10 (wordOfBytes ((bs.drop 8).take 8))
  if recGen ≠ g then s.modCore c fun k => k.restoreZero kept
  else
    let s := s.modCore c fun k => k.restoreFrom kept g held kern.keep bs
    (kern.keeps.foldl (fun (acc : Nat × State) r =>
      (acc.1 + r.size,
       acc.2.writeBytes { gen := g, tagged := true, part := none } (locSpad c r.off) ((bs.drop acc.1).take r.size)))
      (0x8000, s)).2

/-! ### Spill records (R293, R294) -/

/-- Bytes of a tile as a record holds them (R177). -/
def spillTile (m : MatrixRegs) (g : Gen) (i : Nat) : List Byte := tileBytes ((SMap.get (Reg.wiped 32768) m.t i).read g)

/-- LIVE, SQ and FB of ACCOWN (R175). -/
def accLive (w : Word) (i : Nat) : Bool := w.getLsbD (8 + i)
def accSq (w : Word) : Bool := w.getLsbD 1
def accFb (w : Word) : Bool := w.getLsbD 0

end Sys2Proof.Machine
end

