-- ==== Sys2Proof/Machine/Switch.lean ====
section
/-! DEFINITION. How a gang gives up its cores (R275, R280 to R290): the waits and the clear of a yield, cancelled copies, the
save of a forced pre-emption, and the lazy matrix state (R292 to R296). -/

namespace Sys2Proof.Machine

/-! ### Copies that a gang waits for (R280, R281) -/

/-- Bytes from an address on meet a scratchpad of the cores of a list, as a core of the context sees it. -/
def State.meetsGang (s : State) (x c : Nat) (cs : List Nat) (a : Word) (n : Nat) : Bool :=
  let hits (lo : Nat) : Bool := decide (0 < n ∧ a.toNat < lo + 0x200000 ∧ lo < a.toNat + n)
  (hits 0 && cs.contains c) ||
  (List.range 1280).any fun r =>
    hits (0x1000000 + r * 0x200000) && ((s.ctx? x).bind fun y => y.coreOfRank (dieOfCore c) r).elim false cs.contains

/-- Every index tuple of the rows of a shape. -/
def allRows : List (Nat × Int × Int) → List (List Nat)
  | [] => [[]]
  | d :: ds => (allRows ds).flatMap fun r => (List.range d.1).map fun i => i :: r

/-- A copy some row of which lies in a scratchpad of the cores, at its source or its destination, or whose destination is a bobbin of
one. -/
def State.copyTouches (s : State) (cs : List Nat) (c : Nat) (r : CopyRun) : Bool :=
  (r.bobbin.isSome && cs.contains c) ||
  (allRows r.dims).any fun i =>
    let y := { r with idx := i, off := 0 }
    s.meetsGang r.ctx c cs y.srcAt r.len || (r.bobbin.isNone && s.meetsGang r.ctx c cs y.dstAt r.len)

/-- Copies of a context that its gang waits for. -/
def State.copiesHold (s : State) (x : Nat) (cs : List Nat) : Bool :=
  s.cores.any fun e => e.2.chan.any fun ch => ch.2.any fun r => r.ctx == x && r.gone.isNone && s.copyTouches cs e.1 r

/-- Ring bytes above TAIL and below HEAD + 256 × SIZE (R156). -/
def bobRoom (b : QWord) : Nat := 256 * bobSize b - (bobTail b + 2 ^ 32 - bobHead b) % 2 ^ 32

/-- The copy at the head of a channel is blocked on a full ring (R208). -/
def State.ringBlocked (s : State) (c : Nat) (r : CopyRun) : Bool :=
  match r.bobbin with
  | none => false
  | some b =>
    !r.finished && decide (bobRoom ((s.core c).readB r.gen b) = 0)

/-- COPY_CANCEL (R281): once no step of the gang will free ring space, a blocked copy into a bobbin is dropped and its number
fails with ILLOP. -/
def State.copyCancel (s : State) (c ch : Nat) : State :=
  match s.seqOfCore c, (s.core c).chanOf ch with
  | some q, r :: rest =>
    let leaving := match (s.seq q).phase with
      | .yieldWait _ | .landWait | .held => true
      | _ => false
    let idle := (s.gang q).all fun d => (s.core d).mx.eng.isNone
    if leaving && idle && r.failed.isNone && s.ringBlocked c r then
      (s.modCore c fun k => k.setChan ch rest).tlFail (dieOfCore c) r.tl r.num cILLOP
    else s
  | _, _ => s

/-! ### Waits (R280, R286) -/

/-- No long result of the cores is still to be written. -/
def State.noLong (s : State) (cs : List Nat) : Bool :=
  s.flights.all fun f => !(cs.contains f.core && ((f.dest.isSome && f.failed.isNone) || decide (f.op = .scl)))
def State.unitsIdle (s : State) (cs : List Nat) : Bool := cs.all fun c => (s.core c).mx.eng.isNone && (s.core c).mx.tst.isNone

/-- What a yield and a landing both wait for. -/
def State.gangQuiet (s : State) (q : Nat) : Bool :=
  let cs := s.allCores q
  s.noLong cs && s.unitsIdle cs && !s.copiesHold (s.ctxIdOf q) cs && cs.all fun c => (s.core c).pp.accw.isNone && (s.core c).pp.accLeft == 0

/-- Every entry that has its value commits, held or not, and pending shapes are dropped (R275, R280 item 1). R152 says of a yield that
entries stay queued: the model follows R275 and R280, DESIGN CHOICE (log entry 75). -/
def Core.yieldCommit (k : Core) (g : Gen) : Core :=
  let now := byRem (k.pp.lq.filter fun e => e.load.isNone)
  let k := k.commitAll g now
  { k with me := { k.me with shp := [] }, pp := { k.pp with lq := k.pp.lq.filter fun e => e.load.isSome } }

/-- Items 1 to 3 of R280 are over. -/
def State.yieldReady (s : State) (q : Nat) : Bool :=
  (s.allCores q).all (fun c => (s.core c).pp.lq.isEmpty) && s.gangQuiet q

/-- A cycle of the waits of a yield. -/
def State.yieldStep (s : State) (q : Nat) : State :=
  let g := s.genOf q
  let s := s.modCores (fun _ k => k.yieldCommit g) (s.allCores q)
  s.modSeq q fun x => { x with phase := if s.yieldReady q then .yieldClear 16 else .yieldWait true }

/-! ### The clear (R282) -/

/-- A core at the clear of a yield. -/
def Core.yieldClear (k : Core) : Core :=
  { k with
    sc := { ScalarRegs.reset with s := SMap.keep (fun i => decide (1 ≤ i ∧ i ≤ 8)) k.sc.s },
    ve := .reset, me := .reset,
    sp := { k.sp with rrb := Reg.wiped 64, lived := Reg.wiped 64 } }

/-- A failed long result of a register that the clear zeroes has no later use. -/
def Flight.cleared (f : Flight) (cs : List Nat) : Bool :=
  f.failed.isSome && cs.contains f.core && (match f.dest with
    | some { file := .s, index := i } => decide (8 < i)
    | _ => true)

/-- The scratchpads of cores wiped. -/
def State.wipeSpads (s : State) (cs : List Nat) : State := cs.foldl (fun s c => s.wipeSpad c) s

/-- The gang has been cleared and stands at its yield (R280 item 4, R344). -/
def State.doClear (s : State) (q : Nat) : State :=
  let x := s.ctxIdOf q
  let cs := s.allCores q
  let s := ((s.zeroMatrix x (fun m => m.yieldClear x) cs).modCores (fun _ k => k.yieldClear) cs).wipeSpads cs
  let s := { s with flights := s.flights.filter fun f => !f.cleared cs }
  let g := (s.seq q).gidx
  (s.modSeq q fun y => { y with phase := .atYield }).modCtx x fun c =>
    { c.toYield with yielded := if c.yielded.contains g then c.yielded else c.yielded ++ [g] }

/-- YIELD_CLEAR (R282): the waits are over and the clear is carried out. -/
def State.yieldClear (s : State) (q : Nat) : State :=
  match (s.seq q).phase with
  | .yieldWait true => if s.yieldReady q then s.doClear q else s
  | .yieldClear _ => s.doClear q
  | _ => s

/-- One cycle of a clear under way. -/
def State.clearStep (s : State) (q left : Nat) : State :=
  if left ≤ 1 then s.doClear q else s.modSeq q fun x => { x with phase := .yieldClear (left - 1) }

/-! ### Landing (R286, R345) -/

/-- The waits of step 1 of R286: every own access has reached its cycle, and the gang is quiet. -/
def State.landReady (s : State) (q : Nat) : Bool :=
  let cs := s.allCores q
  cs.all (fun c => (s.core c).pp.lq.all (fun e => e.load.isNone) && (s.core c).pp.fed.isEmpty) &&
  (s.flights.all fun f => !(cs.contains f.core && f.due.isSome)) && s.gangQuiet q

/-- The kernel of a sequencer, or an empty one. -/
def noKernel : Kernel := { entry := 0, run := 0, maxpos := 0, loopTab := [], regions := [], fmt := [], keep := 0 }
def State.kernelAt (s : State) (q : Nat) : Kernel := (s.kernelOf q).getD noKernel

/-- The records of a gang written to its area (R286 item 2, R340). -/
def State.saveGang (s : State) (q : Nat) : State :=
  let x := s.ctxIdOf q
  match s.ctx? x with
  | none => s
  | some c =>
    let d := dieOfSeq q
    let g := c.gen
    let kern := s.kernelAt q
    let area := c.saveArea (s.seq q).gidx
    let s := s.writeRecord x d area [(0, 256)] ((s.seq q).record g (s.seq q).pc)
    (s.gang q).foldl (fun s k => s.saveCore x d (area + 256 + (s.core k).sp.crank * recordSize kern.keep) g k kern) s

/-- What the model keeps of a gang's cores: those of a landed gang hold in their queues only what arrives later (R203). -/
def State.keptCores (s : State) (q : Nat) (landed : Bool) : List (Nat × Core) :=
  (s.gang q).map fun c => (c, if landed then { (s.core c) with rcvq := [] } else s.core c)

/-- The slice a parked context resumes with (R279). -/
def State.sliceOf (s : State) (x : Nat) : Nat := fieldOf (s.pcfg (partOf x)) 48 16 * 1024

/-- The gang's record enters its context: what a landed gang has counted against WAITLIM starts again (R360). -/
def State.keepGang (s : State) (q : Nat) (landed : Bool) : State :=
  let x := s.ctxIdOf q
  let p : Parked := { seq := s.seq q, cores := s.keptCores q landed, withState := landed, sleft := s.sliceOf x }
  let g := (s.seq q).gidx
  s.modCtx x fun c => { c with parkedAt := (c.parkedAt.filter fun e => e.1 ≠ g) ++ [(g, p)] }

/-- A sequencer left without a stream: its gang, its counters and its arbiter's pointers stay, and so do PC, MPC and the loop stack,
which the next start writes (R21). -/
def Seq.vacate (x : Seq) : Seq :=
  { Seq.reset with gang := x.gang, cyc := x.cyc, issued := x.issued, rot := x.rot, chosen := x.chosen, fenced := x.fenced,
                   pc := x.pc, mpc := x.mpc, lsta := x.lsta, lend := x.lend, lcnt := x.lcnt }

/-- A core that another stream takes: its queues and what moved for it are gone; the matrix state, the channels and the ranks stay. -/
def Core.vacate (k : Core) : Core :=
  { Core.reset with mx := k.mx, chan := k.chan, seals := k.seals,
                    sp := { CoreSpecials.reset with crank := k.sp.crank, gangsz := k.sp.gangsz, skew := k.sp.skew } }

/-- A core left by a stream: nothing moves for it, and its registers stay as the stream left them (R235, R275). -/
def Core.leave (k : Core) : Core :=
  { k with me := { k.me with shp := [] }, pp := .reset, rcvq := [], sp := { k.sp with grank := 0, drank := 0 } }

/-- The sequencer and its cores are free. -/
def State.vacate (s : State) (q : Nat) : State :=
  let cs := s.allCores q
  ((s.modCores (fun _ k => k.leave) cs).modSeq q Seq.vacate).linePrune (dieOfSeq q)

/-! ### Lazy matrix state (R292 to R296) -/

/-- The matrix state of a core spilled to its owner's record (R294, R295). -/
def State.accSpill (s : State) (c : Nat) : State :=
  let m := (s.core c).mx
  let o := m.accown
  let id := accOwner o
  match s.ctx? id with
  | none => s
  | some y =>
    if fieldOf o 8 8 = 0 ∧ !accSq o ∧ !accFb o then s
    else
      let d := dieOfCore c
      let va := y.spillAddr c
      let s := (List.range 8).foldl (fun s i => if accLive o i then s.ctxWrite id d (va + 0x1000 * i) (spillTile m y.gen i) else s) s
      let aux := accSq o || accFb o
      let s := if aux then
          let poison := (List.range 8).foldl (fun n i => n + bit ((m.scq[i]?).elim false ScaleEntry.poisoned) * 2 ^ i) 0
          let w := packW [(poison, 16), (bit m.half, 8), (m.scq.length, 0)]
          let q := m.scq.flatMap fun e => bytesOfWord 64 (if e.tag.is y.gen && !e.poisoned then e.val.toNat else 0)
          (((s.ctxWrite id d (va + 0x8008) (bytesOf m.fbind)).ctxWrite id d (va + 0x8010) (bytesOf w)).ctxWrite id d (va + 0x8018)
          (List.replicate 488 0)).ctxWrite id d (va + 0x8200) (q ++ List.replicate (512 - q.length) 0)
        else s
      s.ctxWrite id d (va + 0x8000) (bytesOf (packW [(y.gen.toNat, 16), (bit aux, 8), (fieldOf o 8 8, 0)]))

/-- A scale queue of a record. -/
def scqFrom (w : Word) (bs : List Byte) (g : Gen) : List ScaleEntry :=
  (List.range (min 8 (fieldOf w 0 4))).map fun i =>
    { val := BitVec.ofNat 512 (wordOfBytes ((bs.drop (64 * i)).take 64)), tag := Tag.of g, poisoned := w.getLsbD (16 + i) }

/-- The matrix state of the new owner loaded from its record, for a core and its shadow (R295). -/
def State.accLoad (s : State) (c : Nat) (target : List Nat) (v : Word) : State :=
  let id := accOwner v
  match s.ctx? id with
  | none => s
  | some y =>
    let d := dieOfCore c
    let va := y.spillAddr c
    let n := wordOf (s.ctxBytes id d (va + 0x8000) 8)
    let live := fieldOf n 0 8
    let aux := n.getLsbD 8
    if n.extractLsb' 16 10 ≠ y.gen ∨ (live = 0 ∧ !aux) then s
    else
      let tiles (t : SMap (Reg 32768)) : SMap (Reg 32768) :=
        (List.range 8).foldl (fun t i =>
          if n.getLsbD i then
            SMap.set (Reg.wiped 32768) t i (Reg.of (BitVec.ofNat 32768 (wordOfBytes (s.ctxBytes id d (va + 0x1000 * i) 4096))) y.gen)
          else t) t
      let w := wordOf (s.ctxBytes id d (va + 0x8010) 8)
      let load (m : MatrixRegs) : MatrixRegs :=
        let own := setField m.accown 8 8 (fieldOf (m.accown ||| BitVec.ofNat 64 (live * 2 ^ 8)) 8 8)
        let m := { m with t := tiles m.t, accown := setField own 0 2 (bit aux * 3) }
        if aux then
          { m with fbind := wordOf (s.ctxBytes id d (va + 0x8008) 8), fbOf := none, half := w.getLsbD 8,
                   scq := scqFrom w (s.ctxBytes id d (va + 0x8200) 512) y.gen }
        else m
      (s.modCores (fun _ k => { k with mx := load k.mx }) target).ctxWrite id d (va + 0x8000) (bytesOf (setField n 0 9 0))

/-- Tiles that a write of ACCOWN moves to the old owner's record and from the new owner's (R295). -/
def State.tilesMoved (s : State) (c : Nat) (v : Word) : Nat :=
  let o := (s.core c).mx.accown
  let spilled := (s.ctx? (accOwner o)).elim 0 fun _ => popcount 8 (fieldOf o 8 8)
  let loaded := (s.ctx? (accOwner v)).elim 0 fun y =>
    let n := wordOf (s.ctxBytes (accOwner v) (dieOfCore c) (y.spillAddr c + 0x8000) 8)
    if n.extractLsb' 16 10 = y.gen then popcount 8 (fieldOf n 0 8) else 0
  spilled + loaded

/-- A system write of ACCOWN takes effect on a core and its shadow: the stall goes on for 16 cycles of each tile moved (R295). -/
def State.accownApply (s : State) (c : Nat) (target : List Nat) (v : Word) : State :=
  let o := (s.core c).mx.accown
  let done (s : State) : State := s.modCores (fun _ k => { k with pp := { k.pp with accw := none } }) target
  if accOwner v = accOwner o then
    done (s.modCores (fun _ k => { k with mx := { k.mx with accown := v } }) target)
  else
    let moved := s.tilesMoved c v
    let s := s.accSpill c
    let s := s.modCores (fun _ k => { k with mx := { k.mx with t := [], scq := [], half := false, fbind := 8, fbOf := none, accown := v } }) target
    done ((s.accLoad c target v).modCores (fun _ k => { k with pp := { k.pp with accLeft := 16 * moved } }) target)

/-- The core and, in a redundant pair, its shadow. -/
def State.withShadow (s : State) (c : Nat) : List Nat :=
  match s.seqOfCore c with
  | some q => if s.paired q then [c, shadowCore c] else [c]
  | none => [c]

/-- ACCOWN_WRITE (R295): once the engine and the tile store hold no operation. -/
def State.accownWrite (s : State) (c : Nat) : State :=
  match (s.core c).pp.accw with
  | none => s
  | some v =>
    let target := s.withShadow c
    if s.unitsIdle target && (s.seqOfCore c).isSome then s.accownApply c target v else s

end Sys2Proof.Machine
end

