-- ==== Sys2Proof/Machine/Group.lean ====
section
/-! DEFINITION. Groups (R335 to R355) and the arbiter (R310, R311): placement, how a gang takes and leaves a context, the
agreements of a group, landing, eviction, redundant pairs and the spare core. -/

namespace Sys2Proof.Machine

/-! ### Bindings (R335, R349) -/

/-- The offset of CBIND of a core's position on its die (R335). -/
def cbindOff (c : Nat) : Nat := 0x5000 + 0x100 * (creelOfCore c % 10) + 8 * (c % 16)
def State.cbind (s : State) (c : Nat) : Word := s.dctl (dieOfCore c) (cbindOff c)
def State.setCbind (s : State) (c : Nat) (w : Word) : State := s.setDctl (dieOfCore c) (cbindOff c) w
/-- A binding word with its reserved bits zero. -/
def cbindStore (v : Word) : Word := BitVec.ofNat 64 (fieldOf v 4 4 * 16 + fieldOf v 0 2)

/-- The offset of SPARE of a creel (R353). -/
def spareOff (creel : Nat) : Nat := 0x5000 + 0x100 * (creel % 10) + 0x80

/-- A logical position that a retirement has left unbound: no physical core serves it (R25, R354). -/
def State.lostCore (s : State) (c : Nat) : Bool :=
  let w := s.dctl (dieOfCore c) (spareOff (creelOfCore c))
  if fieldOf w 24 5 = c % 16 then w.getLsbD 16 else w.getLsbD (c % 16)

/-- The gang of a sequencer as CBIND gives it, by position; a lost position belongs to none (R335, R354). -/
def State.boundGang (s : State) (q : Nat) : List Nat :=
  (upFrom (creelOfSeq q * 16) 16).filter fun c =>
    let w := s.cbind c
    w.getLsbD 7 && fieldOf w 0 2 == q % 4 && !s.lostCore c

/-- A gang of this many cores can run (R335). -/
def gangRuns (n : Nat) : Bool := n == 1 || n == 2 || n == 4 || n == 8 || n == 16

/-- The sequencer whose shadow a sequencer would be, and the shadow of a sequencer (R349). -/
def shadowSeq (q : Nat) : Nat := q + 4
def State.isShadow (s : State) (q : Nat) : Bool := creelOfSeq q % 2 == 1 && s.paired (q - 4)
def State.pairTouches (s : State) (q : Nat) : Bool := s.paired q || s.isShadow q

/-- A context is placed on a sequencer. -/
def State.hasPlaced (s : State) (q : Nat) : Bool := !(s.placedOn q).isEmpty

/-- The gang and the ranks of a sequencer that runs nothing follow CBIND (R335, R337). -/
def State.rebind (s : State) (q : Nat) : State :=
  if (s.seq q).phase = .idle ∧ (s.seq q).ctx = none then
    let g := s.boundGang q
    (s.modSeq q fun x => { x with gang := g }).rankGang g
  else s

/-- CBIND_WRITE (R335, R337). -/
def State.writeCbind (s : State) (c : Nat) (v : Word) : State :=
  let old := s.cbind c
  let new := cbindStore v
  let creel := creelOfCore c * 4
  let qs := (if old.getLsbD 7 then [creel + fieldOf old 0 2] else []) ++ (if new.getLsbD 7 then [creel + fieldOf new 0 2] else [])
  let moved := old.getLsbD 7 != new.getLsbD 7 || fieldOf old 0 2 != fieldOf new 0 2
  if qs.any s.pairTouches || (moved && qs.any s.hasPlaced) then s
  else qs.foldl State.rebind (s.setCbind c new)

/-- PAIR_WRITE (R349): MIS is cleared where the write holds 1; a write that sets an EN bit has its conditions. -/
def State.writePair (s : State) (d j : Nat) (v : Word) (w1c : Bool) : State :=
  let off := 0x5A00 + 8 * j
  let old := s.dctl d off
  let ok (i : Nat) : Bool :=
    let q := d * 40 + j * 8 + i
    let same := (upFrom (creelOfSeq q * 16) 16).all fun c => s.cbind c == s.cbind (c + 16)
    same && gangRuns (s.boundGang q).length && !s.hasPlaced q && !s.hasPlaced (shadowSeq q)
  if (List.range 4).any fun i => v.getLsbD i && !old.getLsbD i && !ok i then s
  else
    let mis := if w1c then (old.extractLsb' 4 4 &&& ~~~(v.extractLsb' 4 4)).toNat else fieldOf old 4 4
    s.setDctl d off (BitVec.ofNat 64 (mis * 16 + fieldOf v 0 4))

/-! ### Placement (R338 to R340) -/

def Ctx.gpl (c : Ctx) (g : Nat) : Word := c.ctl (0x400 + 8 * g)
def gplSeq (w : Word) : Nat := fieldOf w 56 3 * 40 + fieldOf w 52 4 * 4 + fieldOf w 50 2
def Ctx.gid (c : Ctx) : BitVec 16 := (c.ctl 0x340).extractLsb' 48 16
def Ctx.yclass (c : Ctx) : BitVec 4 := (c.ctl 0x340).extractLsb' 40 4

/-- The valid entries of a placement table. -/
def Ctx.entries (c : Ctx) : List Word := ((List.range 320).map c.gpl).filter fun w => w.getLsbD 63

/-- The first n entries are the valid ones, and their dies never decrease. -/
def Ctx.entriesOk (c : Ctx) : Bool :=
  let n := c.entries.length
  decide (0 < n) && (List.range n).all (fun g => (c.gpl g).getLsbD 63) &&
  (List.range (n - 1)).all fun g => decide (fieldOf (c.gpl g) 56 3 ≤ fieldOf (c.gpl (g + 1)) 56 3)

/-- Positions of cores in their creel, as a mask. -/
def posMask (l : List Nat) : Nat := l.foldl (fun m c => m + 2 ^ (c % 16)) 0

/-- The dies a placement names. -/
def entryDies (l : List Word) : List Nat := (l.map fun w => fieldOf w 56 3).eraseDups

/-- Every named die can carry the agreements of the group (R339, result 0x05). -/
def State.agreesOn (s : State) (x : Nat) (c : Ctx) (dies : List Nat) : Bool :=
  dies.all fun d =>
    s.clwin d c.yclass.toNat != 0 &&
    (List.range 128).any fun i =>
      let g := s.clgrp d i
      g.valid && g.part == partOf x && g.gid == c.gid && dies.all fun e => g.members.contains (s.selfFab e)

/-- RESULT of a PLACE (R339). -/
def State.placeResult (s : State) (x : Nat) (c : Ctx) : Nat :=
  let l := c.entries
  let qs := l.map gplSeq
  if !c.entriesOk then 1
  else if l.any fun w =>
      decide (9 < fieldOf w 52 4) || fieldOf w 0 16 != posMask (s.boundGang (gplSeq w)) || !gangRuns (s.boundGang (gplSeq w)).length
    then 2
  else if (l.any fun w => !s.present (fieldOf w 56 3)) || decide (qs.eraseDups.length < qs.length) then 3
  else if qs.any s.isShadow then 4
  else if decide (1 < (entryDies l).length) && !s.agreesOn x c (entryDies l) then 5
  else if c.phase ≠ .loaded then 6
  else 0

/-- The gangs of a placement in order, with DRANK and the first GRANK of each (R340). -/
def placeGangs (dies : List Nat) : (grank : Nat) → List Word → List GangPlace
  | _, [] => []
  | n, w :: r =>
    { seq := gplSeq w, mask := w.extractLsb' 0 16, drank := dies.findIdx (· == fieldOf w 56 3), grank := n } ::
      placeGangs dies (n + popcount 16 (fieldOf w 0 16)) r

/-- GRPCTL with RESULT set and CMD finished. -/
def Ctx.grpDone (c : Ctx) (result : Nat) : Ctx := c.setCtl 0x348 (setField (setField (c.ctl 0x348) 32 8 result) 0 4 0)

/-- The placement of a context cleared. -/
def Ctx.unplace (c : Ctx) : Ctx :=
  { c with gangs := [], ndie := 0, ncore := 0, group := .unplaced, parkedAt := [], taken := [], yielded := [], landed := [],
           retired := [], evicted := [], agree := none, pending := [] }

/-- PLACE (R339, R340). -/
def State.placeCtx (s : State) (x : Nat) : State :=
  s.modCtx x fun c =>
    let r := s.placeResult x c
    if r ≠ 0 then c.grpDone r
    else
      let l := c.entries
      let dies := entryDies l
      { c.unplace.grpDone 0 with
        gangs := placeGangs dies 0 l, ndie := dies.length,
        ncore := l.foldl (fun n w => n + popcount 16 (fieldOf w 0 16)) 0, group := .placed }

/-- RELEASE (R339). -/
def State.releaseCtx (s : State) (x : Nat) : State :=
  s.modCtx x fun c => if c.phase = .loaded then c.unplace.grpDone 0 else c.grpDone 6

/-! ### A gang takes a context (R21, R275, R290, R337, R341) -/

/-- The entry of a sequencer in a context's placement. -/
def Ctx.gangAt (c : Ctx) (q : Nat) : Option Nat := c.gangs.findIdx? fun p => p.seq == q

/-- The ranks and the skew of a gang's cores at a start (R337, R340). -/
def State.startRanks (s : State) (q : Nat) (p : GangPlace) : State :=
  let gang := s.gang q
  let set (off i : Nat) (s : State) (c : Nat) : State :=
    s.modCore (c + off) fun k =>
      { k with sp := { k.sp with crank := i, gangsz := gang.length, grank := p.grank + i, drank := p.drank,
                                 skew := fieldOf (s.cbind c) 4 3 } }
  (List.range gang.length).foldl (fun s i =>
    let c := (gang[i]?).getD 0
    let s := set 0 i s c
    if s.paired q then set 16 i s c else s) s

/-- A core at the launch of a kernel (R21): special registers hold their reset values, and its queues are empty. -/
def Core.launch (k : Core) (x : Nat) (args : List Word) (fmt : SMap (Reg 128)) (g : Gen) : Core :=
  let k := k.startRegs args fmt g
  { k with sp := { CoreSpecials.reset with crank := k.sp.crank, gangsz := k.sp.gangsz, grank := k.sp.grank, drank := k.sp.drank,
                                           skew := k.sp.skew },
           pp := .reset, rcvq := [], seals := k.seals.filter fun b => b.owner == x }

/-- A core as a context kept it, in the core where it resumes: the matrix state and the channels are those of the core. Bindings of the
context itself stay where no other context has run on the core since: DESIGN CHOICE (log entry 78; R214). -/
def Core.resume (k kept : Core) (x : Nat) : Core :=
  { kept with mx := { k.mx with f := kept.mx.f }, chan := k.chan, seals := k.seals.filter fun b => b.owner == x,
              sp := { kept.sp with crank := k.sp.crank, gangsz := k.sp.gangsz, grank := k.sp.grank, drank := k.sp.drank,
                                   skew := k.sp.skew } }

/-- The sequencer's own record of a stream it starts: what belongs to the sequencer stays. -/
def Seq.adopt (x new : Seq) : Seq :=
  { new with gang := x.gang, cyc := x.cyc, issued := x.issued, rot := x.rot, chosen := none, fenced := x.fenced, snap := none,
             thrCyc := 0, lineUp := false, released := false }

/-- A gang starts a launch (R341). -/
def State.takeFresh (s : State) (q x i : Nat) (c : Ctx) (p : GangPlace) : State :=
  let l := c.launch.getD { queue := 0, kidx := 0, cookie := 0, cevt := false, args := [] }
  let kern := (c.image.kernels[l.kidx + p.drank]?).getD noKernel
  let fmt := formatRegs (some kern) c.gen
  let s := s.modSeq q fun y => y.adopt { Seq.reset with
    ctx := some x, gidx := i, phase := .start 64, sys := c.image.system, pc := lineAddr kern.entry, mpc := Reg.of 0 c.gen,
    runleft := 256 * kern.run, loopTab := kern.loopTab, kern := l.kidx + p.drank, asid := c.asid, sleft := s.sliceOf x }
  let cs := s.allCores q
  (s.zeroMatrix x (fun m => m.startClear x c.gen) cs).modCores (fun _ k => k.launch x l.args fmt c.gen) cs

/-- The state kept of one core of a gang. -/
def Parked.core (r : Parked) (c : Nat) : Core := (r.cores.find? fun e => e.1 == c).elim Core.reset Prod.snd

/-- A gang resumes at a yield, or from its save area (R290). A shadow takes what its primary takes. -/
def State.takeKept (s : State) (q x i : Nat) (c : Ctx) (r : Parked) : State :=
  let d := dieOfSeq q
  let kern := (c.image.kernels[r.seq.kern]?).getD noKernel
  let area := c.saveArea i
  let bs := s.ctxBytes x d area 256
  let y0 := { r.seq with ctx := some x, gidx := i, async := [], sleft := s.sliceOf x }
  let y0 := if !r.withState then y0
    else y0.restore c.gen (if fieldOf (wordOf ((bs.drop 0x18).take 8)) 0 10 = c.gen.toNat then bs else List.replicate 256 0)
  let s := s.modSeq q fun y => y.adopt { y0 with phase := if r.withState then .restore (64 + recordSize kern.keep / 64) else .start 64 }
  let s := (s.gang q).foldl (fun s k =>
    let s := s.modCore k fun now => now.resume (r.core k) x
    if r.withState then
      s.restoreCore x d (area + 256 + (s.core k).sp.crank * recordSize kern.keep) c.gen (s.acting q) k (r.core k) kern
    else s) s
  if s.paired q then
    (s.gang q).foldl (fun s k =>
      let s := s.modCore (shadowCore k) fun now => now.resume (s.core k) x
      if r.withState then
        kern.keeps.foldl (fun s g =>
          s.writeBytes { gen := c.gen, tagged := true, part := none } (locSpad (shadowCore k) g.off)
            (s.readBytes { gen := c.gen, tagged := true, part := none } (locSpad k g.off) g.size)) s
      else s) s
  else s

/-- A gang takes a context: a launch starts, or what was kept of it is restored. -/
def State.takeCtx (s : State) (q x : Nat) : State :=
  match s.ctx? x, (s.ctx? x).bind fun c => c.gangAt q with
  | some c, some i =>
    match c.gangs[i]? with
    | none => s
    | some p =>
      let g := s.boundGang q
      let s := ((s.modSeq q fun y => { y with gang := g }).modCores (fun _ k => k.vacate) g).startRanks q p
      let s := match c.parkedAt.find? fun e => e.1 == i with
        | some (_, r) => s.takeKept q x i c r
        | none => s.takeFresh q x i c p
      let s := s.modSeq q fun y =>
        { y with cline := c.ctl 0x350, async := (c.pending.filter fun e => e.1 == i).map Prod.snd }
      s.modCtx x fun c =>
        { c with parkedAt := c.parkedAt.filter fun e => e.1 ≠ i, pending := c.pending.filter fun e => e.1 ≠ i }
  | _, _ => s

/-! ### Eligibility and choice (R310, R311) -/

/-- An open with a context as its KCTX is in flight (R333). -/
def State.opening (s : State) (x : Nat) : Bool :=
  s.cores.any fun e => e.2.chan.any fun ch => ch.2.any fun r => r.sealed.elim false fun y => y.opening && y.kctx == x

/-- A context may be chosen by a gang that does not run it. -/
def State.mayChoose (s : State) (q x : Nat) : Bool :=
  match s.ctx? x with
  | none => false
  | some c =>
    c.gangAt q == some 0 && (match c.phase, c.group with
      | .ready, .starting => !c.taken.contains 0
      | .parkedYield, .parked => true
      | .parkedState, .parked => !s.opening x
      | _, _ => false) && (c.retired.contains 0 == false)

/-- A context that gang 0 has taken and this gang still has to take (R343). -/
def State.mustTake (s : State) (q x : Nat) : Bool :=
  match s.ctx? x with
  | none => false
  | some c =>
    match c.gangAt q with
    | some i => c.group == .starting && i != 0 && c.taken.contains 0 && !c.taken.contains i && !c.retired.contains i
    | none => false

def State.rankOf (s : State) (x : Nat) : Nat × Nat :=
  match (s.ctx? x).bind Ctx.queue with
  | some n => ((s.queue n).rank, n)
  | none => (31, 1023)

/-- The arbiter's choice among contexts: the lowest rank, and in it the first queue number above the pointer (R311). -/
def State.choice (s : State) (q : Nat) (l : List Nat) : Option Nat :=
  let best := l.foldl (fun m x => min m (s.rankOf x).1) 32
  let same := l.filter fun x => (s.rankOf x).1 == best
  let ptr := SMap.get 0 (s.seq q).rot best
  let dist (x : Nat) : Nat := ((s.rankOf x).2 + 1023 - ptr) % 1024
  same.foldl (fun m x => match m with
    | some y => if dist x < dist y then some x else m
    | none => some x) none

/-- The rotation pointer of a rank set to the chosen queue (R311). -/
def State.turn (s : State) (q x : Nat) : State :=
  s.modSeq q fun y => { y with rot := SMap.set 0 y.rot (s.rankOf x).1 (s.rankOf x).2 }

/-! ### Slices (R276 to R278, R472) -/

/-- The slice of gangs of a context on one die ends: one record for the die, where some of its cycles were throttled (R278, R472). -/
def State.endSlices (s : State) (x : Nat) (qs : List Nat) : State :=
  let n := (qs.map fun q => (s.seq q).thrCyc).foldl max 0
  let s := if n = 0 then s else s.postVf (partOf x) (BitVec.ofNat 64 n) 0xF006 x
  qs.foldl (fun s q => s.modSeq q fun y => { y with thrCyc := 0 }) s

/-- A gang leaves the slice of its context: while another gang of the context is on the die, the die's count stays with that gang (R278). -/
def State.leaveSlice (s : State) (q : Nat) : State :=
  let y := s.seq q
  let x := s.ctxIdOf q
  let others := (upFrom (dieOfSeq q * 40) 40).filter fun r => r != q && (s.seq r).ctx == y.ctx && (s.seq r).parent.isNone
  match others with
  | [] => s.endSlices x [q]
  | r :: _ => (s.modSeq r fun z => { z with thrCyc := max z.thrCyc y.thrCyc }).modSeq q fun y => { y with thrCyc := 0 }

/-- REQ of PREQ. -/
def Ctx.setReq (c : Ctx) (b : Bool) : Ctx := c.setCtl 0x310 (setField (c.ctl 0x310) 0 1 (bit b))
def Ctx.req (c : Ctx) : Bool := (c.ctl 0x310).getLsbD 0

/-! ### Agreements (R343) -/

/-- The gangs of a context on a die that run it: sequencers of placed gangs, siblings left out. -/
def State.gangSeqs (s : State) (x d : Nat) : List Nat :=
  (upFrom (d * 40) 40).filter fun q => (s.seq q).ctx == some x && (s.seq q).parent.isNone

/-- The dies of a context's group. -/
def Ctx.dies (c : Ctx) : List Nat := (c.gangs.map fun p => dieOfSeq p.seq).eraseDups

/-- Every sequencer that runs a stream of a context, siblings too. -/
def State.streams (s : State) (x : Nat) : List Nat :=
  allSeqs.filter fun q => (s.seq q).ctx == some x && (s.seq q).phase != .retired && (s.seq q).phase != .idle

/-- The group becomes Faulted: GRPFLT at every gang that remains (R343). A gang that stood still goes on to take it; one that is
evicted or has landed keeps it. -/
def State.groupFault (s : State) (x : Nat) : State :=
  match s.ctx? x with
  | none => s
  | some c =>
    match c.group with
    | .unplaced | .placed | .faulted => s
    | _ =>
      let s := (s.streams x).foldl (fun s q =>
        (s.pend q cGRPFLT).modSeq q fun y => match y.phase with
          | .held | .atYield | .landWait => { y with phase := .run }
          | _ => y) s
      let away := c.parkedAt.map fun e => (e.1, cGRPFLT)
      s.modCtx x fun c =>
        { c with group := .faulted, agree := none, landed := [], yielded := [],
                 pending := c.pending ++ away.filter fun e => !c.pending.contains e }

/-- The snapshot of a gang's graph position (R352). -/
def State.snapshot (s : State) (q : Nat) : State :=
  let core (c : Nat) : CoreSnap :=
    let k := s.core c
    { core := c, low := SMap.keep (fun i => decide (1 ≤ i ∧ i ≤ 8)) k.sc.s, f := k.mx.f, waitlim := k.sp.waitlim,
      clipped := k.sp.clipped, tpc := k.sp.tpc, tcause := k.sp.tcause }
  s.modSeq q fun y =>
    { y with snap := some { pc := y.pc, mpc := y.mpc, lsta := y.lsta, lend := y.lend, lcnt := y.lcnt, sys := y.sys, asid := y.asid,
                            runleft := y.runleft, cores := (s.allCores q).map core } }

/-- The start agreement takes effect on a die: the gangs issue (R343). -/
def State.startOn (s : State) (x d : Nat) : State :=
  let s := (s.gangSeqs x d).foldl (fun s q =>
    (s.modSeq q fun y => { y with phase := match y.phase with | .held => .run | p => p }).snapshot q) s
  s.modCtx x fun c => if c.group = .starting then { c with group := .running, taken := [] } else c

/-- A decision to continue takes effect on a die; a new slice where no other context was eligible (R311, R344). CLINE and SKEW
as they stand are taken (R337, R361). -/
def State.continueOn (s : State) (x d : Nat) (fresh : Bool) : State :=
  let qs := (s.gangSeqs x d).filter fun q => (s.seq q).phase == .atYield
  let s := if fresh then s.endSlices x qs else s
  let s := qs.foldl (fun s q =>
    let s := if fresh then s.modSeq q fun y => { y with sleft := s.sliceOf x } else s
    let s := s.modCores (fun c k => { k with sp := { k.sp with skew := fieldOf (s.cbind c) 4 3 } }) (s.allCores q)
    (s.modSeq q fun y => { y with phase := .run, cline := (s.ctx? x).elim 0 fun c => c.ctl 0x350 }).snapshot q) s
  s.modCtx x fun c =>
    { c.setReq false with group := if c.group = .yielding ∨ c.group = .landing then .running else c.group, yielded := [] }

/-- A gang's pending causes are kept with its context. -/
def State.keepAsync (s : State) (q : Nat) : State :=
  let y := s.seq q
  s.modCtx (s.ctxIdOf q) fun c =>
    { c with pending := c.pending ++ (y.async.map fun a => (y.gidx, a)).filter fun e => !c.pending.contains e }

/-- A gang leaves the sequencer at its yield with what the context keeps of it (R275). -/
def State.leaveGang (s : State) (q : Nat) : State := ((s.keepGang q false).keepAsync q).vacate q

/-- A decision to park takes effect on a die (R343, R344). -/
def State.parkOn (s : State) (x d : Nat) : State :=
  let qs := (s.gangSeqs x d).filter fun q => (s.seq q).phase == .atYield
  let s := qs.foldl State.leaveGang (s.endSlices x qs)
  s.modCtx x fun c =>
    { c.setReq false with phase := .parkedYield, group := .parked, yielded := [], taken := [] }

/-- The pre-emption agreement takes effect: REQ is set on every gang (R343). -/
def State.preemptOn (s : State) (x : Nat) : State :=
  s.modCtx x fun c => if c.group = .running then { c.setReq true with group := .landing } else c

/-- The effect of an agreement on one die. -/
def State.agreeOnDie (s : State) (x d : Nat) : Agreement → State
  | .start => s.startOn x d
  | .yieldCont fresh => s.continueOn x d fresh
  | .yieldPark => s.parkOn x d
  | .preempt => s.preemptOn x

/-- The effect of a group claim on a die, by its key and value. -/
def State.groupClaim (s : State) (x d : Nat) (kind : Nat) (value : Word) : State :=
  let c := s.ctx? x
  let fresh := c.elim false fun c => c.agree == some (.yieldCont true)
  let t := match kind with
    | 1 => s.startOn x d
    | 2 => if value = 0 then s.continueOn x d fresh else s.parkOn x d
    | _ => s.preemptOn x
  let waits := kind != 3 && (c.elim [] Ctx.dies).any fun e => (t.gangSeqs x e).any fun q =>
    (t.seq q).phase == .held || (t.seq q).phase == .atYield
  if waits then t else t.modCtx x fun c => { c with agree := none }

/-- A group agreement of one die takes effect (R343). -/
def State.agreeSettle (s : State) (x : Nat) : State :=
  match s.ctx? x with
  | none => s
  | some c =>
    match c.agree with
    | some a =>
      if 1 < c.ndie then s
      else c.dies.foldl (fun s d => s.agreeOnDie x d a) (s.modCtx x fun c => { c with agree := none })
    | none => s

/-- A decision at a yield. -/
def Agreement.yields : Agreement → Bool
  | .yieldCont _ => true
  | .yieldPark => true
  | _ => false

/-- GROUP_START_AGREEMENT, GROUP_YIELD_DECISION and GROUP_PREEMPT_AGREEMENT (R343, R344) of a group on one die. -/
def State.groupEvent (s : State) (x : Nat) (is : Agreement → Bool) : State :=
  if ((s.ctx? x).bind Ctx.agree).elim false is then s.agreeSettle x else s

/-- An agreement is made: on one die it is due in the next cycle, across dies a claim is proposed on the die of gang 0. Without a
group entry, or on a Broken one, the group becomes Faulted (R343). With no free slot it is made later. -/
def State.agreeMake (s : State) (x kind : Nat) (a : Agreement) : State :=
  match s.ctx? x with
  | none => s
  | some c =>
    if c.agree.isSome then s
    else if c.ndie ≤ 1 then s.modCtx x fun c => { c with agree := some a }
    else
      let d := (c.gangs.head?).elim 0 fun p => dieOfSeq p.seq
      match s.groupOf d (partOf x) c.gid with
      | none => s.groupFault x
      | some gi =>
        if (s.clgrp d gi).broken then s.groupFault x
        else
          let key := BitVec.ofNat 64 (kind * 2 ^ 48 + c.gid.toNat)
          match s.propose d gi c.yclass 0 key (if a = .yieldPark then 1 else 0) with
          | some s => s.modCtx x fun c => { c with agree := some a }
          | none => s

/-- Gangs of a group that have not retired. -/
def Ctx.remaining (c : Ctx) : List Nat := (List.range c.gangs.length).filter fun i => !c.retired.contains i

/-- Every gang that remains has yielded, and none has landed. -/
def Ctx.allYielded (c : Ctx) : Bool :=
  c.remaining.all c.yielded.contains && (match c.group with
    | .running | .yielding => true
    | .landing => c.landed.isEmpty
    | _ => false)

/-! ### Landing (R286, R345) -/

/-- Every gang has landed, yielded or retired, and one has landed: the context is Parked with state (R331, R343). -/
def State.landSettle (s : State) (x : Nat) : State :=
  match s.ctx? x with
  | none => s
  | some c =>
    if c.group == .landing && !c.landed.isEmpty && c.remaining.all (fun i => c.landed.contains i || c.yielded.contains i) then
      let s := c.dies.foldl (fun s d => (s.gangSeqs x d).foldl (fun s q =>
        match (s.seq q).phase with
        | .atYield => s.leaveGang q
        | .held => (s.keepAsync q).vacate q
        | _ => s) (s.endSlices x (s.gangSeqs x d))) s
      s.modCtx x fun c =>
        let ctr := if c.savectr = BitVec.allOnes 64 then c.savectr else c.savectr + 1
        let c := { c.setReq false with savectr := ctr, phase := .parkedState, group := .parked, landed := [], yielded := [], taken := [] }
        c.setCtl 0x310 (setField (c.ctl 0x310) 1 1 1)
    else s

/-- PREEMPT_SAVE (R286): the waits of a landing, or of an eviction, are over; the records are written and the scratchpads wiped. -/
def State.preemptSave (s : State) (q : Nat) : State :=
  if (s.seq q).phase ≠ .landWait ∨ !s.landReady q then s
  else
    let x := s.ctxIdOf q
    let i := (s.seq q).gidx
    let s := ((s.saveGang q).keepGang q true).wipeSpads (s.allCores q)
    if (s.ctxOf q).elim false fun c => c.evicted.contains i then
      (((s.leaveSlice q).keepAsync q).vacate q).modCtx x fun c => c.grpDone 0
    else
      ((s.modSeq q fun y => { y with phase := .held }).modCtx x fun c => { c with landed := c.landed ++ [i] }).landSettle x

/-! ### Lone eviction (R347) -/

/-- EVICT of gang g (R347). -/
def State.evict (s : State) (x g : Nat) : State :=
  match s.ctx? x with
  | none => s
  | some c =>
    match c.gangs[g]? with
    | none => s.modCtx x fun c => c.grpDone 6
    | some p =>
      let y := s.seq p.seq
      let boundary := match y.phase with | .run => !s.fedOut p.seq | .bubble _ | .start _ | .restore _ => true | _ => false
      if (c.group == .running || c.group == .yielding) && y.ctx == some x && y.sys && s.acting p.seq && boundary then
        (s.modSeq p.seq fun y => { y with phase := .landWait, mword := none, lineUp := false }).modCtx x fun c =>
          { c with group := .split, evicted := c.evicted ++ [g] }
      else s.modCtx x fun c => c.grpDone 6

/-- READMIT of gang g (R347): its sequencer must stand free (log entry 27). -/
def State.readmit (s : State) (x g : Nat) : State :=
  match s.ctx? x with
  | none => s
  | some c =>
    match c.gangs[g]? with
    | none => s.modCtx x fun c => c.grpDone 6
    | some p =>
      let free := (s.seq p.seq).ctx.isNone && (s.seq p.seq).phase == .idle && !(s.seq p.seq).fenced
      if c.group == .split && c.evicted.contains g && c.parkedAt.any (fun e => e.1 == g) && free then
        let s := s.takeCtx p.seq x
        s.modCtx x fun c =>
          { (c.grpDone 0) with group := .running, evicted := c.evicted.erase g }
      else s.modCtx x fun c => c.grpDone 6

/-- A write of GRPCTL (R338): a command runs at once, and an eviction finishes with its save. -/
def State.writeGrpctl (s : State) (x : Nat) (v : Word) : State :=
  match s.ctx? x with
  | none => s
  | some c =>
    let cmd := fieldOf v 0 4
    if fieldOf (c.ctl 0x348) 0 4 ≠ 0 ∨ 4 < cmd then s.modCtx x fun c => c.setCtl 0x348 (setField (c.ctl 0x348) 32 8 7)
    else
      let g := fieldOf v 12 9
      let s := s.modCtx x fun c => c.setCtl 0x348 (setField (setField (c.ctl 0x348) 12 9 g) 0 4 cmd)
      match cmd with
      | 1 => s.placeCtx x
      | 2 => s.releaseCtx x
      | 3 => s.evict x g
      | 4 => s.readmit x g
      | _ => s

/-! ### Retirement of a gang (R235, R308, R341) -/

/-- A gang of a group has retired: its sequencer is free; when it is the root, the context is Loaded and the group Placed. -/
def State.gangRetired (s : State) (q : Nat) : State :=
  match (s.seq q).ctx with
  | none => s
  | some x =>
    if (s.seq q).phase ≠ .retired ∨ (s.seq q).parent.isSome then s
    else
      let root := (s.seq q).gidx = 0
      let s := (s.leaveSlice q).vacate q
      if root then
        s.modCtx x fun c =>
          { c with phase := .loaded, group := if c.group = .faulted then .faulted else .placed, taken := [], yielded := [], landed := [],
                   retired := [], parkedAt := [], pending := [], agree := none }
      else s.landSettle x

/-! ### ARBITER_DECISION (R310, R311, R343) -/

/-- A gang with no context chooses one, or takes one that gang 0 has taken. -/
def State.decideFree (s : State) (q : Nat) : State :=
  let y := s.seq q
  if y.ctx.isSome || y.phase != .idle || y.fenced then s
  else
    let placed := s.placedOn q
    match s.choice q (placed.filter (s.mustTake q)) with
    | some x =>
      let i := ((s.ctx? x).bind fun c => c.gangAt q).getD 0
      (s.takeCtx q x).modCtx x fun c => { c with taken := c.taken ++ [i] }
    | none =>
      let can := placed.filter (s.mayChoose q)
      let pick := match y.chosen with
        | some x => if can.contains x then some x else s.choice q can
        | none => s.choice q can
      match pick with
      | some x =>
        let s := (s.turn q x).modCtx x fun c => { c with phase := .running, group := .starting, taken := c.taken ++ [0] }
        s.takeCtx q x
      | none => s

/-- A gang of a group has to take another context at its next decision point, whose gang 0 has taken it (R310, R343). -/
def State.calledAway (s : State) (c : Ctx) : Bool := c.gangs.any fun p => (s.placedOn p.seq).any (s.mustTake p.seq)

/-- The decision of gang 0 at a yield of its group, once every gang that remains stands at its yield (R310, R344). The group parks where
one of its gangs has to take another context (R343). -/
def State.decideYield (s : State) (q x : Nat) : State :=
  match s.ctx? x with
  | none => s
  | some c =>
    if (s.seq q).gidx ≠ 0 || !c.allYielded || c.agree.isSome then s
    else
      let y := s.seq q
      let self := decide (y.runleft ≤ y.sleft) && !c.req
      let others := (s.placedOn q).filter fun z => z != x && s.mayChoose q z
      if s.calledAway c then s.agreeMake x 2 .yieldPark
      else match s.choice q (others ++ if self then [x] else []) with
      | none => s.agreeMake x 2 (.yieldCont true)
      | some z =>
        if z = x then (s.turn q x).agreeMake x 2 (.yieldCont false)
        else ((s.turn q z).modSeq q fun y => { y with chosen := some z }).agreeMake x 2 .yieldPark

/-- ARBITER_DECISION for a gang. -/
def State.arbiter (s : State) (q : Nat) : State :=
  match (s.seq q).ctx, (s.seq q).phase with
  | none, _ => s.decideFree q
  | some x, .atYield => s.decideYield q x
  | some _, .retired => (s.gangRetired q).decideFree q
  | _, _ => s

/-- A group of several dies whose handle is Broken on one of them (R435). -/
def State.groupBroken (s : State) (x : Nat) (c : Ctx) : Bool :=
  decide (1 < c.ndie) && c.dies.any fun d => (s.groupOf d (partOf x) c.gid).elim false fun i => (s.clgrp d i).broken

/-- What the group of a context does in a cycle of one of its gangs: an agreement due takes effect, and one that the state calls
for is made (R343). -/
def State.groupStep (s : State) (x : Nat) : State :=
  let s := s.agreeSettle x
  match s.ctx? x with
  | none => s
  | some c =>
    if s.groupBroken x c then s.groupFault x
    else if c.agree.isSome then s
    else if c.group = .starting ∧ c.remaining.all c.taken.contains then s.agreeMake x 1 .start
    else if c.group = .running ∧ c.req then s.agreeMake x 3 .preempt
    else s

/-! ### CLAIM_EFFECT (R430, R432, R434) -/

/-- The groups that a claim on a key of the device range is about: placed across dies, with the handle of the claim (R343). -/
def State.keyGroups (s : State) (part : Nat) (key : Word) : List Nat :=
  (s.ctxs.filter fun e => partOf e.1 == part && e.2.elim false fun c => c.gid == key.extractLsb' 0 16 && decide (1 < c.ndie)).map
    Prod.fst

/-- A claim reaches its effect tick on a die: its slot is free, and where it is Pending it takes effect. An agreement whose claim
is defeated is made again. -/
def State.claimEffect (s : State) (d : Nat) (e : Nat × ClaimSlot) : State :=
  let c := e.2.claim
  let s := s.setClaim d e.1 none
  if deviceKey c.key then
    (s.keyGroups e.2.part c.key).foldl (fun s x =>
      if e.2.phase = .pending then s.groupClaim x d (fieldOf c.key 48 16) c.value else s.modCtx x fun y => { y with agree := none }) s
  else if e.2.phase = .pending then
    match s.groupOf d e.2.part c.grp with
    | some gi => s.cellEffect d gi c.key c.value
    | none => s
  else s

/-- A claim of the device range that makes an agreement of a kind (R343). -/
def ClaimSlot.agrees (c : ClaimSlot) (kind : Nat) : Bool := deviceKey c.claim.key && fieldOf c.claim.key 48 16 == kind

/-- Claims due on a die up to a tick, in their order (R434). Where a pre-emption and a yield of one group take effect at one tick, the
yield is applied, and clears the request (R355). -/
def State.claimEffectsTo (s : State) (d tick : Nat) : State :=
  let due := (s.claimsDue d).filter fun e => decide (e.2.claim.teff.toNat ≤ tick)
  let yields (e : Nat × ClaimSlot) : Bool := due.any fun o =>
    o.2.agrees 2 && o.2.phase == .pending && o.2.part == e.2.part && o.2.claim.grp == e.2.claim.grp && o.2.claim.teff == e.2.claim.teff
  due.foldl (fun s e => if e.2.agrees 3 && yields e then s.setClaim d e.1 none else s.claimEffect d e) s

/-- CLAIM_EFFECT: the claims due on a die, after the proposals and objections that have come to their delivery bound (R429, R434). -/
def State.claimEffects (s : State) (d : Nat) : State :=
  let s := s.claimDeliver d
  s.claimEffectsTo d (s.tbase d)

/-- The claims whose effect tick lies before the present one, which a message that arrives now comes after (R434). -/
def State.claimsPast (s : State) (d : Nat) : State := if s.tbase d = 0 then s else s.claimEffectsTo d (s.tbase d - 1)

/-! ### The spare core (R353, R354) -/

/-- The spare core in the place of a retired one: the registers of that core are wiped, and it takes the ranks (R354). -/
def Core.spareIn (k : Core) : Core :=
  { Core.reset with
    sp := { CoreSpecials.reset with crank := k.sp.crank, gangsz := k.sp.gangsz, grank := k.sp.grank, drank := k.sp.drank,
                                    skew := k.sp.skew },
    chan := k.chan }

/-- A gang's cores, or its shadow's, lie in a creel (R349, R354). -/
def State.servedBy (s : State) (q creel : Nat) : Bool :=
  creelOfSeq q == creel || (s.paired q && creelOfSeq q + 1 == creel)

/-- SPARE of a creel set, and recorded for the boots to come (R353). -/
def State.setSpare (s : State) (creel : Nat) (w : Word) : State :=
  { s.setDctl (creel / 10) (spareOff creel) w with spareRec := SMap.set 0 s.spareRec creel w }

/-- A physical core p of a creel (numbered through the package) is retired (R354). -/
def State.coreRetire (s : State) (creel p : Nat) : State :=
  let d := creel / 10
  let w := s.dctl d (spareOff creel)
  let sub := fieldOf w 24 5
  let s := s.postPf (BitVec.ofNat 64 (creel % 10 * 32 + p)) 0xE008 0
  let w := setField w p 1 1
  if sub = 0x1F then
    let s := s.setSpare creel (setField w 24 5 p)
    let c := coreAt creel p
    if p = 16 then s
    else (s.modCore c Core.spareIn).wipeSpad c
  else
    let s := s.setSpare creel w
    let pos := if p = 16 then sub else p
    if 16 ≤ pos then s
    else
      let c := coreAt creel pos
      let s := s.setCbind c (setField (s.cbind c) 7 1 0)
      s.ctxs.foldl (fun s e =>
        if e.2.elim false fun y => y.gangs.any fun g => s.servedBy g.seq creel && g.mask.getLsbD pos then s.groupFault e.1 else s) s

/-! ### PAIR_SELFTEST_END (R352) -/

/-- The gang as it stood before its spawns; siblings are given up. -/
def State.dissolve (s : State) (q : Nat) : State :=
  let sibs := allSeqs.filter fun r => (s.seq r).parent.isSome && (s.seq r).ctx == (s.seq q).ctx && creelOfSeq r == creelOfSeq q
  let s := sibs.foldl (fun s r => s.modSeq r fun y => { y.vacate with gang := [] }) s
  let g := s.boundGang q
  (s.modSeq q fun y => { y with gang := g, sibs := [] }).rankPair q g

/-- Items 1 to 3 of R352 on a gang of a group that is checked. -/
def State.discard (s : State) (q : Nat) : State :=
  let s := s.dissolve q
  let x := s.ctxIdOf q
  let cs := s.allCores q
  let s := s.modCores (fun _ k =>
    { k with me := { k.me with shp := [] }, pp := { k.pp with lq := [], fresh := [], post := [], waitCnt := 0, fed := [], fences := [] } }) cs
  let s := ((s.zeroMatrix x (fun m => m.yieldClear x) cs).modCores (fun _ k => k.yieldClear) cs).wipeSpads cs
  { s with flights := s.flights.filter fun f => !f.cleared cs }

/-- A gang returns to its snapshot (R352). -/
def State.rerun (s : State) (q : Nat) : State :=
  match (s.seq q).snap with
  | none => s.modSeq q fun y => { y with phase := .run }
  | some n =>
    let s := n.cores.foldl (fun s e => s.modCore e.core fun k =>
      { k with sc := { k.sc with s := e.low }, mx := { k.mx with f := e.f },
               sp := { k.sp with waitlim := e.waitlim, clipped := e.clipped, tpc := e.tpc, tcause := e.tcause } }) s
    s.modSeq q fun y =>
      { y with phase := .run, pc := n.pc, mpc := n.mpc, lsta := n.lsta, lend := n.lend, lcnt := n.lcnt, sys := n.sys, asid := n.asid,
               runleft := n.runleft, xfer := none, post := [], fin := none }

/-- The self-test of a mismatched pair of a sequencer ends: 0 transient, 1 lasting in a physical core of a creel (R352). The
waits of item 2 have to be over. -/
def State.pairSelftest (s : State) (q lasting creel p : Nat) : State :=
  match (s.seq q).ctx with
  | none => s
  | some x =>
    let qs := s.streams x
    if (s.ctx? x).elim true (fun c => c.group != .checking) || !s.paired q || !qs.all s.gangQuiet then s
    else
      let free := fieldOf (s.dctl (creel / 10) (spareOff creel)) 24 5 == 0x1F
      let gangs := qs.filter fun r => (s.seq r).parent.isNone
      let s := gangs.foldl State.discard s
      if lasting ≠ 0 && !free then
        let off := 0x5A00 + 8 * (creelOfSeq q % 10 / 2)
        (s.setDctl (dieOfSeq q) off (setField (s.dctl (dieOfSeq q) off) (q % 4) 1 0)).groupFault x
      else
        let s := if lasting = 0 then s else s.coreRetire creel p
        let s := gangs.foldl State.rerun s
        -- What only an eviction still keeps stays with the context.
        (s.pend q cPAIRMIS).modCtx x fun c =>
          { c with group := .running, yielded := [], landed := [], agree := none,
                   parkedAt := c.parkedAt.filter fun e => c.evicted.contains e.1 }

/-! ### Containment of a gang (R348, R469) -/

/-- What cores that lose their stream still have in flight: loads go, and so do near full/empty requests of the bundle at issue, which
has not issued (R195); everything else completes with no register to write. -/
def State.abandon (s : State) (cs : List Nat) : State :=
  let early := cs.flatMap fun c => (s.core c).pp.fed.map Prod.snd
  { s with flights := (s.flights.filter fun f => !(cs.contains f.core && f.op.reads) && !early.contains f.id).map fun f =>
      if cs.contains f.core then { f with dest := none } else f }

/-- A gang is fenced: it runs nothing until its self-test ends, its queues are discarded, and GRPFLT is raised at every gang that
remains of its group (R348, R470). -/
def State.gangFence (s : State) (q : Nat) : State :=
  let y := s.seq q
  let s := s.postPf (BitVec.ofNat 64 (dieOfSeq q * 2 ^ 6 + creelOfSeq q % 10 * 4 + q % 4)) 0xE005 (s.ctxIdOf q)
  let s := if y.parent.isNone then s.dissolve q else s
  let cs := s.allCores q
  let s := s.abandon cs
  let s := s.modCores (fun _ k => { k with rcvq := [], pp := { k.pp with lq := [], fresh := [], post := [], fed := [] } }) cs
  let s := s.vacate q
  let s := s.modSeq q fun y => { y with fenced := true }
  match y.ctx with
  | none => s
  | some x =>
    let s := s.groupFault x
    if y.parent.isSome then s
    else
      s.modCtx x fun c => if c.retired.contains y.gidx then c else { c with retired := c.retired ++ [y.gidx] }

end Sys2Proof.Machine
end

