-- ==== Sys2Proof/Machine/Tenancy.lean ====
section
/-! DEFINITION. Partitions and generations (R248 to R274, R356 to R358, R382, R427): enabling and fencing partitions, L2 shares,
quotas, the generation pool, the carder, host writes, and the token buckets. -/

namespace Sys2Proof.Machine

/-! ### Partitions (R248 to R250) -/

/-- STATE of a partition: 0 Off, 1 Enabled, 2 Draining, 3 Fenced (R250). -/
def State.partState (s : State) (p : Nat) : Nat := fieldOf (s.pcfg p) 2 2
def State.setPcfg (s : State) (p : Nat) (w : Word) : State := { s with parts := SMap.set pcfgReset s.parts p w }
def State.setPartState (s : State) (p st en : Nat) : State := s.setPcfg p (setField (setField (s.pcfg p) 2 2 st) 0 1 en)

/-- The block of a partition on a die (R248). -/
def partOff (p off : Nat) : Nat := 0x4000 + 0x40 * p + off
def State.pblock (s : State) (d p off : Nat) : Word := s.dctl d (partOff p off)

/-- The dies in service. -/
def State.presentDies (s : State) : List Nat := allDies.filter s.present

/-- A loaded context of a partition. -/
def State.ctxsOf (s : State) (p : Nat) : List Nat := (s.ctxs.filter fun e => partOf e.1 == p && e.2.isSome).map Prod.fst

/-- A range of numbers from a base, wrapping. -/
def ringRange (base n size : Nat) : List Nat := (upFrom base n).map (· % size)

/-- The synchronisation resources of a partition on a die are as R357 gives them. -/
def State.resetQuota (s : State) (p d : Nat) : State :=
  let y := s.pblock d p 0x18
  let t := s.pblock d p 0x20
  let mine (base n size k : Nat) : Bool := decide ((k + size - base) % size < n)
  s.modDie d fun x =>
    { x with
      lines := SMap.keep (fun k => !mine (fieldOf y 0 5) (fieldOf y 8 6) 32 k) x.lines,
      phasers := SMap.keep (fun k => !mine (fieldOf y 16 10) (fieldOf y 32 11) 1024 k) x.phasers,
      tls := SMap.keep (fun k => !mine (fieldOf t 0 12) (fieldOf t 32 13) 4096 k) x.tls,
      syncSpent := SMap.set 0 x.syncSpent p 0 }

/-! ### L2 lines (R251, R267; log entry 8) -/

/-- A line leaves L2 with a writeback. -/
def State.l2Writeback (s : State) (u : Nat) : State := { s with l2 := SMap.set none s.l2 u none }
/-- A line leaves L2 without a writeback: the granule holds what DRAM held. -/
def State.l2Drop (s : State) (u : Nat) : State :=
  match SMap.get none s.l2 u with
  | none => s
  | some l => ((s.l2Writeback u).putRaw u (bytesOfWord 64 l.old.toNat)).setUnit u l.oldMeta
/-- The same for a line that may already have been written back and replaced. -/
def State.l2DropFree (s : State) (u : Nat) : State := if s.choose u 2 = 0 then s.l2Drop u else s.l2Writeback u
/-- Dirty lines of a partition on a die. -/
def State.l2Lines (s : State) (d p : Nat) : List Nat :=
  (s.l2.filter fun e => dramDie e.1 == d && e.2.elim false fun l => l.part == p).map Prod.fst

/-- A partition becomes Off: its ways are invalidated without writeback and its quotas return, on every present die (R249). -/
def State.partOffNow (s : State) (p : Nat) : State :=
  let s := s.presentDies.foldl (fun s d =>
    let s := (s.l2Lines d p).foldl State.l2DropFree s
    (s.wipeRange (locL2 d p 0) (2 ^ 32)).resetQuota p d) s
  { (s.setPartState p 0 0) with free := s.free + 1 }

/-- Bits of PCFG that a write stores while the partition is Off (R250). -/
def pcfgStore (old v : Word) : Word :=
  setField (setField (setField old 48 16 (fieldOf v 48 16)) 12 4 (fieldOf v 12 4)) 1 1 (fieldOf v 1 1)

/-- The SHARE values of the partitions that are not Off, with one more, fit on a die (R249). -/
def State.sharesFit (s : State) (p d : Nat) : Bool :=
  let share (k : Nat) : Nat := fieldOf (s.pblock d k 8) 0 5
  decide (((List.range 64).filter fun k => k != p && s.partState k != 0).foldl (fun n k => n + share k) (share p) ≤ 16)

/-- PARTITION_ENABLE (R249): a write of PCFG with EN = 1. -/
def State.partEnable (s : State) (p : Nat) (v : Word) : State :=
  if !v.getLsbD 0 || s.partState p ≠ 0 || fieldOf v 48 16 = 0 || !s.presentDies.all (s.sharesFit p) then s
  else
    let s := s.setPcfg p (pcfgStore (s.pcfg p) v)
    s.presentDies.foldl (fun s d => s.resetQuota p d) (s.setPartState p 1 1)

/-- PARTITION_DISABLE (R249): a write of PCFG with EN = 0. -/
def State.partDisable (s : State) (p : Nat) (v : Word) : State :=
  if v.getLsbD 0 then s
  else
    match s.partState p with
    | 0 => s.setPcfg p (pcfgStore (s.pcfg p) v)
    | 1 => if (s.ctxsOf p).isEmpty then s.partOffNow p else s.setPartState p 2 0
    | 3 => if (s.ctxsOf p).isEmpty then s.partOffNow p else s
    | _ => s

/-- A write of PCFG; `en` when it includes the byte of EN (R476). -/
def State.writePcfg (s : State) (p : Nat) (v : Word) (en : Bool) : State :=
  if !en then (if s.partState p = 0 then s.setPcfg p (pcfgStore (s.pcfg p) v) else s)
  else if v.getLsbD 0 then s.partEnable p v
  else s.partDisable p v

/-- The last context of a Draining partition has gone (R249). -/
def State.drainSettle (s : State) (p : Nat) : State :=
  if s.partState p = 2 ∧ (s.ctxsOf p).isEmpty then s.partOffNow p else s

/-! ### Fencing a partition (R249, R253) -/

/-- The launch of a context is aborted with record 0xF004 (R309). -/
def State.abortLaunch (s : State) (x : Nat) : State :=
  match (s.ctx? x).bind Ctx.launch with
  | none => s
  | some l => (s.postVf (partOf x) l.cookie 0xF004 x).modCtx x fun c => { c with launch := none }

/-- Every stream of a context stops where it stands, and the context is Loaded (R253). -/
def State.stopCtx (s : State) (x : Nat) : State :=
  let qs := allSeqs.filter fun q => (s.seq q).ctx == some x
  let s := qs.foldl (fun s q =>
    let s := (s.abandon (s.allCores q)).vacate q
    s.modSeq q fun y => { y with gang := if s.hasPlaced q then y.gang else [] }) s
  let s := qs.foldl (fun s q => s.rebind q) s
  (s.abortLaunch x).modCtx x fun c =>
    { c with phase := .loaded, group := if c.gangs.isEmpty then .unplaced else .placed, parkedAt := [], taken := [], yielded := [],
             landed := [], retired := [], evicted := [], agree := none, pending := [] }

/-- PARTITION_FENCE (R249): every context stops and every bound queue is Fenced. -/
def State.partFence (s : State) (p : Nat) : State :=
  if s.partState p ≠ 1 ∧ s.partState p ≠ 2 then s
  else
    let s := (s.ctxsOf p).foldl State.stopCtx s
    let s := (upFrom (16 * p) 16).foldl (fun s n =>
      s.modQueue n fun y => if y.phase = .unbound then y else { y with phase := .fenced, dirty := true, stopPending := false, cmd := 0 }) s
    s.setPartState p 3 (fieldOf (s.pcfg p) 0 1)

/-! ### L2 shares (R251, R305) -/

/-- DIRECT of a partition on a die takes a value (R251). -/
def State.setDirect (s : State) (d p n : Nat) : State :=
  let w := s.pblock d p 8
  let old := fieldOf w 8 5
  let s := s.setDctl d (partOff p 8) (setField w 8 5 n)
  let line := 160 * 1024 * 64
  let s := if n < old then s.wipeRange (locL2 d p (line * n)) (line * (old - n)) else s
  if s.cacheWays d p = 0 then (s.l2Lines d p).foldl State.l2Writeback s
  else if old < n then
    -- Which lines lie in the ways that leave the cache is free.
    { ((s.l2Lines d p).filter fun u => s.choose u 2 = 0).foldl State.l2Writeback s with free := s.free + 1 }
  else s

/-- PL2_WRITE (R251). -/
def State.writePl2 (s : State) (d p : Nat) (v : Word) : State :=
  let share := fieldOf v 0 5
  let s := if s.partState p = 0 ∧ share ≤ 16 then s.setDctl d (partOff p 8) (setField (s.pblock d p 8) 0 5 share) else s
  if fieldOf v 8 5 ≤ fieldOf (s.pblock d p 8) 0 5 then s.setDirect d p (fieldOf v 8 5) else s

/-- L2DIR_WRITE (R305). -/
def State.writeL2dir (s : State) (p : Nat) (v : Word) : State :=
  let n := fieldOf v 8 5
  if s.presentDies.any fun d => decide (fieldOf (s.pblock d p 8) 0 5 < n) then s
  else s.presentDies.foldl (fun s d => s.setDirect d p n) s

/-! ### Quotas (R356, R427) -/

/-- The ranges a quota register grants: base, count and what the die holds (R356, R427). -/
def quotaRanges (off : Nat) (w : Word) : List (Nat × Nat × Nat) :=
  match off with
  | 0x18 => [(fieldOf w 0 5, fieldOf w 8 6, 32), (fieldOf w 16 10, fieldOf w 32 11, 1024)]
  | _ => [(fieldOf w 0 12, fieldOf w 32 13, 4096)]

/-- A quota register as it is stored: reserved bits zero. -/
def quotaStore (off : Nat) (v : Word) : Word :=
  match off with
  | 0x18 => setField (setField (setField (setField v 43 13 0) 26 6 0) 14 2 0) 5 3 0
  | _ => setField (setField v 45 19 0) 12 20 0

/-- Ranges that share a number. -/
def rangesMeet (a b : Nat × Nat × Nat) : Bool :=
  decide (0 < a.2.1 ∧ 0 < b.2.1 ∧ a.1 < b.1 + b.2.1 ∧ b.1 < a.1 + a.2.1)

/-- QUOTA_WRITE and PQCLM_WRITE: PQSYNC, PQTL or PQCLM of a partition on a die (R356, R427). -/
def State.writeQuota (s : State) (d p off : Nat) (v : Word) : State :=
  let w := quotaStore off (setField v 56 8 (if off = 0x18 then fieldOf v 56 8 else 0))
  let w := if off = 0x18 then setField w 56 8 (fieldOf v 56 8) else w
  let new := quotaRanges off w
  let clear (k : Nat) : Bool := k == p || s.partState k == 0 ||
    ((List.zip new (quotaRanges off (s.pblock d k off))).all fun e => !rangesMeet e.1 e.2)
  if s.partState p ≠ 0 || !(new.all fun r => decide (r.1 + r.2.1 ≤ r.2.2)) || !(List.range 64).all clear then s
  else s.setDctl d (partOff p off) w

/-! ### The generation pool (R264, R265) -/

/-- GPOOL_WRITE (R264). FREE counts the Free values below the new SIZE. -/
def State.writeGpool (s : State) (v : Word) : State :=
  let n := fieldOf v 32 16
  if n < 4 ∨ 1024 < n || !(upFrom n (1024 - n)).all fun k => s.gvState k == 0 then s
  else
    let free := ((List.range n).filter fun k => s.gvState k == 0).length
    { s with gpool := setField (setField s.gpool 32 16 n) 0 11 free }

/-- GEN_QUIET (R265). -/
def State.genQuiet (s : State) (v : Nat) : State :=
  if s.gvState v = 2 ∧ s.inflt (BitVec.ofNat 10 v) = 0 then s.setGv v (fieldOf (SMap.get 0 s.gvstat v) 32 16) 3 else s

/-! ### The carder (R267 to R269) -/

/-- A tag matches a value of the pass set (R256). -/
def Tag.inSet (t : Tag) (vs : List Nat) : Bool := !t.z && vs.contains t.gen.toNat

def sweepReg {n : Nat} (vs : List Nat) (r : Reg n) : Reg n := if r.tag.inSet vs then Reg.wiped n else r
def sweepFile {n : Nat} (vs : List Nat) (m : SMap (Reg n)) : SMap (Reg n) := m.filter fun e => !e.2.tag.inSet vs

/-- Every register, tile and queue entry of a core that matches is wiped (R257, R267). -/
def Core.sweep (k : Core) (vs : List Nat) : Core :=
  { k with
    sc := { s := sweepFile vs k.sc.s, q := sweepFile vs k.sc.q, ls := sweepFile vs k.sc.ls },
    ve := { v := sweepFile vs k.ve.v, p := sweepFile vs k.ve.p, oa := sweepFile vs k.ve.oa, ob := sweepFile vs k.ve.ob,
            la := sweepFile vs k.ve.la, lb := sweepFile vs k.ve.lb },
    me := { k.me with a := sweepFile vs k.me.a, h := sweepFile vs k.me.h, b := sweepFile vs k.me.b },
    mx := { k.mx with
            t := sweepFile vs k.mx.t, f := sweepFile vs k.mx.f,
            scq := k.mx.scq.map fun e => if e.tag.inSet vs then { e with val := 0, tag := Tag.wiped } else e },
    sp := { k.sp with rrb := sweepReg vs k.sp.rrb, lived := sweepReg vs k.sp.lived, clipped := sweepReg vs k.sp.clipped },
    rcvq := SMap.mapVals .reset (fun _ q => { q with entries := q.entries.map (sweepReg vs) }) k.rcvq }

def CoreSnap.sweep (k : CoreSnap) (vs : List Nat) : CoreSnap :=
  { k with low := sweepFile vs k.low, f := sweepFile vs k.f, clipped := sweepReg vs k.clipped }

def Seq.sweep (x : Seq) (vs : List Nat) : Seq :=
  { x with mpc := sweepReg vs x.mpc,
           snap := x.snap.map fun n => { n with mpc := sweepReg vs n.mpc, cores := n.cores.map fun k => k.sweep vs } }

/-- A location of tagged storage on a die: its scratchpads, L2 and DRAM (R257). -/
def onDie (d loc : Nat) : Bool :=
  if isDram loc then dramDie loc == d
  else if isSpad loc then dieOfCore (spadCore loc) == d
  else decide (2 ^ 52 ≤ loc ∧ loc < 2 ^ 56 ∧ (loc - 2 ^ 52) / 2 ^ 38 = d)

/-- The carder does not visit untagged pages (R258). -/
def State.carderSees (s : State) (loc : Nat) : Bool :=
  !isDram loc || !s.frameBit (dramDie loc) (loc % 2 ^ 46 / 2 ^ 16)

/-- Units that meet a condition are wiped. -/
def State.wipeUnits (s : State) (p : Nat → TagUnit → Bool) : State :=
  (s.metas.filter fun e => p e.1 e.2).foldl (fun s e => s.wipeRange e.1 (unitSize e.1)) s

/-- CARDER_PASS_START (R267 item 1, R265): the Quiet values join the pass, and matching L2 lines go without writeback. -/
def State.carderStart (s : State) : State :=
  let vs := (List.range 1024).filter fun v => s.gvState v == 3
  if s.carder.active ∨ vs.isEmpty then s
  else
    let s := vs.foldl (fun s v => s.setGv v (fieldOf (SMap.get 0 s.gvstat v) 32 16) 4) s
    let s := ((s.l2.map Prod.fst).filter fun u => (s.unit u).tag.inSet vs && s.carderSees u).foldl State.l2Drop s
    let s := s.wipeUnits fun u m => decide (2 ^ 52 ≤ u ∧ u < 2 ^ 56) && m.tag.inSet vs
    { s with carder := { s.carder with active := true, set := vs, todo := allDies } }

/-- CARDER_STORAGE_SWEEP of a die (R267 items 2 and 3). -/
def State.carderSweep (s : State) (d : Nat) : State :=
  let vs := s.carder.set
  if !s.carder.active || !s.carder.todo.contains d then s
  else
    let t := s.wipeUnits fun u m => onDie d u && m.tag.inSet vs && s.carderSees u
    let kept (c : Ctx) (e : Nat × Parked) : Nat × Parked :=
      if (c.gangs[e.1]?).elim false (fun g => dieOfSeq g.seq == d) then
        (e.1, { e.2 with seq := e.2.seq.sweep vs, cores := e.2.cores.map fun k => (k.1, k.2.sweep vs) })
      else e
    let sweepKept (c : Ctx) : Ctx := { c with parkedAt := c.parkedAt.map (kept c) }
    let t := { t with cores := SMap.mapVals .reset (fun c k => if dieOfCore c = d then k.sweep vs else k) t.cores,
                      seqs := SMap.mapVals .reset (fun q x => if dieOfSeq q = d then x.sweep vs else x) t.seqs,
                      ctxs := SMap.mapVals none (fun _ (c : Option Ctx) => c.map (sweepKept)) t.ctxs }
    let t := t.modDie d fun y => { y with icache := y.icache.filter fun l => !(l.tagged && l.tag.inSet vs) }
    -- What DRAM holds under a dirty line is swept as well.
    let under (l : L2Line) : L2Line := if l.oldMeta.tag.inSet vs then { l with old := 0, oldMeta := .wiped } else l
    let t := { t with l2 := SMap.mapVals none (fun u (l : Option L2Line) => if onDie d u then l.map under else l) t.l2 }
    { t with carder := { t.carder with todo := t.carder.todo.erase d } }

/-- A die whose storage counts as swept: it is fenced, and will be wiped (R267). -/
def State.dieFenced (s : State) (d : Nat) : Bool :=
  match (s.die d).phase with
  | .fenced _ => true
  | _ => false

/-- CARDER_PASS_END (R265, R267, R269). -/
def State.carderEnd (s : State) : State :=
  if !s.carder.active || !s.carder.todo.all s.dieFenced then s
  else
    let s := s.carder.set.foldl (fun s v =>
      let s := s.setGv v (fieldOf (SMap.get 0 s.gvstat v) 32 16) 0
      if v < s.poolSize then s.setFree (fieldOf s.gpool 0 11 + 1) else s) s
    { s with carder := { passes := s.carder.passes + 1, active := false, set := [], todo := [] } }

/-! ### Host writes (R260, R382) -/

/-- Entries of a partition in the ingress buffer of a die. -/
def State.ingressOf (s : State) (d p : Nat) : Nat := ((s.die d).ingress.filter fun h => h.part == p).length

/-- HOST_WRITE to an address of a context on a die: one entry for each line while the context runs a gang there, and at once
otherwise (R260, R382). With a full buffer, or with too little room, it waits outside (log entry 29). -/
def State.hostWrite (s : State) (x d : Nat) (va : Word) (bs : List Byte) : State :=
  match s.ctx? x with
  | none => s
  | some c =>
    let p := partOf x
    let runs := lineRuns va.toNat bs
    if allDies.any (fun e => decide (4096 ≤ s.ingressOf e p)) || decide (4096 < s.ingressOf d p + runs.length) then s
    else
      runs.foldl (fun s r =>
        match s.ctxPlace x d r.1 with
        | none => s
        | some (loc, tagged) =>
          if c.phase = .running ∧ !(s.gangSeqs x d).isEmpty then
            let h : HostPart :=
              { part := p, ctx := x, addr := BitVec.ofNat 64 r.1, gen := c.gen, loc := loc, tagged := tagged, bytes := r.2 }
            s.modDie d fun y => { y with ingress := y.ingress ++ [h] }
          else
            ((s.meetErrors c.gen loc r.2.length).writeBytes { gen := c.gen, tagged := tagged, part := none } loc r.2).snoopLines loc
              r.2.length) s

/-- Host writes that wait for a context are discarded at its unload (R260). -/
def State.dropIngress (s : State) (x : Nat) : State :=
  allDies.foldl (fun s d =>
    let mine := (s.die d).ingress.filter fun h => h.ctx == x
    let s := mine.foldl (fun s h =>
      let v := s.vf h.part
      (s.setVf h.part { v with hwdisc := v.hwdisc + 1 }).postVf h.part h.addr 0xF002 x) s
    s.modDie d fun y => { y with ingress := y.ingress.filter fun h => h.ctx != x, hwn := y.hwn.filter fun h => h.ctx != x }) s

/-! ### Buckets and bandwidth (R271 to R274, R358; log entry 20) -/

/-- 256 cycles of a die, and the last of the times at which they end that has come. -/
def State.refillSpan (s : State) (d : Nat) : Nat := 256 * s.cycleUnits d
def State.refillTime (s : State) (d : Nat) : Nat := s.time / s.refillSpan d * s.refillSpan d

/-- SYNC_BUCKET_REFILL, once every 256 cycles (R358). -/
def State.syncRefill (s : State) (d p : Nat) : State :=
  let rate := fieldOf (s.pblock d p 0x18) 56 8
  if s.refillTime d ≤ SMap.get 0 (s.die d).syncAt p then s
  else s.modDie d fun y =>
    { y with syncSpent := SMap.modify 0 y.syncSpent p (· - rate), syncAt := SMap.set 0 y.syncAt p (s.refillTime d) }

/-- RATE and DEPTH of a context's L2 buckets: the reset values hold until L2TB is written (R271). -/
def Ctx.l2tb (c : Ctx) : Word := c.ctl 0x200
def l2Rate (w : Word) : Nat := fieldOf w 24 12
def l2Depth (w : Word) : Nat := max 1 (fieldOf w 48 16)

/-- L2_BUCKET_REFILL of a context at a slice, once every 256 cycles (R271). -/
def State.l2Refill (s : State) (d slice x : Nat) : State :=
  let rate := (s.ctx? x).elim 0 fun c => l2Rate c.l2tb
  let k := slice * 65536 + x
  if s.refillTime d ≤ SMap.get 0 (s.die d).l2At k then s
  else s.modDie d fun y => { y with l2Spent := SMap.modify 0 y.l2Spent k (· - rate), l2At := SMap.set 0 y.l2At k (s.refillTime d) }

/-- Tokens left to a context at a slice port. -/
def State.l2Tokens (s : State) (d slice x : Nat) : Nat :=
  (s.ctx? x).elim 0 fun c => l2Depth c.l2tb - SMap.get 0 (s.die d).l2Spent (slice * 65536 + x)

/-- One token for a line of a context at a slice: its own, or one borrowed in its partition, the lowest INDEX first (R271,
R272). `busy` says that a context has a request pending at the port. None where the request waits. -/
def State.l2Take (s : State) (d slice x : Nat) (busy : Nat → Bool) : Option State :=
  let spend (y : Nat) : State :=
    s.modDie d fun z => { z with l2Spent := SMap.modify 0 z.l2Spent (slice * 65536 + y) (· + 1) }
  if 0 < s.l2Tokens d slice x then some (spend x)
  else ((s.ctxsOf (partOf x)).find? fun y => y != x && decide (0 < s.l2Tokens d slice y) && !busy y).map spend

/-- CRITICAL_WINDOW_END (R273, R274): the p99 of the window that ends is an input, since the model has no latencies (log entry 84). -/
def State.criticalEnd (s : State) (d p p99 : Nat) : State :=
  let crit (k : Nat) : Bool := s.partState k != 0 && (s.pcfg k).getLsbD 1
  if !crit p then s
  else
    let w := s.pblock d p 0x10
    let miss := decide (fieldOf w 32 16 < p99)
    let s := s.setDctl d (partOff p 0x10) (setField (setField w 16 16 (min 0xFFFF p99)) 15 1 (bit miss))
    let any := (List.range 64).any fun k => crit k && (s.pblock d k 0x10).getLsbD 15
    ((List.range 64).filter fun k => s.partState k != 0 && !crit k).foldl (fun s k =>
      let w := s.pblock d k 0x10
      let r := fieldOf w 0 9
      s.setDctl d (partOff k 0x10) (setField w 0 9 (if any then max 1 (r / 2) else min 256 (r + 8)))) s

end Sys2Proof.Machine
end

