-- ==== Sys2Proof/Machine/Page.lean ====
section
/-! DEFINITION. Translation commands (R395 to R406): invalidations, frame migration, and cache maintenance as it completes (R216,
R217). -/

namespace Sys2Proof.Machine

/-! ### Invalidations (R399, R400) -/

/-- The range of an invalidation covers an address that a mapping of some bytes holds. -/
def rangeMeets (lo npage va bytes : Nat) : Bool := npage == 0 || decide (va < lo + npage * 2 ^ 16 ∧ lo < va + bytes)

/-- TLB entries and instruction-cache lines of a range leave a die. -/
def State.dropMapped (s : State) (d asid lo npage : Nat) : State :=
  s.modDie d fun y =>
    { y with tlb := y.tlb.filter fun e => !(e.asid == asid && rangeMeets lo npage e.va.toNat (pageSize e.level)),
             icache := y.icache.filter fun l => !(l.asid == asid && rangeMeets lo npage l.va.toNat 64) }

/-- Accesses in flight whose translation pins tie the range on some dies. -/
def State.pinned (s : State) (dies : List Nat) (asid lo npage : Nat) : List Nat :=
  (s.flights.filter fun f => dies.contains (dieOfCore f.core) && !f.allDone &&
    f.pins.any fun p => p.1 == asid && rangeMeets lo npage (p.2 * 2 ^ 16) (2 ^ 16)).map Flight.id

/-- Guest writes of a die that tie the range. -/
def State.guestPinned (s : State) (d asid lo npage : Nat) : List (Nat × Nat) :=
  ((s.die d).sock.writes.filter fun w => w.asid == asid && rangeMeets lo npage (w.page * 2 ^ 16) (2 ^ 16)).map fun w => (d, w.id)

/-- An invalidation starts on a die, or from it on every present die. -/
def State.startInval (s : State) (d asid : Nat) (lo : Word) (npage : Nat) (pkg : Bool) (unload : Option Nat) : State :=
  let dies := if pkg then s.presentDies else [d]
  let s := dies.foldl (fun s e => s.dropMapped e asid lo.toNat npage) s
  let bytes := if npage = 0 then 0 else npage * 2 ^ 16
  let (gs, s) := dies.foldl (fun (acc : List (Nat × Nat) × State) e =>
    let pins := acc.2.guestPinned e asid lo.toNat npage
    match acc.2.sendInv e asid lo bytes with
    | some (id, t) => (acc.1 ++ pins ++ [(e, id)], t)
    | none => (acc.1 ++ pins, acc.2)) ([], s)
  let v : Inval := { asid := asid, lo := lo, npage := npage, pkg := pkg, flights := s.pinned dies asid lo.toNat npage, guests := gs,
                     forUnload := unload }
  s.modDie d fun y => { y with inval := y.inval ++ [v] }

/-- The fields of TLBINVC that a write stores; CMD and DONE stay. -/
def State.storeTlbinvc (s : State) (d : Nat) (v : Word) : State :=
  let old := s.dctl d 0x308
  s.setDctl d 0x308 (setField (setField (setField old 32 32 (fieldOf v 32 32)) 14 9 (fieldOf v 14 9)) 5 1 (fieldOf v 5 1))

/-- TLB_INVALIDATE: a write of TLBINVC that holds a byte of CMD; it is ignored while CMD reads 1 (R399, R476). -/
def State.writeTlbinvc (s : State) (d : Nat) (v : Word) : State :=
  if (s.dctl d 0x308).getLsbD 0 then s
  else if !v.getLsbD 0 then s.storeTlbinvc d v
  else
    let w := setField (setField (setField (0 : Word) 32 32 (fieldOf v 32 32)) 14 9 (fieldOf v 14 9)) 5 1 (fieldOf v 5 1)
    let s := s.setDctl d 0x308 (setField w 0 1 1)
    s.startInval d (fieldOf v 14 9) (s.dctl d 0x300) (fieldOf v 32 32) (v.getLsbD 5) none

/-- The pins and the guests an invalidation waits for are released. -/
def State.invalReady (s : State) (v : Inval) : Bool :=
  -- The copies of an unloaded context have drained (R406).
  (v.forUnload.all fun a => s.cores.all fun e => e.2.chan.all fun ch => ch.2.all fun r => r.gone != some a) &&
  (v.flights.all fun n => (s.flight? n).elim true Flight.allDone) &&
  v.guests.all fun g => (s.die g.1).sock.writes.all (fun w => w.id != g.2) && (s.die g.1).sock.invs.all fun w => w.id != g.2

/-- TLB_INVALIDATE_DONE on a die (R400): DONE is set for a command; the ASID of an unload is free (R397). -/
def State.invalDone (s : State) (d : Nat) : State :=
  let ready := (s.die d).inval.filter s.invalReady
  let s := if ready.any fun v => v.forUnload.isNone then s.setDctl d 0x308 (setField (setField (s.dctl d 0x308) 4 1 1) 0 1 0) else s
  let freed := ready.filterMap Inval.forUnload
  let t := s.modDie d fun y => { y with inval := y.inval.filter fun v => !s.invalReady v }
  { t with leaving := t.leaving.filter fun c => !freed.contains c.asid }

/-- An ASID that no loaded context holds, and no unload still has to invalidate (R397). -/
def State.asidFree (s : State) (n : Nat) : Bool :=
  (s.ctxByAsid n).isNone && allDies.all fun d => (s.die d).inval.all fun v => v.forUnload != some n

/-- MIG_REWALK (R395): the walk for the PC of a sequencer is made again, and the TLB takes a leaf it finds. Every access held on
MIG walks again at each attempt (log entry 30). -/
def State.migRewalk (s : State) (q : Nat) : State :=
  match (s.seq q).ctx with
  | some _ => s.tlbFill (s.seq q).asid (dieOfSeq q) (s.seq q).pc.toNat
  | none => s

/-! ### Migration (R405) -/

/-- A granule of the source goes to the destination: with its metadata when its tag names a Live value, and as wiped
otherwise. An uncorrectable error leaves the tag and poisons both (R402, R406). -/
def State.migGranule (s : State) (d src dst i : Nat) : State :=
  let a := locDram d (src + 64 * i)
  let b := locDram d (dst + 64 * i)
  if (s.unit a).tag.z then s.wipeRange b 64
  else
    let s := s.meetErrors (s.unit a).tag.gen a 64
    let m := s.unit a
    let t := s.wipeRange b 64
    if s.gvState m.tag.gen.toNat == 1 then (t.putRaw b (s.raw a 64)).setUnit b { m with pend := false } else t

/-- A granule of a migration has to wait: its source or its destination is pending (R402). -/
def State.migWaits (s : State) (d src dst i : Nat) : Bool :=
  s.meetsPend (locDram d (src + 64 * i)) 64 || s.meetsPend (locDram d (dst + 64 * i)) 64

/-- The granules of a migration that a condition picks, in ascending order. -/
def State.migPart (s : State) (d src dst frames : Nat) (p : Nat → Bool) : State :=
  ((List.range (frames * 1024)).filter p).foldl (fun s i => s.migGranule d src dst i) s

/-- A write of MIGCTL (R405). The granules that have their turn at once are free; the others have it at the end. -/
def State.writeMigctl (s : State) (d : Nat) (v : Word) : State :=
  let old := s.dctl d 0x330
  let n := fieldOf v 32 32
  if !v.getLsbD 0 then s.setDctl d 0x330 (setField old 32 32 n)
  else if old.getLsbD 0 then s
  else
    let src := fieldOf (s.dctl d 0x320) 16 48 * 2 ^ 16
    let dst := fieldOf (s.dctl d 0x328) 16 48 * 2 ^ 16
    let s := s.setDctl d 0x330 (BitVec.ofNat 64 (n * 2 ^ 32 + 1))
    let seed := s.free * 2 ^ 32
    let now (i : Nat) : Bool := Config.freeBit (seed + i) && !s.migWaits d src dst i
    let left := (List.range (n * 1024)).filter fun i => !now i
    let t := { (s.modDie d fun y => { y with mig := some (src, dst, n, left) }) with free := s.free + 1 }
    t.migPart d src dst n now

/-- MIGRATE_DONE (R405): the granules that are left have their turn; it comes once none of them has to wait. -/
def State.migDone (s : State) (d : Nat) : State :=
  match (s.die d).mig with
  | none => s
  | some (src, dst, n, left) =>
    if left.any (s.migWaits d src dst) then s
    else
    let s := s.migPart d src dst n left.contains
    (s.modDie d fun y => { y with mig := none }).setDctl d 0x330 (setField (setField (s.dctl d 0x330) 1 1 1) 0 1 0)

/-! ### Cache maintenance (R216, R217) -/

/-- The memory that a page of the address space of a command leads to: through a window of its context on the die the window names, else
through the tables of the die that issued it (R200, R217). -/
def State.maintPlace (s : State) (m : Maint) (va : Nat) : Option Nat :=
  match (s.ctx? m.ctx).bind fun c => c.windowOf va with
  | some (_, fab) => (s.dieOfFab (BitVec.ofNat 18 (fab / 2 ^ 46))).map fun e => locDram e (fab % 2 ^ 46)
  | none =>
    match s.walk m.asid m.die va with
    | .leaf e lvl =>
      match s.leafPlace m.die (partOf m.ctx) va e lvl with
      | .ok (.mem loc _) => some loc
      | _ => none
    | _ => none

/-- Dirty lines of the partition on a die that the range of a command leads to (R217). -/
def State.linesOfRange (s : State) (d : Nat) (m : Maint) : List Nat :=
  let lo := m.lo.toNat
  let len := m.len.toNat
  let pages := if len = 0 then [] else upFrom (lo / 2 ^ 16) ((lo + len - 1) / 2 ^ 16 - lo / 2 ^ 16 + 1)
  let mine := s.l2Lines d (partOf m.ctx)
  pages.flatMap fun n =>
    (s.maintPlace m (n * 2 ^ 16)).elim [] fun loc => mine.filter fun u =>
      decide (loc ≤ u ∧ u < loc + 2 ^ 16 ∧ lo < n * 2 ^ 16 + (u - loc) + 64 ∧ n * 2 ^ 16 + (u - loc) < lo + len)

/-- CACHE_MAINTENANCE_COMPLETE of a command on a die; its number completes with the last die. -/
def State.maintDone (s : State) (n d : Nat) : State :=
  match s.maints.find? fun m => m.id == n && m.dies.contains d with
  | none => s
  | some m =>
    let s := if m.kind = 0 then s.dropLines d m.asid m.lo.toNat m.len.toNat
      else (s.linesOfRange d m).foldl (fun s u =>
        if (s.unit u).tag.is m.gen then s.l2Writeback u else s.l2DropFree u) s
    let left := m.dies.filter (· ≠ d)
    let s := { s with free := s.free + 1 }
    if left.isEmpty then
      ({ s with maints := s.maints.filter fun k => k.id ≠ n } : State).tlFinish m.die m.tl m.num
    else { s with maints := s.maints.map fun k => if k.id = n then { k with dies := left } else k }

end Sys2Proof.Machine
end

