-- ==== Sys2Proof/Machine/Queue.lean ====
section
/-! DEFINITION. Queues (R299 to R309): the queue commands, doorbells, the packet that a polling slot serves, and the completion of
a launch. -/

namespace Sys2Proof.Machine

/-! ### The control block (R301) -/

/-- Whether a host range translates for the function that uses it (log entry 28). -/
def hostRange (a n : Nat) : Bool := (List.range (n / 64 + 1)).all fun i => Config.hostMaps (a + 64 * i)

/-- A field of a list of bytes, least significant byte first. -/
def fieldAt (bs : List Byte) (off n : Nat) : Nat := wordOfBytes ((bs.drop off).take n)
/-- Bytes of a list are zero. -/
def zeroAt (bs : List Byte) (off n : Nat) : Bool := ((bs.drop off).take n).all (· == 0)

/-- The address of a queue's block. -/
def Queue.block (x : Queue) : Nat := x.qcba.toNat / 128 * 128
/-- The memory that the address of a block leads to: host memory, or where the host maps it there, DRAM of a die (R301; log entry 28). -/
def blockLoc (a : Nat) : Nat :=
  match Config.dieAlias a with
  | some (d, off) => locDram (d % 8) (off % dramBytes / 128 * 128)
  | none => locHost a
/-- The privileged half as the on-chip copy gives it. -/
def Queue.privileged (x : Queue) (n : Nat) : List Byte :=
  bytesOf x.rbase ++ bytesOfWord 2 x.ctx ++ bytesOfWord 1 x.rank ++ bytesOfWord 1 x.logn ++ bytesOfWord 2 n ++ List.replicate 50 0
/-- The tenant half. -/
def Queue.tenant (x : Queue) : List Byte :=
  bytesOfWord 4 x.prod.toNat ++ bytesOfWord 4 x.cons.toNat ++ bytesOf x.lastck ++ List.replicate 48 0

/-- A command has finished. -/
def Queue.done (x : Queue) : Queue := { x with cmd := 0, seen := [] }
/-- A command is refused (R300, R304). -/
def Queue.refuse (x : Queue) : Queue := { x.done with err := true }
/-- A change of state. -/
def Queue.go (x : Queue) (p : QPhase) : Queue := { x with phase := p, dirty := true }
/-- Idle or Pending by the producer index (R304). -/
def Queue.byProd (x : Queue) : QPhase := if x.prod = x.cons then .idle else .pending

/-! ### Commands (R300 to R304) -/

/-- A write of QCTL of queue n through the control page of a die (R300). While the queue is bound to another die this page does
not hold its registers (log entry 31). -/
def State.writeQctl (s : State) (d n : Nat) (v : Word) : State :=
  s.modQueue n fun x =>
    if x.phase ≠ .unbound ∧ x.die ≠ d then x
    else
      let c := fieldOf v 0 4
      if x.cmd ≠ 0 ∨ 5 < c then { x with err := true }
      else
        let x := { x with qcba := setField v 0 7 0, cmd := c, die := d }
        { x with seen := if c = 1 then s.raw (blockLoc x.block) 128 else [] }

/-- QSTAT bits cleared by writing 1 (R300). -/
def State.writeQstat (s : State) (d n : Nat) (v : Word) : State :=
  s.modQueue n fun x =>
    if x.phase ≠ .unbound ∧ x.die ≠ d then x
    else { x with mismatch := x.mismatch && !v.getLsbD 11, dirty := x.dirty && !v.getLsbD 10, err := x.err && !v.getLsbD 9 }

/-- Polling slots of a die that bound queues hold (R306). -/
def State.slotsOf (s : State) (d : Nat) : List Nat :=
  (s.queues.filter fun e => e.2.phase != .unbound && e.2.die == d).map fun e => e.2.slot
/-- The lowest polling slot that no bound queue holds. -/
def State.pollingSlot (s : State) (d : Nat) : Option Nat := (List.range 256).find? fun i => !(s.slotsOf d).contains i

/-- The queue that is bound to a CTXID (R299). -/
def State.boundQueue (s : State) (x : Nat) : Option Nat := (s.queues.find? fun e => e.2.phase != .unbound && e.2.ctx == x).map Prod.fst

/-- The block as BIND reads it: each 16-byte granule as it stands now, or as it stood when the command was written (R302). -/
def State.bindBlock (s : State) (n : Nat) : List Byte :=
  let x := s.queue n
  let now := s.raw (blockLoc x.block) 128
  (List.range 8).flatMap fun i =>
    ((if x.seen.length = 128 ∧ s.choose i 2 = 0 then x.seen else now).drop (16 * i)).take 16

/-- Why BIND refuses a block, or not (R302). -/
def State.blockOk (s : State) (n : Nat) (b : List Byte) : Bool :=
  let x := fieldAt b 8 2
  let logn := fieldAt b 0x0B 1
  let used := (fieldAt b 0x40 4 + 2 ^ 32 - fieldAt b 0x44 4) % 2 ^ 32
  decide (fieldAt b 0x0C 2 = n) && decide (fieldAt b 0 8 % 4096 = 0) && decide (4 ≤ logn ∧ logn ≤ 16) &&
  decide (fieldAt b 0x0A 1 ≤ 7) && zeroAt b 0x0E 50 && zeroAt b 0x50 48 &&
  decide (partOf x = n / 16) && ((s.ctx? x).elim false fun c => c.queue.isNone) &&
  (s.boundQueue x).isNone && decide (used ≤ 2 ^ logn)

/-- BIND of queue n (R302). -/
def State.queueBind (s : State) (n : Nat) : State :=
  let x := s.queue n
  if x.cmd ≠ 1 then s
  else
    let b := s.bindBlock n
    let s := { s with free := s.free + 1 }
    match s.pollingSlot x.die with
    | some slot =>
      if x.phase ≠ .unbound ∨ !hostRange x.block 127 ∨ !s.blockOk n b then s.modQueue n Queue.refuse
      else
        let s := s.modQueue n fun x =>
          { (x.done.go .stopped) with
            slot := slot, rbase := BitVec.ofNat 64 (fieldAt b 0 8), ctx := fieldAt b 8 2, rank := fieldAt b 0x0A 1,
            logn := fieldAt b 0x0B 1, prod := BitVec.ofNat 32 (fieldAt b 0x40 4), cons := BitVec.ofNat 32 (fieldAt b 0x44 4),
            lastck := BitVec.ofNat 64 (fieldAt b 0x48 8), stopPending := false }
        s.modCtx (fieldAt b 8 2) fun c => { c with queue := some n }
    | none => s.modQueue n Queue.refuse

/-- STOP of queue n: in Launched it is pending until the completion (R304). -/
def State.queueStop (s : State) (n : Nat) : State :=
  s.modQueue n fun x =>
    if x.cmd ≠ 2 then x
    else
      match x.phase with
      | .idle => x.done.go .stopped
      | .pending => x.done.go .stopped
      | .launched => { x with stopPending := true }
      | _ => x.refuse

/-- START of queue n. -/
def State.queueStart (s : State) (n : Nat) : State :=
  s.modQueue n fun x => if x.cmd ≠ 3 then x else if x.phase = .stopped then x.done.go x.byProd else x.refuse

/-- EXPORT of queue n (R303). -/
def State.queueExport (s : State) (n : Nat) : State :=
  let x := s.queue n
  if x.cmd ≠ 4 then s
  else if x.phase ≠ .stopped ∨ !hostRange x.block 127 then s.modQueue n Queue.refuse
  else
    let old := s.raw (blockLoc x.block) 64
    let s := s.putRaw (blockLoc x.block) (x.privileged n ++ x.tenant)
    s.modQueue n fun x => { x.done with mismatch := x.mismatch || old != x.privileged n, dirty := false }

/-- UNBIND of queue n. -/
def State.queueUnbind (s : State) (n : Nat) : State :=
  let x := s.queue n
  if x.cmd ≠ 5 then s
  else if x.phase = .stopped ∨ x.phase = .fenced then
    let s := s.modCtx x.ctx fun c => if c.queue = some n then { c with queue := none } else c
    s.modQueue n fun x => x.done.go .unbound
  else s.modQueue n Queue.refuse

/-! ### Doorbells (R305) -/

/-- QUEUE_DOORBELL: a write of QDB q of a virtual function (R305). -/
def State.doorbell (s : State) (p q : Nat) (v : BitVec 32) : State :=
  let n := 16 * p + q
  let x := s.queue n
  if x.phase = .unbound ∨ x.phase = .fenced then s
  else
    let k := (v - x.cons).toNat
    let j := (x.prod - x.cons).toNat
    if j ≤ k ∧ k ≤ 2 ^ x.logn then
      s.modQueue n fun x =>
        let y := if v = x.prod then x else { x with prod := v, dirty := true }
        if x.phase = .idle ∧ v ≠ x.cons then y.go .pending else y
    else s.postVf p (v.setWidth 64) 0xF003 x.ctx

/-- EVCFG_WRITE: the ring's base and size; its indices start at 0 (R305). -/
def State.writeEvcfg (s : State) (p : Nat) (v : Word) : State :=
  s.ringVf p { s.vf p with evcfg := setField v 4 8 0, evhead := 0, evtail := 0 }

/-! ### Packets (R306, R307) -/

/-- CONS goes on by one packet. -/
def Queue.consume (x : Queue) : Queue := { x with cons := x.cons + 1, dirty := true }

/-- CONS and LASTCK in the tenant half of the block (R302, R308). -/
def State.writeTenant (s : State) (n : Nat) : State :=
  let x := s.queue n
  if hostRange (x.block + 64) 16 then
    s.putRaw (blockLoc x.block + 0x44) (bytesOfWord 4 x.cons.toNat ++ bytesOf x.lastck)
  else s

/-- A packet completes: the record, if asked for, then CONS and LASTCK (R308). -/
def State.completeIn (s : State) (n : Nat) (cevt : Bool) (cookie : Word) : State :=
  let x := s.queue n
  let s := if cevt then s.postVf (n / 16) cookie 0xF000 x.ctx else s
  (s.modQueue n fun x => { x.consume with lastck := cookie }).writeTenant n

/-- A packet is rejected (R307). -/
def State.rejectIn (s : State) (n : Nat) (cookie : Word) (code : Nat) : State :=
  let s := (s.postVf (n / 16) cookie code (s.queue n).ctx).modQueue n Queue.consume
  s.modQueue n fun x => x.go x.byProd

/-- The image has every kernel that a launch of KIDX k enters (R341), and the group can start (R343). -/
def Ctx.accepts (c : Ctx) (k : Nat) : Bool := c.group == .placed && decide (k + c.ndie ≤ c.image.kernels.length ∧ 0 < c.ndie)

/-- QUEUE_SERVE of queue n (R306, R307). -/
def State.queueServe (s : State) (n : Nat) : State :=
  let x := s.queue n
  match s.ctx? x.ctx with
  | none => s
  | some c =>
    if x.phase ≠ .pending ∨ c.phase ≠ .loaded ∨ c.launch.isSome || (s.vf (n / 16)).ringFull || !s.present x.die then s
    else
      let a := x.rbase.toNat + 128 * (x.cons.toNat % 2 ^ x.logn)
      if !hostRange a 127 then s.rejectIn n 0 0xF005
      else
        let b := s.raw (locHost a) 128
        let k := fieldAt b 2 2
        let cookie : Word := BitVec.ofNat 64 (fieldAt b 8 8)
        let ok := decide (fieldAt b 4 4 < 2) && zeroAt b 0x10 48
        let cevt := decide (fieldAt b 4 4 % 2 = 1)
        if fieldAt b 0 2 = 1 ∧ ok ∧ c.accepts k then
          let l : Launch :=
            { queue := n, kidx := k, cookie := cookie, cevt := cevt,
              args := (List.range 8).map fun i => BitVec.ofNat 64 (fieldAt b (0x40 + 8 * i) 8) }
          (s.modCtx x.ctx fun c => { c with phase := .ready, group := .starting, launch := some l }).modQueue n fun x => x.go .launched
        else if fieldAt b 0 2 = 2 ∧ ok ∧ k = 0 then
          (s.completeIn n cevt cookie).modQueue n fun x => x.go x.byProd
        else s.rejectIn n cookie 0xF001

/-! ### Completion (R308) -/

/-- Every copy of the context has finished, and every write has performed at host scope. -/
def State.launchQuiet (s : State) (x : Nat) : Bool :=
  (s.cores.all fun e => e.2.chan.all fun ch => ch.2.all fun r => r.ctx != x) &&
  s.flights.all fun f => f.ctx != x || !f.op.writes || (f.allDone && (f.window.isNone || f.acked))

/-- LAUNCH_COMPLETE of queue n (R308). -/
def State.launchComplete (s : State) (n : Nat) : State :=
  let x := s.queue n
  match (s.ctx? x.ctx).bind fun c => if c.phase = .loaded ∧ x.phase = .launched then c.launch else none with
  | none => s
  | some l =>
    if !s.launchQuiet x.ctx || (l.cevt && (s.vf (n / 16)).ringFull) then s
    else
      let s := (s.completeIn n l.cevt l.cookie).modCtx x.ctx fun c => { c with launch := none }
      s.modQueue n fun x =>
        if x.stopPending then { (x.done.go .stopped) with stopPending := false } else x.go x.byProd

/-- The launch of a context that is unloaded is aborted: the packet counts as consumed (R304, R309, R313). -/
def State.abortUnload (s : State) (x : Nat) : State :=
  match (s.ctx? x).bind Ctx.launch with
  | none => s
  | some l =>
    (s.abortLaunch x).modQueue l.queue fun y =>
      if y.phase = .launched then { (y.consume.go .stopped) with stopPending := false, cmd := if y.cmd = 2 then 0 else y.cmd } else y

end Sys2Proof.Machine
end

