-- ==== Sys2Proof/Machine/Vector.lean ====
section
/-! DEFINITION. The vector slots VA and VB (R127 to R152): one `Sem` for each operation. -/

namespace Sys2Proof.Machine

def sideSlot (v : VSide) : Nat := match v with | .va => 1 | .vb => 2
def sidePath (v : VSide) : WPath := match v with | .va => .va | .vb => .vb
def sideFile (v : VSide) : RFile := match v with | .va => .oa | .vb => .ob

/-- A result of a vector slot lands in a v register or the slot's own operand file (R48, R52, R56). -/
def Core.landV (k : Core) (g : Gen) (side : VSide) (d : BitVec 7) (m : Pred) (v : VWord) (lat : Nat) : Core :=
  if d.toNat < 64 then k.land g (sidePath side) .v (physV (k.base g) d.toNat) m v lat
  else k.land g (sidePath side) (sideFile side) (d.toNat - 64) m v lat

/-- The registers a vector operation uses (R62): its used vector sources and its destination. -/
def State.vNames (s : State) (q c : Nat) (sp : VSpec) (x : VFields) : List Dest :=
  let one (o : VOper) (f : BitVec 7) : List Dest :=
    match o with
    | .vec => s.vName q c f.toNat
    | .scal => sName (f.extractLsb' 0 6)
    | _ => []
  one sp.a x.a ++ (if sp.shift && x.i == 1 then [] else one sp.b x.b) ++ one sp.c x.c ++ one sp.d x.d

/-- An operation with a vector result of element width `w`: the value, and the mask the guard gives (R128, R129). -/
def vecSem (side : VSide) (sp : VSpec) (x : VFields) (lat w : Nat) (f : State → Nat → Nat → VWord) : Sem :=
  { slot := sideSlot side, grd := x.grd, cls := .vector, names := fun s q c => s.vNames q c sp x,
    act := fun s q c k => k.landV (s.genOf q) side x.d (laneMask w (s.vmask q c x.grd)) (f s q c) lat }

/-- As `vecSem` with a mask of its own. -/
def vecSemM (side : VSide) (sp : VSpec) (x : VFields) (lat : Nat) (m : Pred → Pred) (f : State → Nat → Nat → VWord) : Sem :=
  { slot := sideSlot side, grd := x.grd, cls := .vector, names := fun s q c => s.vNames q c sp x,
    act := fun s q c k => k.landV (s.genOf q) side x.d (m (s.vmask q c x.grd)) (f s q c) lat }

/-- An operation with a predicate result. -/
def predSem (side : VSide) (sp : VSpec) (x : VFields) (lat : Nat) (m : Pred → Pred) (f : State → Nat → Nat → Pred) : Sem :=
  { slot := sideSlot side, grd := x.grd, cls := .vector, names := fun s q c => s.vNames q c sp x,
    act := fun s q c k =>
      k.land (s.genOf q) (sidePath side) .p (x.d.toNat % 8) (m (s.vmask q c x.grd)) ((f s q c).setWidth 2048) lat }

/-- An operation with a scalar result over path X; no result on an idle core (R116, R128). -/
def toScalarSem (side : VSide) (sp : VSpec) (x : VFields) (f : State → Nat → Nat → Word) : Sem :=
  { slot := sideSlot side, grd := x.grd, cls := .vector, names := fun s q c => if s.idle q c then [] else s.vNames q c sp x,
    act := fun s q c k =>
      if s.idle q c then k else k.landS (s.genOf q) .x (x.d.toNat % 64) (f s q c) 2 }

def VFields.w (x : VFields) : Nat := tyWidth x.ty.toNat

def State.va1 (s : State) (q c : Nat) (side : VSide) (x : VFields) : List Nat := elems (tyWidth x.ty.toNat) (s.rv q c side x.a)
def State.vb1 (s : State) (q c : Nat) (side : VSide) (x : VFields) : List Nat := elems (tyWidth x.ty.toNat) (s.rv q c side x.b)
def State.vc1 (s : State) (q c : Nat) (side : VSide) (x : VFields) : List Nat := elems (tyWidth x.ty.toNat) (s.rv q c side x.c)

/-- Every element of one, two or three sources by a function. -/
def map1 (side : VSide) (sp : VSpec) (x : VFields) (lat : Nat) (f : (level a : Nat) → Nat) : Sem :=
  vecSem side sp x lat (tyWidth x.ty.toNat) fun s q c =>
    ofElems (tyWidth x.ty.toNat) ((s.va1 q c side x).map (f (s.levelOf q)))
def map2 (side : VSide) (sp : VSpec) (x : VFields) (lat : Nat) (f : (level a b : Nat) → Nat) : Sem :=
  vecSem side sp x lat (tyWidth x.ty.toNat) fun s q c =>
    ofElems (tyWidth x.ty.toNat) (List.zipWith (f (s.levelOf q)) (s.va1 q c side x) (s.vb1 q c side x))
def map3 (side : VSide) (sp : VSpec) (x : VFields) (lat : Nat) (f : (level a b d : Nat) → Nat) : Sem :=
  vecSem side sp x lat (tyWidth x.ty.toNat) fun s q c =>
    ofElems (tyWidth x.ty.toNat)
      (List.zipWith (fun ab d => f (s.levelOf q) ab.1 ab.2 d) ((s.va1 q c side x).zip (s.vb1 q c side x)) (s.vc1 q c side x))

def fp1 (op : FpOp) (lat : Nat) (side : VSide) (x : VFields) : Sem :=
  map1 side vsUn x lat fun l a => fpElem op l x.ty.toNat (Rm.ofCode x.rm) (x.sat == 1) [a]
def fp2 (op : FpOp) (lat : Nat) (side : VSide) (x : VFields) : Sem :=
  map2 side vsBin x lat fun l a b => fpElem op l x.ty.toNat (Rm.ofCode x.rm) (x.sat == 1) [a, b]
def fp3 (op : FpOp) (side : VSide) (x : VFields) : Sem :=
  map3 side vsTri x 5 fun l a b d => fpElem op l x.ty.toNat (Rm.ofCode x.rm) (x.sat == 1) [a, b, d]

/-! ### Floating point (R133 to R144) -/

def semVadd (v : VSide) (x : VFields) : Sem := fp2 .add 4 v x
def semVsub (v : VSide) (x : VFields) : Sem := fp2 .sub 4 v x
def semVmul (v : VSide) (x : VFields) : Sem := fp2 .mul 4 v x
def semVfma (v : VSide) (x : VFields) : Sem := fp3 .fma v x
def semVfms (v : VSide) (x : VFields) : Sem := fp3 .fms v x
def semVfnma (v : VSide) (x : VFields) : Sem := fp3 .fnma v x
def semVmin (v : VSide) (x : VFields) : Sem := map2 v vsMinMax x 4 fun l a b => fpMinMax false l x.ty.toNat a b
def semVmax (v : VSide) (x : VFields) : Sem := map2 v vsMinMax x 4 fun l a b => fpMinMax true l x.ty.toNat a b
def semVabs (v : VSide) (x : VFields) : Sem := map1 v vsAbsNeg x 2 fun l a => fpSign false l x.ty.toNat a
def semVneg (v : VSide) (x : VFields) : Sem := map1 v vsAbsNeg x 2 fun l a => fpSign true l x.ty.toNat a
def semVcmp (v : VSide) (x : VFields) : Sem :=
  predSem v vsCmp x 2 (laneMask (tyWidth x.ty.toNat)) fun s q c =>
    predOf (tyWidth x.ty.toNat)
      (List.zipWith (fpCond x.fn.toNat (s.levelOf q) x.ty.toNat) (s.va1 q c v x) (s.vb1 q c v x))
def semVclass (v : VSide) (x : VFields) : Sem := map1 v vsAbsNeg x 2 fun _ a => fpClass x.ty.toNat a
def semVrcp (v : VSide) (x : VFields) : Sem := fp1 .rcp 14 v x
def semVrsqrt (v : VSide) (x : VFields) : Sem := fp1 .rsqrt 14 v x
def semVsqrt (v : VSide) (x : VFields) : Sem := fp1 .sqrt 14 v x
def semVdiv (v : VSide) (x : VFields) : Sem := fp2 .div 14 v x
def semVexp2 (v : VSide) (x : VFields) : Sem := fp1 .exp2 14 v x
def semVlog2 (v : VSide) (x : VFields) : Sem := fp1 .log2 14 v x
def semVrnd (v : VSide) (x : VFields) : Sem := map1 v vsRnd x 4 fun l a => fpRnd l x.ty.toNat (Rm.ofCode x.rm) a
def semVscale (v : VSide) (x : VFields) : Sem :=
  map2 v vsBin x 4 fun l a b => fpScale l x.ty.toNat (Rm.ofCode x.rm) (x.sat == 1) a b

/-- `vcvt` (R143): narrowing writes one part of the destination, widening reads one part of the source. -/
def semVcvt (v : VSide) (x : VFields) : Sem :=
  let ws := tyWidth x.ty.toNat
  let wt := tyWidth x.fn.toNat
  let q0 := 2048 / max ws wt
  let f (l a : Nat) : Nat := cvtElem l x.ty.toNat x.fn.toNat (Rm.ofCode x.rm) (x.sat == 1) a
  if wt ≤ ws then
    vecSemM v vsCvt x 4 (fun p => laneMask wt p &&& subLanes (x.k.toNat * q0 * wt / 16) (q0 * wt / 16)) fun s q c =>
      ofElems wt (List.replicate (x.k.toNat * q0) 0 ++ (s.va1 q c v x).map (f (s.levelOf q)))
  else
    vecSemM v vsCvt x 4 (laneMask wt) fun s q c =>
      ofElems wt ((((s.va1 q c v x).drop (x.k.toNat * q0)).take q0).map (f (s.levelOf q)))

/-- A reduction: the result in every 32-bit element (R144). -/
def redSem (v : VSide) (sp : VSpec) (x : VFields) (f : State → Nat → Nat → Nat) : Sem :=
  vecSem v sp x 8 32 fun s q c => ofElems 32 (List.replicate 64 (f s q c))

def semVredsum (v : VSide) (x : VFields) : Sem :=
  redSem v vsRedsum x fun s q c =>
    redSum (s.levelOf q) x.ty.toNat (Rm.ofCode x.rm) (x.sat == 1) (s.vmask q c x.grd) (s.va1 q c v x)
def semVredmax (v : VSide) (x : VFields) : Sem :=
  redSem v vsRedMM x fun s q c => redMinMax true (s.levelOf q) x.ty.toNat (s.vmask q c x.grd) (s.va1 q c v x)
def semVredmin (v : VSide) (x : VFields) : Sem :=
  redSem v vsRedMM x fun s q c => redMinMax false (s.levelOf q) x.ty.toNat (s.vmask q c x.grd) (s.va1 q c v x)

/-! ### Integers and logic (R145) -/

def semViadd (v : VSide) (x : VFields) : Sem := map2 v vsIntSat x 2 fun _ a b => intArith (· + ·) x.ty.toNat (x.sat == 1) a b
def semVisub (v : VSide) (x : VFields) : Sem := map2 v vsIntSat x 2 fun _ a b => intArith (· - ·) x.ty.toNat (x.sat == 1) a b
def semVimul (v : VSide) (x : VFields) : Sem := map2 v vsIntSat x 2 fun _ a b => intArith (· * ·) x.ty.toNat (x.sat == 1) a b
def semVimulh (v : VSide) (x : VFields) : Sem :=
  map2 v vsInt x 2 fun _ a b =>
    wrapInt (tyWidth x.ty.toNat) (intOf x.ty.toNat a * intOf x.ty.toNat b / 2 ^ tyWidth x.ty.toNat)
def semVimad (v : VSide) (x : VFields) : Sem :=
  map3 v vsMad x 2 fun _ a b d =>
    let y := intOf x.ty.toNat a * intOf x.ty.toNat b + intOf x.ty.toNat d
    wrapInt (tyWidth x.ty.toNat) (if x.sat = 1 then clampInt x.ty.toNat y else y)
def semVand (v : VSide) (x : VFields) : Sem := map2 v vsInt x 2 fun _ a b => a &&& b
def semVor (v : VSide) (x : VFields) : Sem := map2 v vsInt x 2 fun _ a b => a ||| b
def semVxor (v : VSide) (x : VFields) : Sem := map2 v vsInt x 2 fun _ a b => a ^^^ b
def semVandn (v : VSide) (x : VFields) : Sem :=
  map2 v vsInt x 2 fun _ a b => a &&& (2 ^ tyWidth x.ty.toNat - 1 - b)

/-- A shift: the amount from b, or k (R145). -/
def shiftSem (kind : Nat) (v : VSide) (x : VFields) : Sem :=
  if x.i = 1 then map1 v vsShift x 2 fun _ a => intShift kind x.ty.toNat a x.k.toNat
  else map2 v vsShift x 2 fun _ a b => intShift kind x.ty.toNat a b
def semVshl (v : VSide) (x : VFields) : Sem := shiftSem 0 v x
def semVshr (v : VSide) (x : VFields) : Sem := shiftSem 1 v x
def semVsra (v : VSide) (x : VFields) : Sem := shiftSem 2 v x

def semVimin (v : VSide) (x : VFields) : Sem :=
  map2 v vsInt x 2 fun _ a b => if intOf x.ty.toNat a ≤ intOf x.ty.toNat b then a else b
def semVimax (v : VSide) (x : VFields) : Sem :=
  map2 v vsInt x 2 fun _ a b => if intOf x.ty.toNat a ≥ intOf x.ty.toNat b then a else b
def semVpopc (v : VSide) (x : VFields) : Sem := map1 v vsIntUn x 2 fun _ a => popcount 32 a
def semVclz (v : VSide) (x : VFields) : Sem := map1 v vsIntUn x 2 fun _ a => clzN (tyWidth x.ty.toNat) a
def semVicmp (v : VSide) (x : VFields) : Sem :=
  let w := tyWidth x.ty.toNat
  predSem v vsIcmp x 2 (laneMask w) fun s q c =>
    predOf w (List.zipWith (fun a b => condInt x.fn.toNat (signed w a) (signed w b) a b) (s.va1 q c v x) (s.vb1 q c v x))

/-! ### Permutes (R146) -/

/-- A permute of the elements of a and b. -/
def permSem (sp : VSpec) (lat : Nat) (v : VSide) (x : VFields) (f : List Nat → List Nat → List Nat) : Sem :=
  vecSem v sp x lat (tyWidth x.ty.toNat) fun s q c =>
    ofElems (tyWidth x.ty.toNat) (f (s.va1 q c v x) (s.vb1 q c v x))

def semVperm (v : VSide) (x : VFields) : Sem :=
  permSem vsPerm 3 v x fun a b => b.map fun i => (a[i % a.length]?).getD 0
def semVbcast (v : VSide) (x : VFields) : Sem :=
  permSem vsBcast 3 v x fun a _ => List.replicate a.length ((a[x.k.toNat]?).getD 0)
def semVlsh (v : VSide) (x : VFields) : Sem := permSem vsLsh 3 v x fun a b => a.drop x.k.toNat ++ b.take x.k.toNat
def semVzip (v : VSide) (x : VFields) : Sem :=
  permSem vsZip 3 v x fun a b =>
    let h := a.length / 2
    interleave ((a.drop (x.k.toNat * h)).take h) ((b.drop (x.k.toNat * h)).take h)
def semVunzip (v : VSide) (x : VFields) : Sem :=
  permSem vsZip 3 v x fun a b => everyOther (a.drop x.k.toNat) ++ everyOther (b.drop x.k.toNat)
def semVrev (v : VSide) (x : VFields) : Sem := permSem vsRev 3 v x fun a _ => a.reverse

/-- The selecting predicate of field c. -/
def State.pc (s : State) (q c : Nat) (x : VFields) : Pred := (s.core c).readP (s.genOf q) (x.c.toNat % 8)

def semVsel (v : VSide) (x : VFields) : Sem :=
  vecSem v vsSel x 2 (tyWidth x.ty.toNat) fun s q c =>
    let a := s.va1 q c v x
    let b := s.vb1 q c v x
    ofElems (tyWidth x.ty.toNat) ((List.range a.length).map fun i =>
      ((if selLane (s.pc q c x) i (tyWidth x.ty.toNat) then a[i]? else b[i]?)).getD 0)
def semVcompress (v : VSide) (x : VFields) : Sem :=
  vecSem v vsComp x 3 (tyWidth x.ty.toNat) fun s q c =>
    ofElems (tyWidth x.ty.toNat) (compressElems (s.pc q c x) (tyWidth x.ty.toNat) (s.va1 q c v x))
def semVexpand (v : VSide) (x : VFields) : Sem :=
  vecSem v vsComp x 3 (tyWidth x.ty.toNat) fun s q c =>
    let a := s.va1 q c v x
    ofElems (tyWidth x.ty.toNat) (expandElems (s.pc q c x) (tyWidth x.ty.toNat) 0 a.length a)

/-! ### Predicates (R147) -/

def State.pa (s : State) (q c : Nat) (x : VFields) : Pred := (s.core c).readP (s.genOf q) (x.a.toNat % 8)
def State.pb (s : State) (q c : Nat) (x : VFields) : Pred := (s.core c).readP (s.genOf q) (x.b.toNat % 8)

def semPand (v : VSide) (x : VFields) : Sem := predSem v vsPred x 1 id fun s q c => s.pa q c x &&& s.pb q c x
def semPor (v : VSide) (x : VFields) : Sem := predSem v vsPred x 1 id fun s q c => s.pa q c x ||| s.pb q c x
def semPxor (v : VSide) (x : VFields) : Sem := predSem v vsPred x 1 id fun s q c => s.pa q c x ^^^ s.pb q c x
def semPnot (v : VSide) (x : VFields) : Sem := predSem v vsPnot x 1 id fun s q c => ~~~s.pa q c x
def semPcnt (v : VSide) (x : VFields) : Sem :=
  toScalarSem v vsPcnt x fun s q c => BitVec.ofNat 64 (popcount 128 (s.pa q c x).toNat)
def semPfirst (v : VSide) (x : VFields) : Sem :=
  toScalarSem v vsPcnt x fun s q c => BitVec.ofNat 64 (ctzN 128 (s.pa q c x).toNat)
def semPset (v : VSide) (x : VFields) : Sem :=
  let w := tyWidth x.ty.toNat
  predSem v vsPset x 1 (laneMask w) fun _ _ _ =>
    BitVec.ofNat 128 (2 ^ (x.k.toNat * (w / 16)) - 1)

/-! ### Quantisation and copies (R148 to R151) -/

/-- `vqnt` (R149). -/
def semVqnt (v : VSide) (x : VFields) : Sem :=
  let ws := tyWidth x.ty.toNat
  let n := 2048 / ws
  vecSemM v vsQnt x 4 (fun p => p &&& subLanes (x.k.toNat * n / 2) (n / 2)) fun s q c =>
    let ys := elems 32 (s.rv q c v x.b)
    let a := s.va1 q c v x
    ofElems 8 (List.replicate (x.k.toNat * n) 0 ++ (List.range n).map fun i =>
      qntElem (s.levelOf q) x.ty.toNat x.fn.toNat (Rm.ofCode x.rm) (x.sat == 1) ((a[i]?).getD 0) ((ys[64 * i / n]?).getD 0))

/-- `vgmax` (R148). -/
def semVgmax (v : VSide) (x : VFields) : Sem :=
  let w := tyWidth x.ty.toNat
  let n := 2048 / w
  vecSem v vsGmax x 8 32 fun s q c =>
    let a := s.va1 q c v x
    let g := s.vmask q c x.grd
    ofElems 32 ((List.range (n / 32)).flatMap fun j =>
      let xs := (upFrom (32 * j) 32).filterMap fun i => if selLane g i w then a[i]? else none
      List.replicate (64 / (n / 32)) (groupMax (s.levelOf q) x.ty.toNat xs))

/-- `tos` (R150). -/
def semTos (v : VSide) (x : VFields) : Sem := toScalarSem v vsTos x fun s q c => vWord64 (s.rv q c v x.a) x.k.toNat
/-- `froms` (R151). -/
def semFroms (v : VSide) (x : VFields) : Sem :=
  let w := tyWidth x.ty.toNat
  vecSem v vsFroms x 2 w fun s q c =>
    ofElems w (List.replicate (2048 / w) ((s.core c).readS (s.genOf q) (32 + x.a.toNat)).toNat)

end Sys2Proof.Machine
end

