-- ==== Sys2Proof/Machine/Slots.lean ====
section
/-! DEFINITION. From a slot operation to its meaning, alone or with the operations of its bundle that bear on it: an `l.scl` beside a
matrix step (R166) and an `l.fe` before a `w.fe` (R371). -/

namespace Sys2Proof.Machine

/-- Whether an `l.scl` among the operations of a bundle acts on a core and has not left yet (R166). -/
def sclIn (ops : List Instr) : State → Nat → Nat → Bool := fun s q c =>
  !s.sclGone q c && ops.any fun i => match i with
    | .lScl x => s.guarded q c x.grd
    | _ => false

/-- The request of an `l.fe` of a bundle. -/
def feIn (ops : List Instr) : Option FeReq := ops.findSome? fun i => match i with
  | .lFe x => some (feOfLoad x)
  | _ => none

/-- The meaning of a slot operation among the operations of its bundle; none for an event. -/
def slotSem (ops : List Instr) (i : Instr) : Option Sem :=
  match i with
  | .sAdd x => some (semSAdd x)
  | .sSub x => some (semSSub x)
  | .sMul x => some (semSMul x)
  | .sMulh x => some (semSMulh x)
  | .sMulhz x => some (semSMulhz x)
  | .sDiv x => some (semSDiv x)
  | .sDivz x => some (semSDivz x)
  | .sRem x => some (semSRem x)
  | .sAnd x => some (semSAnd x)
  | .sOr x => some (semSOr x)
  | .sXor x => some (semSXor x)
  | .sAndn x => some (semSAndn x)
  | .sShl x => some (semSShl x)
  | .sShr x => some (semSShr x)
  | .sSra x => some (semSSra x)
  | .sRot x => some (semSRot x)
  | .sClz x => some (semSClz x)
  | .sCtz x => some (semSCtz x)
  | .sPopc x => some (semSPopc x)
  | .sMin x => some (semSMin x)
  | .sMax x => some (semSMax x)
  | .sMinz x => some (semSMinz x)
  | .sMaxz x => some (semSMaxz x)
  | .sCmp x => some (semSCmp x)
  | .sSel x => some (semSSel x)
  | .sLi x => some (semSLi x)
  | .sLih x => some (semSLih x)
  | .sExt x => some (semSExt x)
  | .sIns x => some (semSIns x)
  | .sBr x => some (semSBr x)
  | .sBrc x => some (semSBrc x)
  | .sCall x => some (semSCall x)
  | .sRet x => some (semSRet x)
  | .sJr x => some (semSJr x)
  | .sLoop x => some (semSLoop x)
  | .sLbrk x => some (semSLbrk x)
  | .sRdsr x => some (semSRdsr x)
  | .sWrsr x => some (semSWrsr x)
  | .sFromv x => some (semSFromv x)
  | .sFroma x => some (semSFroma x)
  | .vadd v x => some (semVadd v x)
  | .vsub v x => some (semVsub v x)
  | .vmul v x => some (semVmul v x)
  | .vfma v x => some (semVfma v x)
  | .vfms v x => some (semVfms v x)
  | .vfnma v x => some (semVfnma v x)
  | .vmin v x => some (semVmin v x)
  | .vmax v x => some (semVmax v x)
  | .vabs v x => some (semVabs v x)
  | .vneg v x => some (semVneg v x)
  | .vcmp v x => some (semVcmp v x)
  | .vclass v x => some (semVclass v x)
  | .vrcp v x => some (semVrcp v x)
  | .vrsqrt v x => some (semVrsqrt v x)
  | .vsqrt v x => some (semVsqrt v x)
  | .vdiv v x => some (semVdiv v x)
  | .vexp2 v x => some (semVexp2 v x)
  | .vlog2 v x => some (semVlog2 v x)
  | .vrnd v x => some (semVrnd v x)
  | .vscale v x => some (semVscale v x)
  | .vcvt v x => some (semVcvt v x)
  | .vredsum v x => some (semVredsum v x)
  | .vredmax v x => some (semVredmax v x)
  | .vredmin v x => some (semVredmin v x)
  | .viadd v x => some (semViadd v x)
  | .visub v x => some (semVisub v x)
  | .vimul v x => some (semVimul v x)
  | .vimulh v x => some (semVimulh v x)
  | .vimad v x => some (semVimad v x)
  | .vand v x => some (semVand v x)
  | .vor v x => some (semVor v x)
  | .vxor v x => some (semVxor v x)
  | .vandn v x => some (semVandn v x)
  | .vshl v x => some (semVshl v x)
  | .vshr v x => some (semVshr v x)
  | .vsra v x => some (semVsra v x)
  | .vimin v x => some (semVimin v x)
  | .vimax v x => some (semVimax v x)
  | .vpopc v x => some (semVpopc v x)
  | .vclz v x => some (semVclz v x)
  | .vicmp v x => some (semVicmp v x)
  | .vperm v x => some (semVperm v x)
  | .vbcast v x => some (semVbcast v x)
  | .vlsh v x => some (semVlsh v x)
  | .vzip v x => some (semVzip v x)
  | .vunzip v x => some (semVunzip v x)
  | .vrev v x => some (semVrev v x)
  | .vsel v x => some (semVsel v x)
  | .vcompress v x => some (semVcompress v x)
  | .vexpand v x => some (semVexpand v x)
  | .pand v x => some (semPand v x)
  | .por v x => some (semPor v x)
  | .pxor v x => some (semPxor v x)
  | .pnot v x => some (semPnot v x)
  | .pcnt v x => some (semPcnt v x)
  | .pfirst v x => some (semPfirst v x)
  | .pset v x => some (semPset v x)
  | .vqnt v x => some (semVqnt v x)
  | .vgmax v x => some (semVgmax v x)
  | .tos v x => some (semTos v x)
  | .froms v x => some (semFroms v x)
  | .mMma x => some (semMMma x (sclIn ops))
  | .mMms x => some (semMMms x (sclIn ops))
  | .mZero x => some (semMZero x)
  | .mAcc x => some (semMAcc x)
  | .mRd x => some (semMRd x)
  | .mWr x => some (semMWr x)
  | .mSt x => some (semMSt x)
  | .mFmt x => some (semMFmt x)
  | .mSave x => some (semMSave x)
  | .mRest x => some (semMRest x)
  | .mWait x => some (semMWait x)
  | .lS x => some (semLS x)
  | .lV x => some (semLV x)
  | .lVp x => some (semLVp x)
  | .lG x => some (semLG x)
  | .lB x => some (semLB x)
  | .lFe x => some (semLFe x)
  | .lScl x => some (semLScl x)
  | .lRcv x => some (semLRcv x)
  | .lAadd x => some (semLAadd x)
  | .lAli x => some (semLAli x)
  | .lAmov x => some (semLAmov x)
  | .lMpc x => some (semLMpc x)
  | .wS x => some (semWS x)
  | .wV x => some (semWV x)
  | .wVp x => some (semWVp x)
  | .wSc x => some (semWSc x)
  | .wFe x => some (semWFe x (feIn ops))
  | .wAtom x => some (semWAtom x)
  | .wCas x => some (semWCas x)
  | .wRed x => some (semWRed x)
  | .wSnd x => some (semWSnd x)
  | .cShp x => some (semCShp x)
  | .cGo x => some (semCGo x)
  | .cRing x => some (semCRing x)
  | .cIcinv x => some (semCIcinv x)
  | .cL2wb x => some (semCL2wb x)
  | .cL2inv x => some (semCL2inv x)
  | .cGq x => some (semCGq x)
  | .cSeal x => some (semCSeal x)
  | .yTlwait x => some (semYTlwait x)
  | .yTladv x => some (semYTladv x)
  | .yTlread x => some (semYTlread x)
  | .yPhreg x => some (semYPhreg x)
  | .yPhdrop x => some (semYPhdrop x)
  | .yPhsig x => some (semYPhsig x)
  | .yPhwait x => some (semYPhwait x)
  | .yFence x => some (semYFence x)
  | .yDrain x => some (semYDrain x)
  | .yClm x => some (semYClm x)
  | .yObj x => some (semYObj x)
  | .yClwait x => some (semYClwait x)
  | .yClread x => some (semYClread x)
  | .ySpawn x => some (semYSpawn x)
  | .yJoin x => some (semYJoin x)
  | .yRetire x => some (semYRetire x)
  | .yTrap x => some (semYTrap x)
  | .yTret x => some (semYTret x)
  | .yGeninc x => some (semYGeninc x)
  | .yEvt x => some (semYEvt x)
  | .yDbg x => some (semYDbg x)
  | _ => none

/-- The meanings of a bundle's operations, in slot order. -/
def semsOf (b : Bundle) : List Sem := b.ops.filterMap (slotSem b.ops)

/-- A bundle that holds a matrix step (R166). -/
def hasStep (b : Bundle) : Bool := b.ops.any fun i => match i with
  | .mMma _ => true
  | .mMms _ => true
  | _ => false

/-- The requests that leave while a bundle stands at issue (R166, R187, R194). -/
def earlyOf (b : Bundle) : Early := fun s q =>
  b.ops.foldl (fun s i => match i with
    | .lFe x => earlyLFe x s q
    | .wFe x => earlyWFe x s q
    | .lScl x => if hasStep b then earlyLScl x s q else s
    | _ => s) s

end Sys2Proof.Machine
end

