-- ==== Sys2Proof/Machine/Kernel.lean ====
section
/-! DEFINITION. Images (R314 to R334): the container, the checks of a load in the order of their codes, placement, and unloading. -/

namespace Sys2Proof.Machine

/-! ### Reading an image (R317 to R322) -/

/-- The bytes of an image by offset. -/
abbrev ImgRead := Nat → Byte

def ImgRead.bytes (rd : ImgRead) (off n : Nat) : List Byte := (List.range n).map fun i => rd (off + i)
/-- A field of an image, least significant byte first. -/
def ImgRead.num (rd : ImgRead) (off n : Nat) : Nat := wordOfBytes (rd.bytes off n)
def ImgRead.zero (rd : ImgRead) (off n : Nat) : Bool := (List.range n).all fun i => rd (off + i) == 0
/-- An image with bytes replaced. -/
def ImgRead.patch (rd : ImgRead) (off : Nat) (bs : List Byte) : ImgRead := fun a =>
  if off ≤ a ∧ a < off + bs.length then (bs[a - off]?).getD 0 else rd a

/-- An entry of the section table (R318). -/
structure Section where
  ty : Nat
  off : Nat
  len : Nat
  deriving DecidableEq, Repr

/-- An entry of the kernel table (R319). -/
structure KernRow where
  entry : Nat
  run : Nat
  maxpos : Nat
  loopix : Nat
  nreg : Nat
  spadoff : Nat
  fmtoff : Option Nat
  keep : Nat
  deriving DecidableEq, Repr

def allOnes64 : Nat := 2 ^ 64 - 1

def ImgRead.nkern (rd : ImgRead) : Nat := rd.num 0x09 1
def ImgRead.nsec (rd : ImgRead) : Nat := rd.num 0x0A 2
def ImgRead.isSystem (rd : ImgRead) : Bool := (rd 0x06).getLsbD 0
def ImgRead.isProtected (rd : ImgRead) : Bool := (rd 0x06).getLsbD 1
def ImgRead.isSigned (rd : ImgRead) : Bool := (rd 0x06).getLsbD 2
def ImgRead.handler (rd : ImgRead) : Nat := rd.num 0x10 8
def ImgRead.imglen (rd : ImgRead) : Nat := rd.num 0x18 8
def ImgRead.svn (rd : ImgRead) : Nat := rd.num 0x20 4

/-- The header, its SVN apart (R317). -/
def ImgRead.headerOk (rd : ImgRead) : Bool :=
  decide (rd.num 0 4 = 0x444E4D52) && decide (rd.num 4 2 = 3) && decide (rd.num 6 2 < 8) &&
  decide (1 ≤ rd.num 8 1 ∧ rd.num 8 1 ≤ 3) && decide (1 ≤ rd.nkern ∧ rd.nkern ≤ 64) && decide (3 ≤ rd.nsec ∧ rd.nsec ≤ 64) &&
  rd.zero 0x0C 4 && decide (rd.imglen ≤ 2 ^ 30) && rd.zero 0x24 28 &&
  (!rd.isSystem || (rd.isSigned && decide (rd.handler = allOnes64)))

def ImgRead.secRow (rd : ImgRead) (i : Nat) : Section :=
  { ty := rd.num (64 + 32 * i) 4, off := rd.num (64 + 32 * i + 8) 8, len := rd.num (64 + 32 * i + 16) 8 }
def ImgRead.sections (rd : ImgRead) : List Section := (List.range rd.nsec).map rd.secRow
/-- The section of a type; an empty one where the image has none. -/
def ImgRead.sec (rd : ImgRead) (ty : Nat) : Section := (rd.sections.find? fun x => x.ty == ty).getD { ty := ty, off := 0, len := 0 }

/-- The parts of a section table that overlap. -/
def overlaps : List Section → Bool
  | [] => false
  | x :: r => r.any (fun y => decide (x.off < y.off + y.len ∧ y.off < x.off + x.len)) || overlaps r

/-- The section table (R318). -/
def ImgRead.sectionsOk (rd : ImgRead) : Bool :=
  let l := rd.sections
  let count (t : Nat) : Nat := (l.filter fun x => x.ty == t).length
  (List.range rd.nsec).all (fun i => rd.zero (64 + 32 * i + 4) 4 && rd.zero (64 + 32 * i + 24) 8) &&
  l.all (fun x => decide (1 ≤ x.ty ∧ x.ty ≤ 8 ∧ x.off % 64 = 0 ∧ x.off + x.len ≤ rd.imglen)) && !overlaps l &&
  [1, 2, 3].all (fun t => count t == 1) && [4, 5, 6, 7].all (fun t => decide (count t ≤ 1)) &&
  count 8 == (if rd.isSigned then 1 else 0) &&
  (!rd.isSigned || ((l.getLast?.elim false fun x => x.ty == 8) && l.all fun x => decide (x.off ≤ (rd.sec 8).off))) &&
  decide ((rd.sec 1).len ≤ 2 ^ 24 ∧ (rd.sec 1).len % 64 = 0) && decide ((rd.sec 2).len = 64 * rd.nkern) &&
  decide (rd.handler = allOnes64 ∨ (rd.handler % 64 = 0 ∧ rd.handler < (rd.sec 1).len))

def ImgRead.kernRow (rd : ImgRead) (i : Nat) : KernRow :=
  let o := (rd.sec 2).off + 64 * i
  { entry := rd.num o 8, run := rd.num (o + 8) 2, maxpos := rd.num (o + 0x0A) 2, loopix := rd.num (o + 0x0C) 2,
    nreg := rd.num (o + 0x0E) 2, spadoff := rd.num (o + 0x10) 8,
    fmtoff := if rd.num (o + 0x18) 8 = allOnes64 then none else some (rd.num (o + 0x18) 8), keep := rd.num (o + 0x20) 4 }
def ImgRead.kernRows (rd : ImgRead) : List KernRow := (List.range rd.nkern).map rd.kernRow

/-- The kernel table (R319): its entries name bundles, and tables that the sections hold. -/
def ImgRead.kernelsOk (rd : ImgRead) : Bool :=
  (List.range rd.nkern).all fun i =>
    let k := rd.kernRow i
    rd.zero ((rd.sec 2).off + 64 * i + 0x24) 28 &&
    decide (k.entry % 64 = 0 ∧ k.entry < (rd.sec 1).len ∧ 1 ≤ k.run ∧ k.run ≤ 1023 ∧ 8 * k.loopix + 8 ≤ (rd.sec 3).len) &&
    decide (k.nreg = 0 ∨ k.spadoff + 16 * k.nreg ≤ (rd.sec 4).len) &&
    k.fmtoff.elim true fun f => decide (f + 256 ≤ (rd.sec 5).len)

/-! ### Signatures (R322, R466) -/

/-- A slot's purpose: 0 firmware, 1 hypervisor code, 2 tenant images (R466). -/
def State.keySlot (s : State) (n : Nat) : Option KeySlot := if n < 8 then SMap.get none s.fuses.slots n else none

/-- Both signatures of a SIG section verify under its slot's keys, and the slot serves the purpose (R322). -/
def State.signed (s : State) (rd : ImgRead) (purpose : Nat → Bool) : Bool :=
  let g := rd.sec 8
  match s.keySlot (rd.num g.off 2) with
  | none => false
  | some k =>
    let dg := bytesOfWord 48 (Config.digest (rd.bytes 0 g.off))
    purpose k.purpose && decide (g.len = 3437) && rd.zero (g.off + 2) 62 && Config.sigVerify k.key (rd.bytes (g.off + 64) 64) dg &&
    Config.sigVerify k.key (rd.bytes (g.off + 128) 3309) dg

/-! ### Bundles and paths (R64, R67, R323, R324) -/

/-- The bundle of a CODE section at an index. -/
def ImgRead.bundle (rd : ImgRead) (i : Nat) : Except DecodeErr Bundle := decodeBytes (rd.bytes ((rd.sec 1).off + 64 * i) 64)
def ImgRead.nbundles (rd : ImgRead) : Nat := (rd.sec 1).len / 64
def ImgRead.bundle? (rd : ImgRead) (i : Nat) : Option Bundle := if i < rd.nbundles then (rd.bundle i).toOption else none

def exceptOk {ε α : Type} : Except ε α → Bool
  | .ok _ => true
  | .error _ => false

/-- Items 1 to 7 of R64 on every bundle. -/
def ImgRead.codeOk (rd : ImgRead) : Bool := (List.range rd.nbundles).all fun i => exceptOk (rd.bundle i)

/-- A result whose latency its operation alone decides. That of a load from a register's address depends on it, and decode detects what
it collides with (R67; log entry 32). -/
def fixedResult (i : Instr) : Bool :=
  match i.slot? with
  | some .scalar | some .va | some .vb => true
  | _ =>
    match i with
    | .mRd _ | .lAadd _ | .lAli _ | .lAmov _ | .yClread _ => true
    | _ => false

/-- The result of a load from [a0 + off] in the own scratchpad, which lands with latency 6 whatever the registers hold (R46, R57). -/
def ownLoad (i : Instr) : Option LqEntry :=
  let land (x : LayL) (n : Nat) (path : WPath) (file : RFile) (index : Nat) : Option LqEntry :=
    if x.an = 0 ∧ x.off.toNat + n ≤ 2 ^ 21 then (Core.reset.landLoad 0 path file index 0).pp.fresh.head? else none
  match i with
  | .lS x => land x (scalarBytes x.sz) .lS .s x.d.toNat
  | .lV x => land x 256 .lV .v (physV 0 x.d.toNat)
  | .lVp x => land x (4 * 2 ^ x.sz.toNat) .lV .v (physV 0 x.d.toNat)
  | .lB x => land x (2 ^ x.sz.toNat) .lV .v (physV 0 x.d.toNat)
  | .lFe x => land x 16 .lV .v (physV 0 x.d.toNat)
  | _ => none

/-- The results of an operation as its bundle leaves them, on a core whose registers do not matter. -/
def staticResults (i : Instr) : List LqEntry :=
  let k := match i with
    | .yTlread x => Core.landS Core.reset 0 .x x.sd.toNat 0 2
    | _ => if fixedResult i then (slotSem [] i).elim Core.reset fun m => m.act State.reset 0 0 Core.reset else Core.reset
  (k.pp.fresh ++ (ownLoad i).toList).map fun e => { e with value := 0, mask := 0, gen := 0 }

/-- A place that the next bundle of a path may have: its index, and whether RRB advances on the way (R52, R117). -/
structure PathStep where
  target : Nat
  rot : Bool
  deriving DecidableEq, Repr

/-- A hardware loop of the code: its level, and its first and last bundle (R115). -/
structure LoopSpan where
  lvl : Nat
  first : Nat
  last : Nat
  deriving DecidableEq, Repr

/-- The loops of the code. -/
def ImgRead.loops (rd : ImgRead) : List LoopSpan :=
  (List.range rd.nbundles).flatMap fun i =>
    ((rd.bundle? i).elim [] Bundle.ops).filterMap fun o =>
      match o with
      | .sLoop x => some { lvl := x.lvl.toNat, first := i + 1, last := i + x.len.toNat }
      | _ => none

/-- A bundle index reached by a signed offset in bundles; one below the code names no bundle. -/
def jumpTo (i : Nat) (off : BitVec 32) : Nat := if (i : Int) + off.toInt < 0 then 2 ^ 32 else ((i : Int) + off.toInt).toNat

/-- The kernel of a bundle: the last entry at or below it (log entry 32). -/
def ImgRead.kernelAt (rd : ImgRead) (i : Nat) : Option KernRow :=
  (rd.kernRows.filter fun k => decide (k.entry ≤ 64 * i)).foldl (fun b k =>
    match b with
    | none => some k
    | some y => if y.entry ≤ k.entry then some k else b) none

/-- A byte of the loop table of a kernel (R320). -/
def ImgRead.loopByte (rd : ImgRead) (k : KernRow) (l : Nat) : Byte := rd ((rd.sec 3).off + 8 * k.loopix + l)

/-- The bundles that may follow a bundle on the paths of R324. -/
def ImgRead.follow (rd : ImgRead) (loops : List LoopSpan) (i : Nat) (b : Bundle) : List PathStep :=
  let straight := i + 1
  let back := (loops.filter fun l => l.last == i).map fun (l : LoopSpan) =>
    let rot := (rd.kernelAt i).elim false fun k => (rd.loopByte k l.lvl).getLsbD 4
    ({ target := l.first, rot := rot } : PathStep)
  let next : List PathStep := { target := straight, rot := false } :: back
  let go (n : Nat) : PathStep := { target := n, rot := false }
  let kept (g : BitVec 3) : List PathStep := if g = 0 then [] else next
  b.ops.foldl (fun l o =>
    match o with
    | .sBr x => go (jumpTo i x.off) :: kept x.grd
    | .sBrc x => go (jumpTo i x.off) :: next
    | .sCall x => go (jumpTo i x.off) :: kept x.grd
    | .sRet x => kept x.grd
    | .sJr x => kept x.grd
    | .sLoop x => go (i + x.len.toNat + 1) :: next
    | .sLbrk x =>
      (loops.filter fun l => l.lvl == x.lvl.toNat && decide (l.first ≤ i ∧ i ≤ l.last)).map (fun l => go (l.last + 1)) ++ kept x.grd
    | .sWrsr x => if x.sr = 0 then kept x.grd else l
    | .yRetire x => if x.grd = 0 then [] else l
    | .yTret x => if x.grd = 0 then [] else l
    | _ => l) next

/-- A pending commit as the next trip names it, once RRB has advanced. -/
def LqEntry.rotated (e : LqEntry) : LqEntry :=
  match e.file with
  | .v => if 32 ≤ e.index then { e with index := 32 + (e.index + 1) % 32 } else e
  | _ => e

/-- The commits pending after a bundle. -/
def pendingAfter (q new : List LqEntry) : List LqEntry :=
  ((q.map fun (e : LqEntry) => { e with rem := e.rem - 1 }) ++ new).filter fun e => decide (0 < e.rem)

def unionOf (a b : List LqEntry) : List LqEntry := b.foldl (fun a e => if a.contains e then a else a ++ [e]) a

/-- The walk of R324: what is pending at each bundle reached, and the bundles still to visit. False once a bundle fails. -/
def pathWalk (code : Nat → Option (List LqEntry × Bool × List PathStep)) :
    (fuel : Nat) → SMap (Option (List LqEntry)) → List Nat → Bool
  | 0, _, _ => true
  | _, _, [] => true
  | f + 1, seen, i :: todo =>
    match code i with
    | none => pathWalk code f seen todo
    | some (new, yields, next) =>
      let q := (SMap.get none seen i).getD []
      let k : Core := { Core.reset with pp := { Pipe.reset with lq := q } }
      if k.collides new then false
      else
        let out := if yields then [] else pendingAfter q new
        let step (acc : SMap (Option (List LqEntry)) × List Nat) (n : PathStep) : SMap (Option (List LqEntry)) × List Nat :=
          let out := if n.rot then out.map LqEntry.rotated else out
          match SMap.get none acc.1 n.target with
          | none => (SMap.set none acc.1 n.target (some out), n.target :: acc.2)
          | some old =>
            let u := unionOf old out
            if u.length = old.length then acc else (SMap.set none acc.1 n.target (some u), n.target :: acc.2)
        let r := next.foldl step (seen, todo)
        pathWalk code f r.1 r.2

/-- Items 8 to 10 of R64 on the static paths (R324). -/
def ImgRead.pathsOk (rd : ImgRead) : Bool :=
  let loops := rd.loops
  let code (i : Nat) : Option (List LqEntry × Bool × List PathStep) :=
    (rd.bundle? i).map fun b => (b.ops.flatMap staticResults, b.hdr.yld == 1, rd.follow loops i b)
  let yields := (List.range rd.nbundles).flatMap fun i =>
    (code i).elim [] fun c => if c.2.1 then c.2.2.map PathStep.target else []
  let starts := rd.kernRows.map (fun k => k.entry / 64) ++ (if rd.handler = allOnes64 then [] else [rd.handler / 64]) ++ yields
  let seen := starts.foldl (fun m i => SMap.set none m i (some [])) []
  pathWalk code (16384 * (rd.nbundles + starts.length + 1)) seen starts

/-! ### Loop tables, scratchpad plans, formats (R20, R320, R325, R326) -/

/-- Bundles of a kernel: from its entry to the next entry (log entry 32). -/
def ImgRead.kernelCode (rd : ImgRead) (k : KernRow) : List Instr :=
  ((List.range rd.nbundles).filter fun i => (rd.kernelAt i).elim false fun y => y.entry == k.entry).flatMap fun i =>
    (rd.bundle? i).elim [] Bundle.ops

/-- The loop table of a kernel (R20, R320). -/
def ImgRead.loopsOk (rd : ImgRead) (k : KernRow) : Bool :=
  let byte (l : Nat) : Byte := rd.loopByte k l
  (List.range 6).all (fun l =>
    let b := byte l
    if b.getLsbD 0 then decide (b.toNat / 32 = 0 ∧ b.toNat / 2 % 4 ≠ 3) else b == 0) &&
  byte 6 == 0 && byte 7 == 0 &&
  (rd.kernelCode k).all fun o =>
    match o with
    | .sLoop x => (byte x.lvl.toNat).getLsbD 0
    | _ => true

def ImgRead.regionAt (rd : ImgRead) (k : KernRow) (i : Nat) : Region :=
  let o := (rd.sec 4).off + k.spadoff + 16 * i
  { off := rd.num o 4, size := rd.num (o + 4) 4, keep := (rd (o + 8)).getLsbD 0, ring := (rd (o + 8)).getLsbD 1 }
def ImgRead.regions (rd : ImgRead) (k : KernRow) : List Region := (List.range k.nreg).map (rd.regionAt k)

/-- A `c.ring` of the kernel names the region (R211, R320). -/
def ringNames (code : List Instr) (r : Region) : Bool :=
  code.any fun o =>
    match o with
    | .cRing x => decide (256 * x.base.toNat = r.off ∧ 256 * x.size.toNat = r.size)
    | _ => false

/-- Banks of 64 KiB that two regions share (R326). -/
def banksMeet (a b : Region) : Bool :=
  decide (0 < a.size ∧ 0 < b.size ∧ a.off / 65536 ≤ (b.off + b.size - 1) / 65536 ∧ b.off / 65536 ≤ (a.off + a.size - 1) / 65536)

/-- Every region against those that follow it: none overlaps, and a ring shares no bank. -/
def regionsApart : List Region → Bool
  | [] => true
  | a :: r =>
    r.all (fun b => !decide (a.off < b.off + b.size ∧ b.off < a.off + a.size) && !((a.ring || b.ring) && banksMeet a b)) && regionsApart r

/-- The scratchpad plan of a kernel (R19, R320, R323, R326). -/
def ImgRead.spadOk (rd : ImgRead) (k : KernRow) : Bool :=
  let l := rd.regions k
  let code := rd.kernelCode k
  (List.range k.nreg).all (fun i =>
    let o := (rd.sec 4).off + k.spadoff + 16 * i
    decide (rd.num (o + 8) 4 < 4) && rd.zero (o + 12) 4) &&
  l.all (fun r => decide (r.off % 256 = 0 ∧ r.size % 256 = 0 ∧ r.off + r.size ≤ 0x200000) && ringNames code r == r.ring) &&
  regionsApart l &&
  l.all (fun r => !r.ring || (Instr.cRing { grd := 0, b := 0, base := BitVec.ofNat 13 (r.off / 256), size := BitVec.ofNat 14 (r.size / 256) }).wf) &&
  decide (k.keep = (l.filter Region.keep).foldl (fun n r => n + r.size) 0 ∧ k.keep ≤ 0x200000)

/-- A format entry with its reserved bits zero (R4, R91). -/
def fmtStore (e : QWord) : QWord := e &&& 0xFF07FF07#128

/-- A format entry holds no reserved code; what its reserved bits hold does not matter (R4, R91, R92). -/
def formatOk (e : QWord) : Bool :=
  let wt := fmtWt e
  let at_ := fmtAt e
  decide (fmtAct e ≤ 1 ∧ fmtScl e ≤ 2 ∧ at_ ≤ 2 ∧ wt ≤ 4) &&
  (match wt with
   | 0 => at_ == 0
   | 1 => at_ != 0
   | 2 => at_ != 0
   | _ => true)

/-- The format entries of a kernel. -/
def ImgRead.formats (rd : ImgRead) (k : KernRow) : List QWord :=
  match k.fmtoff with
  | none => []
  | some f => (List.range 16).map fun i => fmtStore (BitVec.ofNat 128 (rd.num ((rd.sec 5).off + f + 16 * i) 16))

/-! ### Relocations (R321) -/

/-- The placed address of an image offset in CODE or DATA. -/
def ImgRead.placed (rd : ImgRead) (code data : Word) (t : Nat) : Option Nat :=
  let inS (x : Section) : Bool := decide (x.off ≤ t ∧ t < x.off + x.len)
  if inS (rd.sec 1) then some (code.toNat + (t - (rd.sec 1).off))
  else if inS (rd.sec 6) then some (data.toNat + (t - (rd.sec 6).off))
  else none

/-- A bundle with an address in the immediate of its `l.ali` or `s.li`; none where it holds no such operation. -/
def relocBundle (b : Bundle) (kind a : Nat) : Option Bundle :=
  let hit (o : Instr) : Option Instr :=
    match o with
    | .lAli x => if kind = 1 then some (.lAli { x with imm := BitVec.ofNat 48 a }) else none
    | .sLi x => if kind = 2 then some (.sLi { x with imm := BitVec.ofNat 47 a }) else none
    | _ => none
  if b.ops.any fun o => (hit o).isSome then some { b with ops := b.ops.map fun o => (hit o).getD o } else none

/-- One relocation; none where the image is rejected. OFFSET lies in the bundle for kinds 1 and 2 (log entry 32). -/
def ImgRead.relocate (rd : ImgRead) (code data : Word) (i : Nat) : Option ImgRead :=
  let o := (rd.sec 7).off + 16 * i
  let off := rd.num o 6
  let kind := rd.num (o + 6) 1
  match rd.placed code data (rd.num (o + 8) 8) with
  | none => none
  | some a =>
    if rd (o + 7) ≠ 0 then none
    else if kind = 1 ∨ kind = 2 then
      let c := rd.sec 1
      if off < c.off ∨ c.off + c.len ≤ off ∨ (if kind = 1 then 2 ^ 48 else 2 ^ 46) ≤ a then none
      else
        match rd.bundle ((off - c.off) / 64) with
        | .ok b => (relocBundle b kind a).map fun b => rd.patch (c.off + (off - c.off) / 64 * 64) (bytesOfWord 64 (encodeBundle b))
        | .error _ => none
    else if kind = 3 ∨ kind = 4 then
      let n := if kind = 3 then 8 else 4
      let d := rd.sec 6
      if off < d.off ∨ d.off + d.len < off + n ∨ 256 ^ n ≤ a then none else some (rd.patch off (bytesOfWord n a))
    else none

/-- Every relocation, in order. -/
def ImgRead.relocated (rd : ImgRead) (code data : Word) : Option ImgRead :=
  if (rd.sec 7).len % 16 ≠ 0 then none
  else (List.range ((rd.sec 7).len / 16)).foldl (fun r i => r.bind fun r => r.relocate code data i) (some rd)

/-! ### LOAD (R315, R316, R323, R327) -/

/-- The image that KLADDR of a die names. -/
def State.imageAt (s : State) (d : Nat) : ImgRead := fun a => s.rawByte (locDram d ((s.dctl d 0x200).toNat + a))
/-- The image lies in untagged pages of the die's memory, 4 KiB aligned (R315). -/
def State.imagePlaced (s : State) (d : Nat) (n : Nat) : Bool :=
  let a := (s.dctl d 0x200).toNat
  decide (a % 4096 = 0 ∧ a + n ≤ dramBytes) && (List.range (n / 2 ^ 16 + 2)).all fun i =>
    decide (a + n ≤ (a / 2 ^ 16 + i) * 2 ^ 16) || s.frameBit d (a / 2 ^ 16 + i)

/-- The first check that fails, by its code; 0 when all pass (R316, R323). `p` gives the addresses that relocations take. -/
def State.loadCode (s : State) (rd : ImgRead) (placed : Nat → Bool) (part : Nat) (p : LoadPlan) : Nat :=
  let slice := fieldOf (s.pcfg part) 48 16
  if !placed 64 || !rd.headerOk || rd.svn ≠ 0 || !placed rd.imglen then 0x01
  else if !rd.sectionsOk || !rd.kernelsOk then 0x02
  else if rd.isSigned && !s.signed rd (fun k => !rd.isSystem || k == 1) then 0x03
  else if !rd.codeOk then 0x04
  else if !rd.pathsOk then 0x05
  else if !rd.kernRows.all rd.loopsOk then 0x06
  else if !rd.kernRows.all rd.spadOk then 0x07
  else if !rd.kernRows.all (fun k => (rd.formats k).all formatOk) then 0x08
  else if rd.kernRows.any (fun k => decide (4 * slice < k.run ∨ 4 * slice < k.maxpos)) then 0x09
  else if (rd.relocated p.code p.data).isNone then 0x0A
  else if s.partState part ≠ 1 then 0x0B
  else if s.nextGen.isNone then 0x0C
  else if (List.range 512).all (fun n => !s.asidFree n) then 0x0D
  else 0

/-- KLCTL with its command finished. -/
def State.loadDone (s : State) (d result : Nat) : State := s.setDctl d 0x208 (setField (setField (s.dctl d 0x208) 32 8 result) 0 4 0)

/-- A write of KLCTL (R315). -/
def State.writeKlctl (s : State) (d : Nat) (v : Word) : State :=
  let w := s.dctl d 0x208
  if fieldOf w 0 4 ≠ 0 ∨ 2 < fieldOf v 0 4 then s.setDctl d 0x208 (setField w 32 8 0x0F)
  else s.setDctl d 0x208 (setField (setField w 10 6 (fieldOf v 10 6)) 0 4 (fieldOf v 0 4))

/-- A kernel as it is placed (R319, R320, R327). -/
def ImgRead.kernel (rd : ImgRead) (code : Word) (k : KernRow) : Kernel :=
  { entry := code + BitVec.ofNat 64 k.entry, run := k.run, maxpos := k.maxpos,
    loopTab := (List.range 6).foldl (fun m l => SMap.set 0 m l (rd.loopByte k l)) [],
    regions := rd.regions k, fmt := rd.formats k, keep := k.keep }

def ImgRead.image (rd : ImgRead) (code : Word) : Image :=
  { kernels := rd.kernRows.map (rd.kernel code),
    handler := if rd.handler = allOnes64 then none else some (code + BitVec.ofNat 64 rd.handler),
    system := rd.isSystem, isProtected := rd.isProtected }

/-- A context as LOAD leaves it (R327): L2TB and PTROOT in its control page, and the addresses the loader writes. -/
def newCtx (p : LoadPlan) (img : Image) (compat : Nat) (gen : Nat) (key : Nat) : Ctx :=
  let ctl := p.roots.foldl (fun m r => SMap.set 0 m (0x220 + 8 * r.1) r.2) []
  let ctl := SMap.set 0 ctl 0x200 0x0040000100000000#64
  let ctl := SMap.set 0 ctl 0x300 p.save
  let ctl := SMap.set 0 ctl 0x308 p.spill
  { phase := .loaded, gen := BitVec.ofNat 10 gen, asid := p.asid, compat := BitVec.ofNat 2 compat, image := img, pageLoc := p.page,
    cctl := SMap.set 0 ctl 0x328 p.templates, outs := [], key := some key, sseq := 0, savectr := 0, group := .unplaced, gangs := [],
    ndie := 0, ncore := 0, queue := none, launch := none, parkedAt := [], taken := [], yielded := [], landed := [], retired := [],
    evicted := [], agree := none, pending := [] }

/-- Every page of a range has a leaf that meets a condition on a die. -/
def State.pagesMeet (s : State) (asid d va n : Nat) (p : Word → Bool) : Bool :=
  (List.range ((va % 2 ^ 16 + n + 2 ^ 16 - 1) / 2 ^ 16)).all fun i =>
    match s.walk asid d ((va / 2 ^ 16 + i) * 2 ^ 16) with
    | .leaf e _ => decide (entryTgt e = 0) && p e
    | _ => false

/-- The dies on which the plan gives a root. -/
def planDies (p : LoadPlan) : List Nat := ((p.roots.filter fun r => r.2.getLsbD 0).map Prod.fst).eraseDups

/-- Bytes rounded up to whole 4 KiB pages. -/
def pages4k (n : Nat) : Nat := (n + 4095) / 4096 * 4096

/-- The template table has a page of its own, zeroed, when no data block holds it (R327). -/
def ownTemplates (p : LoadPlan) (dataLen : Nat) : Bool :=
  !decide (p.data.toNat ≤ p.templates.toNat ∧ p.templates.toNat < p.data.toNat + dataLen)

/-- The areas of a plan: addresses and bytes (R327). -/
def planAreas (rd : ImgRead) (p : LoadPlan) (img : Image) : List (Nat × Nat) :=
  [(p.code.toNat, (rd.sec 1).len), (p.data.toNat, pages4k (rd.sec 6).len)] ++
  (if ownTemplates p (rd.sec 6).len then [(p.templates.toNat, 4096)] else []) ++
  [(p.save.toNat, 256 + 160 * (0x18100 + img.kernels.foldl (fun n k => max n k.keep) 0)), (p.spill.toNat, 160 * 0x8400)]

/-- No two of a list of areas meet. -/
def areasApart : List (Nat × Nat) → Bool
  | [] => true
  | a :: r => r.all (fun b => !decide (0 < a.2 ∧ 0 < b.2 ∧ a.1 < b.1 + b.2 ∧ b.1 < a.1 + a.2)) && areasApart r

/-- The 64 KiB pages of areas. -/
def areaPages (l : List (Nat × Nat)) : List Nat :=
  (l.flatMap fun a => if a.2 = 0 then [] else upFrom (a.1 / 2 ^ 16) ((a.1 + a.2 - 1) / 2 ^ 16 - a.1 / 2 ^ 16 + 1)).eraseDups

/-- The frame that a leaf gives a 64 KiB page (R391). -/
def pageFrame (n : Nat) (e : Word) (lvl : Nat) : Nat := (entryAddr e + n * 2 ^ 16 % pageSize lvl) / 2 ^ 16

/-- The frame of a 64 KiB page of an address space, where a leaf maps it. -/
def State.frameOf (s : State) (asid d n : Nat) : Option Nat :=
  match s.walk asid d (n * 2 ^ 16) with
  | .leaf e lvl => some (pageFrame n e lvl)
  | _ => none

/-- The frames of the areas on a die: no two pages share one, and none holds a table of the plan or the context's control page. -/
def State.framesApart (s : State) (d : Nat) (p : LoadPlan) (l : List (Nat × Nat)) : Bool :=
  let frames := (areaPages l).filterMap (s.frameOf p.asid d)
  decide (frames.eraseDups.length = frames.length) &&
  (p.tables.all fun t => t.1 != d || !frames.contains (t.2.1 / 2 ^ 16)) &&
  (p.page / 2 ^ 46 != d || !frames.contains (p.page % 2 ^ 46 / 2 ^ 16))

/-- The mappings of a plan are those of R327, once its page tables stand and the context is loaded. Save and spill pages are tagged, but for a
system image (R258, R332). -/
def State.planMaps (s : State) (rd : ImgRead) (p : LoadPlan) (img : Image) : Bool :=
  let untag (e : Word) : Bool := entryUntag e == rd.isSystem && (rd.isSystem || !e.getLsbD 7)
  let rw (e : Word) : Bool := e.getLsbD 4 && e.getLsbD 5
  let kept (e : Word) : Bool := rw e && (rd.isSystem || untag e)
  areasApart (planAreas rd p img) && !(planDies p).isEmpty && (planDies p).all fun d =>
    s.present d && s.framesApart d p (planAreas rd p img) &&
    s.pagesMeet p.asid d p.code.toNat (rd.sec 1).len (fun e => e.getLsbD 6 && !e.getLsbD 5 && untag e) &&
    s.pagesMeet p.asid d p.data.toNat (pages4k (rd.sec 6).len) (fun e => rw e && untag e) &&
    s.pagesMeet p.asid d p.templates.toNat 4096 (fun e => rw e && untag e) &&
    s.pagesMeet p.asid d p.save.toNat (256 + 160 * (0x18100 + img.kernels.foldl (fun n k => max n k.keep) 0)) kept &&
    s.pagesMeet p.asid d p.spill.toNat (160 * 0x8400) kept

/-- The plan's own numbers are free and aligned (R255, R287, R293, R327, R397). -/
def State.planFree (s : State) (part : Nat) (p : LoadPlan) : Bool :=
  decide (p.index < 1024 ∧ p.asid < 512 ∧ p.code.toNat % 64 = 0 ∧ p.data.toNat % 4096 = 0 ∧ p.templates.toNat % 4096 = 0 ∧
          p.save.toNat % 256 = 0 ∧ p.spill.toNat % 2 ^ 16 = 0 ∧ p.page % 4096 = 0 ∧ p.page < 8 * 2 ^ 46 ∧ p.page % 2 ^ 46 + 4096 ≤ dramBytes) &&
  (s.ctx? (part * 1024 + p.index)).isNone && s.asidFree p.asid && (s.ctxPageAt p.page).isNone &&
  p.tables.all fun t => decide (t.1 < 8 ∧ t.2.1 % 8 = 0 ∧ t.2.1 + 8 ≤ dramBytes) && s.frameBit t.1 (t.2.1 / 2 ^ 16)

/-- The bytes of an image written where it is placed, on every die of the plan (R327). -/
def State.placeImage (s : State) (x : Nat) (rd : ImgRead) (p : LoadPlan) : State :=
  let c := rd.sec 1
  let t := rd.sec 6
  let code := rd.bytes c.off c.len
  let data := rd.bytes t.off t.len ++ List.replicate (pages4k t.len - t.len) 0
  (planDies p).foldl (fun s d =>
    let s := (s.ctxWrite x d p.code.toNat code).ctxWrite x d p.data.toNat data
    if ownTemplates p t.len then s.ctxWrite x d p.templates.toNat (List.replicate 4096 0) else s) s

/-- LOAD on a die (R314, R323, R327). A plan that does not fit leaves the command pending (log entry 16). -/
def State.load (s : State) (d : Nat) (p : LoadPlan) : State :=
  let w := s.dctl d 0x208
  if fieldOf w 0 4 ≠ 1 || !s.present d then s
  else
    let part := fieldOf w 10 6
    let rd := s.imageAt d
    let r := s.loadCode rd (s.imagePlaced d) part p
    if r ≠ 0 then s.loadDone d r
    else
      let x := part * 1024 + p.index
      match s.takeGen x, rd.relocated p.code p.data with
      | some (g, t), some rd' =>
        let img := rd'.image p.code
        let t := p.tables.foldl (fun t e => t.putRaw (locDram e.1 e.2.1) (bytesOf e.2.2)) t
        let t := t.setCtx x (some { newCtx p img (rd.num 8 1) g (Config.drawKey s.free) with queue := s.boundQueue x })
        let t := { t with free := s.free + 1 }
        if !s.planFree part p || !t.planMaps rd p img then s
        else ((t.placeImage x rd' p).setDctl d 0x208 (setField w 48 16 x)).loadDone d 0
      | _, _ => s

/-! ### UNLOAD (R253, R260, R314, R366, R397) -/

/-- Phasers whose owner is unloaded are Unused (R366). -/
def State.dropPhasers (s : State) (x : Nat) : State :=
  allDies.foldl (fun s d => s.modDie d fun y =>
    { y with phasers := SMap.mapVals .reset (fun _ (f : Phaser) => if f.owner = some x then Phaser.reset else f) y.phasers }) s

/-- The copies of a context that is unloaded go on under what they captured, and its ASID stays until they have drained (R270, R406). What
the context bound with a key goes with it (R214). -/
def State.leaveCopies (s : State) (x : Nat) (c : Ctx) : State :=
  let mine (r : CopyRun) : Bool := r.ctx == x && r.gone.isNone
  let held := s.cores.any fun e => e.2.chan.any fun ch => ch.2.any mine
  let mark (l : List CopyRun) : List CopyRun := l.map fun r => if mine r then { r with gone := some c.asid } else r
  let f (k : Core) : Core :=
    { k with chan := SMap.mapVals [] (fun _ l => mark l) k.chan, seals := k.seals.filter fun b => b.owner != x }
  let s := { s with cores := SMap.mapVals .reset (fun _ k => f k) s.cores }
  if held then { s with leaving := s.leaving ++ [c] } else s

/-- A context leaves the package. -/
def State.dropCtx (s : State) (d x : Nat) (c : Ctx) : State :=
  let s := (s.abandonGuests x).abortUnload x
  let s := ((s.dropIngress x).drainGen c.gen.toNat).dropPhasers x
  let s := s.leaveCopies x c
  let s := (s.startInval d c.asid 0 0 true (some c.asid)).setCtx x none
  s.drainSettle (partOf x)

/-- UNLOAD on a die (R314): refused while the context is Running or Halted, and where KLADDR names no context. -/
def State.unload (s : State) (d : Nat) : State :=
  if fieldOf (s.dctl d 0x208) 0 4 ≠ 2 || !s.present d then s
  else
    let a := (s.dctl d 0x200).toNat
    match if a < 2 ^ 16 then s.ctx? a else none with
    | none => s.loadDone d 0x0E
    | some c =>
      if c.phase = .running ∨ c.phase = .halted then s.loadDone d 0x0E else (s.dropCtx d a c).loadDone d 0

end Sys2Proof.Machine
end

