-- ==== Sys2Proof/Machine/Debug.lean ====
section
/-! DEFINITION. The debug port (R61, R126, R297, R329, R473). -/

namespace Sys2Proof.Machine

/-- DEBUG_HALT of a sequencer at a bundle boundary (R297). A request of the bundle at issue that waits at a peer bank is withdrawn
first, and the halt comes with the answer, or before the next bundle where the answer lets this one issue (R195); a bundle that its line
has released issues first (R363); a group that has not started, and a gang whose landing is under way, do not halt (R475). -/
def State.debugHalt (s : State) (q : Nat) : State :=
  match (s.seq q).ctx with
  | none => s
  | some x =>
    if !s.debugOk x (dieOfSeq q) || (s.ctx? x).elim true (fun c => c.group == .starting) then s
    else
      match (s.seq q).phase with
      | .run =>
        if s.fedOut q then s.modSeq q fun y => { y with phase := .withdraw false, haltAsk := true }
        else if (s.seq q).released then s.modSeq q fun y => { y with haltAsk := true }
        else s.doHalt q 15 0
      | .bubble _ | .start _ | .restore _ => s.doHalt q 15 0
      | _ => s

/-- DEBUG_RESUME (R297, R360): the next bundle is the one at PC; the context runs once none of its sequencers is halted. -/
def State.debugResume (s : State) (q : Nat) : State :=
  match (s.seq q).ctx with
  | none => s
  | some x =>
    if (s.seq q).phase ≠ .halted || !s.debugOk x (dieOfSeq q) then s
    else
      let s := (s.modSeq q fun y => { y with phase := .run }).clearWaits q
      if allSeqs.any fun r => (s.seq r).ctx == some x && (s.seq r).phase == .halted then s
      else s.modCtx x fun c => { c with phase := .running }

/-- A special register written with the access of system mode (R119, R297). COMPAT is written too (R88). -/
def State.debugSr (s : State) (q c n : Nat) (v : Word) : State :=
  let g := s.genOf q
  match n with
  | 0x000 => s.modSeq q fun y => { y with pc := lineAddr v }
  | 0x014 =>
    if s.paired q then s else s.setCbind c (setField (s.cbind c) 4 3 (fieldOf v 0 3))
  | 0x01B => s.modCtx (s.ctxIdOf q) fun x => { x with compat := v.setWidth 2 }
  | 0x01C => s.modCore c fun k => { k with mx := { k.mx with accown := Sys2Proof.Machine.accownWrite v } }
  | n =>
    if srOfSeq n then s.modSeq q fun y => y.writeSr true g n v else s.modCore c fun k => k.writeSr true g n v

/-- A bobbin descriptor with its reserved bits zero (R4, R153). -/
def bobStore (d : QWord) : QWord := d &&& 0x1FFFFFFC1FFF0000FFFFFFFFFFFFFFFF#128

/-- A register of a core written by the debugger: it takes the context's GEN (R297). A register that reads as a constant keeps it,
and a dead one takes no value (R46, R54). -/
def Core.debugSet (k : Core) (id : Nat) (g : Gen) (r : DebugReg) (v : Tile) : Core :=
  let w : Word := v.setWidth 64
  let x : VWord := v.setWidth 2048
  let put {n : Nat} (m : SMap (Reg n)) (i lim : Nat) (fixed : Bool) (y : BitVec n) : SMap (Reg n) :=
    if lim ≤ i || (fixed && i == 0) then m else SMap.set (Reg.wiped n) m i (Reg.of y g)
  match r with
  | .s i => { k with sc := { k.sc with s := put k.sc.s i 32 true w } }
  | .q i => { k with sc := { k.sc with q := put k.sc.q i 8 true (v.setWidth 1) } }
  | .ls i => { k with sc := { k.sc with ls := put k.sc.ls i 2 false w } }
  | .v i => if k.dead g i then k else { k with ve := { k.ve with v := put k.ve.v i 64 false x } }
  | .p i => { k with ve := { k.ve with p := put k.ve.p i 8 true (v.setWidth 128) } }
  | .oa i => { k with ve := { k.ve with oa := put k.ve.oa i 8 false x } }
  | .ob i => { k with ve := { k.ve with ob := put k.ve.ob i 8 false x } }
  | .la i => { k with ve := { k.ve with la := put k.ve.la i 2 false x } }
  | .lb i => { k with ve := { k.ve with lb := put k.ve.lb i 2 false x } }
  | .a i => { k with me := { k.me with a := put k.me.a i 16 true w } }
  | .h i => { k with me := { k.me with h := put k.me.h i 16 false w } }
  | .b i => { k with me := { k.me with b := put k.me.b i 16 false (bobStore (v.setWidth 128)) } }
  | .t i => { k with mx := { k.mx with t := put k.mx.t i 8 false v } }
  | .f i =>
    let e : QWord := v.setWidth 128
    if formatOk e then { k with mx := { k.mx with f := put k.mx.f i 16 false (fmtStore e) } } else k
  | .fbind =>
    -- A reserved count or level is refused (R168).
    if fieldOf w 3 5 = 0 ∨ 16 < fieldOf w 3 5 ∨ 5 < fieldOf w 0 3 then k
    else { k with mx := { k.mx with fbind := setField w 12 52 0, fbOf := if accOwner k.mx.accown = id then none else some id } }
  | .scq i =>
    -- Bit 512 of the value marks the entry as poisoned, and bit 513 takes it out (log entry 76).
    let e : ScaleEntry := { val := v.setWidth 512, tag := Tag.of g, poisoned := v.getLsbD 512 }
    if 8 ≤ i ∨ k.mx.scq.length < i then k
    else if v.getLsbD 513 then { k with mx := { k.mx with scq := k.mx.scq.take i ++ k.mx.scq.drop (i + 1) } }
    else { k with mx := { k.mx with scq := k.mx.scq.take i ++ [e] ++ k.mx.scq.drop (i + 1) } }
  | .half => { k with mx := { k.mx with half := v.getLsbD 0 } }
  | .accown => { k with mx := { k.mx with accown := accownWrite w } }
  | .sr _ => k

/-- The debug port may write a core of a halted sequencer. -/
def State.debugMay (s : State) (q c : Nat) : Bool :=
  (s.seq q).phase == .halted && (s.gang q).contains c && (s.seq q).ctx.elim false fun x => s.debugOk x (dieOfSeq q)

/-- A register of the matrix state that an owner has left in a core (R292). -/
def matrixReg : DebugReg → Bool
  | .t _ | .fbind | .scq _ | .half | .accown => true
  | .sr n => n == 0x01C
  | _ => false

/-- The matrix state of a core belongs to a protected context, and no debugger reaches it (R292, R329). -/
def State.guardedMatrix (s : State) (c : Nat) : Bool := (s.ctx? (accOwner (s.core c).mx.accown)).elim false fun x => x.image.isProtected

/-- DEBUG_STATE_WRITE (R297). -/
def State.debugWrite (s : State) (q c : Nat) (r : DebugReg) (v : Tile) : State :=
  if !s.debugMay q c || (matrixReg r && s.guardedMatrix c) then s
  else
    match r with
    | .sr n => s.debugSr q c n (v.setWidth 64)
    | r => s.modCore c fun k => k.debugSet (s.ctxIdOf q) (s.genOf q) r v

/-- DEBUG_LQ_WRITE (R61): entry i is edited, or cancelled by VALID = 0; a reserved PATH or FILE is refused. A REM outside 1 to 13 and an
INDEX that its file has no register for are taken as written: DESIGN CHOICE (log entry 77). -/
def State.debugLq (s : State) (q c i : Nat) (d : Word) (mask : Pred) (value : VWord) : State :=
  if !s.debugMay q c || decide (32 ≤ i) || fieldOf d 56 3 == 7 || fieldOf d 53 3 == 7 then s
  else
    s.modCore c fun k =>
      let l := k.pp.lq
      let old := l[i]?
      let new := (lqOf d mask value (old.elim false LqEntry.held)).map fun e =>
        { e with load := old.bind LqEntry.load }
      { k with pp := { k.pp with lq := l.take i ++ new.toList ++ l.drop (i + 1) } }

end Sys2Proof.Machine
end

