-- ==== Sys2Proof/Machine/Link.lean ====
section
/-! DEFINITION. Links (R403, R407 to R422): commands and training, sending, tag groups at the receiver, what a verified flit does,
refusals, containment, the watchdog, and the time base. -/

namespace Sys2Proof.Machine

/-! ### Ports -/

/-- The port at the other end, when it is on this package (R407). -/
def peerOf (d p : Nat) : Option (Nat × Nat) := if p < 2 then some (ringPeer d p) else none

/-- Both ends of a link changed. -/
def State.modLink (s : State) (d p : Nat) (f : Port → Port) : State :=
  let s := s.modPort d p f
  match peerOf d p with
  | some (e, r) => s.modPort e r f
  | none => s
/-- Dies at the ends of a link. -/
def linkDies (d p : Nat) : List Nat := d :: (peerOf d p).elim [] fun e => [e.1]
/-- A change of ports, with what it does to the time bases of their dies (R421, R435). -/
def State.withEdges (s : State) (dies : List Nat) (f : State → State) : State :=
  dies.foldl (fun t d => s.freeEdge t d) (f s)

/-- Ticks of 1 ms. -/
def msTicks : Nat := 1000000

/-- The last value a counter may take (R416). -/
def lastCount : Nat := 2 ^ 48 - 1

/-- A key switch: the next key becomes the current one (R417). -/
def Port.switch (x : Port) : Port :=
  { x with cur := x.nxt, nxt := none, epoch := x.epoch + 1, count := 0, open_ := 0 }

/-- A write of LCTL (R415). -/
def State.writeLctl (s : State) (d p : Nat) (v : Word) : State :=
  let c := fieldOf v 0 2
  s.modPort d p fun x =>
    if x.cmd ≠ 0 ∨ c = 3 ∨ (c = 2 ∧ (x.nxt.isSome ∨ x.epoch = 0xFFFF)) then { x with err := true } else { x with cmd := c }

/-- LSTAT bits cleared by writing 1 (R415). -/
def State.writeLstat (s : State) (d p : Nat) (v : Word) : State :=
  s.modPort d p fun x =>
    { x with err := x.err && !v.getLsbD 11, kexh := x.kexh && !v.getLsbD 7, kdue := x.kdue && !v.getLsbD 6, wdog := x.wdog && !v.getLsbD 4 }

/-- TRAIN (R414): CMD reads 1 until training has ended. -/
def State.linkTrain (s : State) (d p : Nat) : State :=
  let x := s.port d p
  if x.cmd ≠ 1 ∨ x.phase = .training then s
  else if x.phase = .down ∧ x.nxt.isSome ∧ x.stest ≠ 2 then s.modPort d p fun x => { x with phase := .training, since := s.ticks }
  else s.modPort d p fun x => { x with err := true, cmd := 0 }

/-- A held port's waiting flits: those of the package ring take the other direction (R416). -/
def State.reroute (s : State) (d p : Nat) : State :=
  if 2 ≤ p then s
  else
    let l := (s.port d p).sendq
    l.foldl (fun s f => s.sendFlit d { f with note := { f.note with clockwise := none } }) (s.modPort d p fun x => { x with sendq := [] })

/-- A flit leaves a port under the next counter value (R416). -/
def State.emit (s : State) (d p : Nat) (f : Flit) : State :=
  let x := s.port d p
  let f := { f with epoch := x.epoch.extractLsb' 0 1, note := { f.note with since := some (f.note.since.getD s.ticks) } }
  let s := s.modPort d p fun x => { x with count := x.count + 1, kdue := x.kdue || decide (2 ^ 47 < x.count.toNat + 1) }
  match peerOf d p with
  | some (e, r) => s.modPort e r fun y => { y with wire := y.wire ++ [f] }
  | none => s.out (.flit d p f)

/-- The integrity-tag flit of the open group (R418). -/
def State.emitTag (s : State) (d p : Nat) : State :=
  let x := s.port d p
  let t := { s.newFlit d 0 10 (BitVec.allOnes 64) 0 0 0 0 .none with seq := BitVec.ofNat 4 x.open_ }
  (s.emit d p t).modPort d p fun x => { x with open_ := 0 }

/-- COUNT has reached its last value with no next key: the port is Held (R414, R416). -/
def State.exhaust (s : State) (d p : Nat) : State :=
  let x := s.port d p
  if x.phase = .up ∧ x.count.toNat = lastCount ∧ x.nxt.isNone then
    s.withEdges [d] fun s => (s.modPort d p fun x => { x with phase := .held, kexh := true }).reroute d p
  else s

/-- KEY_SWITCH (R417): at a group boundary, at or after LSWT or at once in Held. -/
def State.keySwitch (s : State) (d p : Nat) : State :=
  let x := s.port d p
  if x.nxt.isSome ∧ x.open_ = 0 ∧ ((x.phase = .up ∧ x.lswt.toNat ≤ s.tbase d) ∨ x.phase = .held) then
    s.withEdges [d] fun s => s.modPort d p fun x => { x.switch with phase := .up }
  else s

/-- INSTALL (R414, R415). -/
def State.linkInstall (s : State) (d p : Nat) : State :=
  let x := s.port d p
  if x.cmd ≠ 2 then s
  else if x.nxt.isSome ∨ x.epoch = 0xFFFF then s.modPort d p fun x => { x with err := true, cmd := 0 }
  else
    let s := s.modPort d p fun x => { x with nxt := some x.staged, staged := 0, cmd := 0 }
    if x.phase = .held then s.keySwitch d p else s

/-- A key word staged (R415). -/
def State.writeLkey (s : State) (d p i : Nat) (v : Word) : State :=
  s.modPort d p fun x =>
    let lo := 2 ^ (64 * i)
    { x with staged := BitVec.ofNat 256 (x.staged.toNat % lo + v.toNat * lo + x.staged.toNat / (lo * 2 ^ 64) * (lo * 2 ^ 64)) }

/-- LINK_TRAIN_COMPLETE within 1 ms: both ends are Training; `delay` is the one-way delay measured (R414). -/
def State.trainComplete (s : State) (d p delay : Nat) : State :=
  let ready (x : Port) : Bool := x.phase == .training && x.nxt.isSome && decide (s.ticks ≤ x.since + msTicks)
  let other := (peerOf d p).elim true fun e => ready (s.port e.1 e.2)
  if !ready (s.port d p) || !other || !s.portPresent d p then s
  else
    s.withEdges (linkDies d p) fun s => s.modLink d p fun x =>
      { x.switch with phase := .up, delay := delay, cmd := if x.cmd = 1 then 0 else x.cmd, wire := [], recv := [] }

/-- LINK_TRAIN_TIMEOUT: 1 ms has passed (R414). -/
def State.trainTimeout (s : State) (d p : Nat) : State :=
  if (s.port d p).phase ≠ .training ∨ s.ticks ≤ (s.port d p).since + msTicks then s
  else s.modLink d p fun x =>
    if x.phase = .training then { x with phase := .down, err := true, cmd := if x.cmd = 1 then 0 else x.cmd } else x

/-! ### Sending (R416, R418, R429) -/

/-- The flit that a port sends next: a claim flit goes ahead of every other kind (R429). -/
def nextFlit (l : List Flit) : Option Flit := (l.find? fun f => f.kind == 8).or l.head?

/-- FLIT_SEND (R416, R418). No group begins under an old key from the tick of LSWT on (R417). -/
def State.flitSend (s : State) (d p : Nat) : State :=
  let s := s.launchFlits.keySwitch d p
  let x := s.port d p
  if x.phase ≠ .up ∨ lastCount ≤ x.count.toNat then s
  else
    let last := decide (lastCount - 1 ≤ x.count.toNat)
    match nextFlit x.sendq with
    | some f =>
      if 16 ≤ x.open_ then (s.emitTag d p).exhaust d p
      else if last then
        if 0 < x.open_ then (s.emitTag d p).exhaust d p
        else (s.modPort d p fun x => { x with count := BitVec.ofNat 48 lastCount }).exhaust d p
      else
        let s := s.modPort d p fun x => { x with sendq := x.sendq.erase f, open_ := x.open_ + 1 }
        s.emit d p { f with seq := BitVec.ofNat 4 x.open_ }
    | none => if 0 < x.open_ then (s.emitTag d p).exhaust d p else s

/-- TIME_FLIT_SEND (R421): the port's next time flit holds the count of its die. -/
def State.timeFlit (s : State) (d p : Nat) : State :=
  if (s.port d p).phase ≠ .up then s
  else s.modPort d p fun x => { x with sendq := s.newFlit d 0 9 (BitVec.allOnes 64) 0 0 0 (BitVec.ofNat 512 (s.tbase d)) .none :: x.sendq }

/-! ### Imports (R403) -/

/-- The import entry that an access arriving on a die meets: its generation, and whether it accepts writes. -/
def State.importOf (s : State) (d : Nat) (src : BitVec 18) (gen : Gen) (loc : Nat) : Option (Gen × Bool) :=
  ((List.range 128).find? fun i =>
    let a := s.dctl d (0x400 + 16 * i)
    let b := s.dctl d (0x408 + 16 * i)
    let base := fieldOf a 16 30 * 2 ^ 16
    a.getLsbD 63 && decide (base ≤ loc ∧ loc < base + 2 ^ fieldOf a 52 6) && b.extractLsb' 46 18 == src && b.extractLsb' 16 10 == gen).map
    fun i => ((s.dctl d (0x408 + 16 * i)).extractLsb' 0 10, (s.dctl d (0x400 + 16 * i)).getLsbD 62)

/-- What a request meets at its destination: a reason to refuse it, or how it accesses memory (R403, R411). -/
def State.admitted (s : State) (d : Nat) (f : Flit) (write : Bool) : Except Nat Acc :=
  if dramBytes ≤ f.addr.toNat then .error 4
  else
    match s.importOf d f.src f.gen f.addr.toNat with
    | none => .error 2
    | some (g, we) =>
      if write && !we then .error 3
      else .ok { gen := g, tagged := !s.frameBit d (f.addr.toNat / 2 ^ 16), part := none }

/-! ### Writes that await their tag (R402, R418) -/

/-- Runs of enabled bytes of a mask, from a byte on. -/
def maskRuns (m : BitVec 64) : List (Nat × Nat) :=
  ((List.range 64).foldl (fun (acc : List (Nat × Nat)) i =>
    if !m.getLsbD i then acc
    else
      match acc with
      | (o, n) :: r => if o + n = i then (o, n + 1) :: r else (i, 1) :: acc
      | [] => [(i, 1)]) []).reverse

/-- The enabled bytes of a write flit written at its granule, which becomes pending (R418). -/
def State.landWrite (s : State) (d : Nat) (f : Flit) (a : Acc) : State :=
  let loc := locDram d (f.addr.toNat / 64 * 64)
  let bs := bytesOfWord 64 f.payload.toNat
  let s := (maskRuns f.mask).foldl (fun s r => s.writeBytes a (loc + r.1) ((bs.drop r.1).take r.2)) s
  (s.setUnit loc { s.unit loc with pend := true }).snoopLines loc 64

/-- A write of another group to the granule still awaits its tag. -/
def State.stillPending (s : State) (d loc : Nat) : Bool :=
  (List.range 6).any fun p => (s.port d p).recv.any fun f => f.note.landed && locDram d (f.addr.toNat / 64 * 64) == loc
/-- PEND of a verified or failed write's granule ends; a failure poisons it (R418). -/
def State.endPend (s : State) (d : Nat) (f : Flit) (bad : Bool) : State :=
  let loc := locDram d (f.addr.toNat / 64 * 64)
  let u := s.unit loc
  s.setUnit loc { u with pend := s.stillPending d loc, poison := u.poison || bad }

/-! ### What a verified flit does -/

/-- An answer to a request. -/
def State.answer (s : State) (d : Nat) (f : Flit) (kind : Nat) (payload : Line) (poison : Bool) : State :=
  let g := { s.newFlit d f.src kind (BitVec.allOnes 64) f.gen f.ctxid.toNat f.addr.toNat payload
               { FlitNote.none with fid := f.note.fid, op := f.note.op, poison := poison } with src := f.dst }
  s.sendFlit d g

/-- The access of this package that an answer is for: the one its request named, or the oldest that waits at its address. -/
def State.answered (s : State) (d : Nat) (f : Flit) : Option Flight :=
  match f.note.fid with
  | some n => s.flight? n
  | none => s.flights.find? fun g => dieOfCore g.core == d && g.sent.isSome && g.pieces.any fun p =>
      !p.done && isFabric p.loc && decide ((p.loc - locFabric 0) / 64 = (f.src.toNat * 2 ^ 46 + f.addr.toNat) / 64)

/-- The parts of an access that lie in the line of an answer. -/
def inLine (f : Flit) (p : Piece) : Bool := isFabric p.loc && decide ((p.loc - locFabric 0) % 2 ^ 46 / 64 = f.addr.toNat / 64)

/-- The bytes an answer brings: a line for a read, the old value for an atomic. -/
def answerBytes (f : Flit) (g : Flight) (p : Piece) : List Byte :=
  match g.op with
  | .atom .. | .cas .. => bytesOfWord p.len f.payload.toNat
  | _ => ((bytesOfWord 64 f.payload.toNat).drop (p.loc % 64)).take p.len

/-- Bytes put into a list at an offset. -/
def patchBytes (l : List Byte) (off : Nat) (bs : List Byte) : List Byte :=
  l.take off ++ bs ++ l.drop (off + bs.length)

/-- A response reaches its access. -/
def Flight.respond (g : Flight) (f : Flit) : Flight :=
  let hit := g.pieces.filter fun p => inLine f p && !p.done
  { g with pieces := g.pieces.map fun p => if inLine f p then { p with done := true } else p,
           data := hit.foldl (fun l p => patchBytes l p.off (answerBytes f g p)) g.data,
           failed := if f.note.poison then some (g.failed.getD cPOISON) else g.failed }

/-- The lines of a posted write that an acknowledgement covers have performed. -/
def Flight.acknowledge (g : Flight) (f : Flit) : Flight :=
  { g with pieces := g.pieces.map fun p => if inLine f p then { p with done := true } else p }

/-- 256 bytes join a receive queue with the generation they carry (R202); a gang that is parked or evicted keeps its queue with
its context. -/
def State.enqueue (s : State) (x core ch : Nat) (e : Reg 2048) : State :=
  let f (k : Core) : Core := k.modRq ch fun r => { r with entries := r.entries ++ [e] }
  if s.keptCore x core then s.modKept x core f else s.modCore core f

/-- An earlier `w.snd` of the core on the channel is still on its way (R202). -/
def State.sendAhead (s : State) (f : Flight) : Bool :=
  s.flights.any fun e => e.core == f.core && decide (e.id < f.id) &&
    (match e.op, f.op with
     | .send _ a, .send _ b => a == b
     | _, _ => false)

/-- A quarter of a `w.snd` arrives; with the last the entry is delivered (R202). -/
def State.sendArrives (s : State) (f : Flit) : State :=
  match f.note.fid.bind s.flight?, f.note.op with
  | some g, some (.send target ch) =>
    if f.addr.toNat = 3 then
      (s.enqueue g.ctx target ch (Reg.of (BitVec.ofNat 2048 (wordOfBytes g.data)) f.gen)).dropFlight g.id
    else s
  | _, _ => s

/-- TBASE slews towards a received count (R421). -/
def State.slewTo (s : State) (d p count : Nat) : State :=
  let w := s.dctl d 0xB310
  if w.getLsbD 7 || fieldOf w 4 3 ≠ p then s
  else
    s.modDie d fun y =>
      { y with tbAdj := y.tbAdj + y.slewed s.ticks + y.drifted s.ticks, freeAt := y.freeAt.map fun _ => s.ticks, slew := ((count + (s.port d p).delay : Nat) : Int) - (s.tbase d : Int), slewAt := s.ticks }

/-- Bytes of an atomic at its destination, and the value it returns. -/
def State.farAtomic (s : State) (d : Nat) (f : Flit) (a : Acc) (op : FlightOp) : State × Nat :=
  let loc := locDram d f.addr.toNat
  match op with
  | .atom aop ty v _ =>
    let n := atomBytes ty
    let m := wordOfBytes (s.readBytes a loc n)
    (s.writeBytes a loc (bytesOfWord n (atomFn aop f.note.level (8 * n) m (v.toNat % 2 ^ (8 * n)))), m)
  | .cas ty c v =>
    let n := atomBytes ty
    let m := wordOfBytes (s.readBytes a loc n)
    (if m = c.toNat % 2 ^ (8 * n) then s.writeBytes a loc (bytesOfWord n v.toNat) else s, m)
  | .redv aop _ _ =>
    ((List.range 16).foldl (fun s e =>
      let l := locDram d (f.addr.toNat / 64 * 64 + 4 * e)
      let m := wordOfBytes (s.readBytes a l 4)
      s.writeBytes a l (bytesOfWord 4 (atomFn aop f.note.level 32 m (f.payload.toNat / 2 ^ (32 * e) % 2 ^ 32)))) s, 0)
  | _ => (s, 0)

/-- A verified flit at its destination (R418), other than a write, which has landed already. -/
def State.applyFlit (s : State) (d p : Nat) (f : Flit) : State :=
  match f.kind.toNat with
  | 1 =>
    match s.admitted d f false with
    | .error r => s.refuseFlit d f r
    | .ok a =>
      let loc := locDram d (f.addr.toNat / 64 * 64)
      s.answer d f 2 (BitVec.ofNat 512 (wordOfBytes (s.readBytes a loc 64))) (s.readsPoison a loc 64)
  | 3 =>
    match s.admitted d f true, f.note.op with
    | .error r, _ => s.refuseFlit d f r
    | .ok a, some op =>
      let bad := s.readsPoison a (locDram d f.addr.toNat) 1
      let (t, m) := s.farAtomic d f a op
      if bad then s.answer d f 2 0 true else (t.snoopLines (locDram d f.addr.toNat) 8).answer d f 2 (BitVec.ofNat 512 m) false
    | .ok _, none => s
  | 4 =>
    match s.admitted d f true, f.note.op with
    | .error r, _ => s.refuseFlit d f r
    | .ok a, some op =>
      let s := if s.readsPoison a (locDram d f.addr.toNat) 1 then s else (s.farAtomic d f a op).1
      (s.snoopLines (locDram d (f.addr.toNat / 64 * 64)) 64).answer d f 5 0 false
    | .ok _, none => s
  | 2 =>
    match s.answered d f with
    | some g => s.modFlight g.id fun g => g.respond f
    | none => s
  | 5 =>
    match s.answered d f with
    | some g => s.modFlight g.id fun g => g.acknowledge f
    | none => s
  | 6 => s.noteRefusal d f (if f.note.reason = 0 then f.payload.toNat % 16 else f.note.reason)
  | 7 => s.sendArrives f
  | 8 => if f.note.told then s else s.modDie d fun y => { y with claimIn := y.claimIn ++ [{ src := f.src, payload := f.payload }] }
  | 9 => s.slewTo d p (f.payload.toNat % 2 ^ 64)
  | _ => s

/-- A flit whose granule is pending waits at the memory controller (R402), and the last quarter of a `w.snd` for those that its core sent
earlier on the channel (R202). -/
def State.flitWaits (s : State) (d : Nat) (f : Flit) : Bool :=
  (f.kind == 7 && f.addr.toNat == 3 && (f.note.fid.bind s.flight?).elim false s.sendAhead) ||
  (f.kind == 0 || f.kind == 1 || f.kind == 3 || f.kind == 4) && s.meetsPend (locDram d (f.addr.toNat / 64 * 64)) 64

/-- A request that a die admits meets the uncorrectable errors of the line it names (R402). -/
def State.farErrors (s : State) (d : Nat) (f : Flit) : State :=
  let asks := f.kind == 0 || f.kind == 1 || f.kind == 3 || f.kind == 4
  if asks && (match s.admitted d f (f.kind != 1) with
      | .ok _ => true
      | .error _ => false) then s.meetErrors f.gen (locDram d (f.addr.toNat / 64 * 64)) 64
  else s

/-- A write flit lands as it arrives, and its acknowledgement follows the tag (R201, R418); one whose granule is pending already
waits until that granule is verified (R402). -/
def State.arriveWrite (s : State) (d : Nat) (f : Flit) : State × Flit :=
  match s.admitted d f true with
  | .error _ => (s, f)
  | .ok a =>
    let s := s.farErrors d f
    if s.meetsPend (locDram d (f.addr.toNat / 64 * 64)) 64 then (s, f)
    else (s.landWrite d f a, { f with note := { f.note with landed := true } })

/-- A flit of a verified group, or of the die itself: it goes on, or takes effect here. -/
def State.flitThrough (s : State) (d p : Nat) (f : Flit) : State :=
  if f.kind = 9 then s.applyFlit d p f
  else
    match s.route d f with
    | .here =>
      let s := if f.note.landed then s else s.farErrors d f
      if f.kind = 0 then
        if f.note.landed then (s.endPend d f false).answer d f 5 0 false
        else
          match s.admitted d f true with
          | .error r => s.refuseFlit d f r
          | .ok a =>
            if s.flitWaits d f then s.modPort d 6 fun y => { y with recv := y.recv ++ [f] }
            else ((s.landWrite d f a).endPend d f false).answer d f 5 0 false
      else if s.flitWaits d f then s.modPort d 6 fun y => { y with recv := y.recv ++ [f] }
      else s.applyFlit d p f
    | _ => s.sendFlit d f

/-! ### Containment (R419) -/

/-- The flits of a failed group: pending granules are poisoned, held flits go, and every request is refused with reason 7. -/
def State.failFlits (s : State) (d : Nat) (l : List Flit) : State :=
  l.foldl (fun s f => (if f.note.landed then s.endPend d f true else s).refuseFlit d f 7) s

/-- One end of a contained link. -/
def State.containEnd (s : State) (d p : Nat) : State :=
  let x := s.port d p
  let s := s.modPort d p fun x =>
    { x with phase := .contained, cur := none, nxt := none, sendq := [], wire := [], recv := [], open_ := 0,
             kexh := x.kexh || decide (x.count.toNat = lastCount) }
  let s := s.failFlits d (x.recv ++ x.wire)
  let s := x.sendq.foldl (fun s f => s.refuseFlit d f 6) s
  s.postPf (BitVec.ofNat 64 (d * 2 ^ 4 + p + x.stest * 2 ^ 8)) 0xE002 0

/-- A port in service is Contained, with the other end of its link (R414, R419). -/
def State.contain (s : State) (d p : Nat) : State :=
  let on (x : Port) : Bool := x.phase == .up || x.phase == .held
  if !on (s.port d p) then s
  else
    s.withEdges (linkDies d p) fun s =>
      let s := s.containEnd d p
      match peerOf d p with
      | some (e, r) => if on (s.port e r) then s.containEnd e r else s
      | none => s

/-- LINK_SELFTEST_END: 1 transient, 2 lasting (R414, R419). -/
def State.linkSelftest (s : State) (d p result : Nat) : State :=
  if (s.port d p).phase ≠ .contained ∨ result = 0 ∨ 2 < result then s
  else s.modPort d p fun x => { x with phase := .down, stest := result }

/-! ### Receiving (R412, R418) -/

/-- The die whose station put a flit on the ring: its source, or for one from another package the die before (R412; log entry 23). -/
def State.ringSender (s : State) (d e : Nat) (f : Flit) : Nat := ((s.dieOfFab f.src).filter (· ≠ d)).getD e

/-- A flit refused for want of a buffer circulates once more, and then returns to its sender's queue, ahead of flits not yet sent
(R412). -/
def State.bufferRetry (s : State) (d p : Nat) (f : Flit) : State :=
  let g := { f with note := { f.note with tries := f.note.tries + 1 } }
  if f.note.tries % 2 = 0 then s.modPort d p fun y => { y with wire := y.wire ++ [g] }
  else
    match peerOf d p with
    | some (e, r) => s.modPort (s.ringSender d e f) r fun y => { y with sendq := g :: y.sendq }
    | none => s.out (.flit d p g)

/-- The operation an outside request asks for, in the code that the event brings (log entry 23). -/
def opOfCode (n : Nat) (payload : Line) : FlightOp :=
  let v := lineWord payload 0
  let ty := n / 16 % 4
  if n / 64 % 2 = 1 then .cas ty v (lineWord payload 1)
  else if n / 128 % 2 = 1 then .redv (aopOf (n % 16)) ty 0
  else .atom (aopOf (n % 16)) ty v true

/-- A flit that has come over a link joins the group under way: a write lands (R418). -/
def State.flitIn (s : State) (d p : Nat) (f : Flit) : State :=
  let (s, f) := if f.kind = 0 ∧ s.route d f = .here then s.arriveWrite d f else (s, f)
  s.modPort d p fun y => { y with recv := y.recv ++ [f] }

/-- FLIT_RECEIVE at a port: the next flit of the peer, or one from outside with the operation it asks for; `busy` says that no
buffer is free. Port 6 is the die's own queue. -/
def State.flitReceive (s : State) (d p : Nat) (ext : Option (BitVec 704 × Nat)) (busy : Bool) : State :=
  let x := s.port d p
  if p = 6 then
    match x.recv with
    | f :: r => (s.modPort d 6 fun y => { y with recv := r }).flitThrough d 6 f
    | [] => s
  else if !s.portPresent d p || !(x.phase == .up || x.phase == .held) then s
  else
    match peerOf d p, ext with
    | some _, _ =>
      match x.wire with
      | f :: r =>
        let s := s.modPort d p fun y => { y with wire := r }
        if busy && (f.kind.toNat < 7) then s.bufferRetry d p f else s.flitIn d p f
      | [] => s
    | none, some (bits, code) =>
      let f := flitOf bits
      let f := if f.kind = 3 ∨ f.kind = 4 then { f with note := { f.note with op := some (opOfCode code f.payload), level := max 1 (code / 256 % 4) } } else f
      if busy && (f.kind.toNat < 7) then s.bufferRetry d p f else s.flitIn d p f
    | none, none => s

/-- A header that fails its group (R410). -/
def badHeader (f : Flit) : Bool := decide (10 < f.kind.toNat) || f.rsv != 0

/-- The port has the key of a group: the current one, or the next one once the EPOCH bit toggles (R417). -/
def Port.hasKey (x : Port) (f : Flit) : Bool := if f.epoch = x.epoch.extractLsb' 0 1 then x.cur.isSome else x.nxt.isSome

/-- A group under the next key promotes it, once the port's own open group has its tag (R417). -/
def State.promote (s : State) (d p : Nat) (f : Flit) : State :=
  if f.epoch = (s.port d p).epoch.extractLsb' 0 1 then s
  else
    let s := if 0 < (s.port d p).open_ then s.emitTag d p else s
    s.withEdges [d] fun s => s.modPort d p fun x => { x.switch with phase := if x.phase = .held then .up else x.phase }

/-- TAG_GROUP_VERIFY at a port (R418): `ok` is the outcome of the tag check, where the headers and the keys allow one. -/
def State.tagVerify (s : State) (d p : Nat) (ok : Bool) : State :=
  let x := s.port d p
  let group := x.recv.takeWhile fun f => f.kind != 10
  match x.recv.drop group.length with
  | [] => s
  | tag :: rest =>
    let s := s.modPort d p fun y => { y with recv := rest }
    if ok && !(group.any badHeader) && !badHeader tag && x.hasKey tag then
      group.foldl (fun s f => s.flitThrough d p f) (s.promote d p tag)
    else
      let s := s.modPort d p fun y => { y with ifail := min 0xFFFF (y.ifail + 1) }
      (s.failFlits d group).contain d p

/-! ### Refusals at the sender (R413) -/

/-- Fields of a refused flit as the sender sees them: its fabric address, its kind and its group handle. -/
def refusedParts (f : Flit) : Nat × Nat × BitVec 16 :=
  if f.kind = 6 then
    let w := f.payload.toNat
    (w / 2 ^ 64 % 2 ^ 18 * 2 ^ 46 + w / 2 ^ 8 % 2 ^ 46, w / 2 ^ 4 % 16, BitVec.ofNat 16 (w / 2 ^ 128))
  else (f.dst.toNat * 2 ^ 46 + f.addr.toNat, f.kind.toNat, f.payload.extractLsb' 256 16)

/-- LFAULT of the sending context (R413). -/
def State.writeLfault (s : State) (x fab kind reason : Nat) : State :=
  s.modCtx x fun c => c.setCtl 0x358 (BitVec.ofNat 64 (fab / 2 ^ 16 % 2 ^ 48 * 2 ^ 16 + kind % 16 * 2 ^ 4 + reason % 16))

/-- OUT of a window falls by 1 (R201). -/
def State.outDown (s : State) (x w : Nat) : State := s.modCtx x fun c => { c with outs := SMap.modify 0 c.outs w (· - 1) }

/-- The sequencer that sent an access: the one that runs its context on its core, or else that of the gang of the context's placement which
holds the core, where the context is parked or another context has the core meanwhile (R413). -/
def State.seqOfFlight (s : State) (f : Flight) : Nat :=
  match (s.seqOfCore f.core).filter fun q => (s.seq q).ctx == some f.ctx with
  | some q => q
  | none =>
    ((s.ctx? f.ctx).bind fun c =>
      c.gangs.find? fun g => creelOfSeq g.seq == creelOfCore f.core && g.mask.getLsbD (f.core % 16)).elim
      (creelOfCore f.core * 4) GangPlace.seq

/-- A refused access at its sender (R413). -/
def State.refuseFlight (s : State) (f : Flight) (fab kind reason : Nat) : State :=
  let s := s.writeLfault f.ctx fab kind reason
  match f.op with
  | .send _ _ => (s.groupFault f.ctx).dropFlight f.id
  | _ =>
    match f.window with
    | some w =>
      if f.acked then
        s.modFlight f.id fun g => { g with pieces := g.pieces.map fun p => { p with done := true }, data := g.data.map fun _ => 0, failed := some cLINKFLT }
      else ((s.dropFlight f.id).outDown f.ctx w).causeTo (s.seqOfFlight f) f.ctx cLINKFLT
    | none => s

/-- LIMIT of LWDOG in ticks (R420). -/
def State.lwdog (s : State) (d : Nat) : Nat := 1024 * max 1 (fieldOf (s.dctl d 0xB308) 0 32)

/-- A time that lies more than LWDOG back. -/
def State.overdue (s : State) (d : Nat) (t : Option Nat) : Bool := t.elim false fun t => decide (t + s.lwdog d ≤ s.ticks)

/-- REFUSAL_RECEIVE on a die: the oldest refusal that has come, or that the die produces itself (R413). -/
def State.refusalReceive (s : State) (d : Nat) : State :=
  match (s.die d).refused.find? fun e => !e.1.note.lost || s.overdue d e.1.note.since with
  | none => s
  | some (f, reason) =>
    let s := s.modDie d fun y => { y with refused := y.refused.erase (f, reason) }
    let (fab, kind, gid) := refusedParts f
    if kind = 8 then
      match s.groupOfMsg d gid with
      | some gi => s.breakGroup d gi true
      | none => s
    else
      match f.note.fid with
      | some n => (s.flight? n).elim s fun g => s.refuseFlight g fab kind reason
      | none => s.writeLfault f.ctxid.toNat fab kind reason

/-! ### POSTED_WRITE_ACK (R201) -/

/-- Every line of a posted write has been acknowledged: OUT of its window falls, and the write has performed everywhere. -/
def State.postedAck (s : State) (n : Nat) : State :=
  match s.flight? n with
  | some f =>
    match f.window with
    | some w => if f.allDone && !f.acked && f.sent.isSome then (s.dropFlight n).outDown f.ctx w else s
    | none => s
  | none => s

/-! ### LINK_WATCHDOG_EXPIRE (R411, R412, R413, R420) -/

/-- A sequencer stands at a bundle whose `w.snd` finds no credit (R202). -/
def State.creditStall (s : State) (q : Nat) : Bool :=
  (s.seq q).phase == .run &&
  (match s.fetchBundle q with
   | .ok w =>
     match decodeBundle w with
     | .ok b => b.ops.any fun o => match o with
       | .wSnd x => (s.gang q).any fun c => s.guarded q c x.grd && (s.lch q x.ch.toNat).getLsbD 63 && ((s.core c).rq x.ch.toNat).credits == 0
       | _ => false
     | .error _ => false
   | _ => false)

/-- A send-credit stall of a sequencer has lasted LWDOG (R202, R420). -/
def State.creditLate (s : State) (q : Nat) : Bool :=
  let y := s.seq q
  s.creditStall q && s.overdue (dieOfSeq q) ((y.creditAt.filter fun e => e.1 == y.issued).map Prod.snd)

/-- The watchdog of a die expires: 0 a send-credit stall of sequencer n; 1 a flit that waits at port n and has not been accepted; 2 a flit that the next
hop of port n has not acknowledged; 3 access n, to which no answer can come. -/
def State.watchdog (s : State) (kind d n : Nat) : State :=
  match kind with
  | 0 => if dieOfSeq n = d && s.creditLate n then (s.seq n).ctx.elim s s.groupFault else s
  | 1 =>
    let late (f : Flit) : Bool := decide (0 < f.note.tries) && s.overdue d f.note.since
    match (s.port d n).sendq.find? late, (s.port d n).wire.find? late with
    | some f, _ => (s.modPort d n fun x => { x with sendq := x.sendq.erase f }).refuseFlit d f 1
    | none, some f => (s.modPort d n fun x => { x with wire := x.wire.erase f }).refuseFlit d f 1
    | none, none => s
  | 2 =>
    let late : Bool := match peerOf d n with
      | some (e, r) => (s.port e r).wire.any fun f => f.note.tries == 0 && s.overdue d f.note.since
      | none => decide (2 ≤ n) && s.portPresent d n && (s.port d n).phase == .up
    if late then ((s.modPort d n fun x => { x with wdog := true }).contain d n) else s
  | _ =>
    match s.flight? n with
    | some f =>
      let left := f.pieces.find? fun p => !p.done && isFabric p.loc
      if dieOfCore f.core = d && s.overdue d f.sent && (left.isSome || !(s.flitsOf f).isEmpty) then
        s.refuseFlight f (left.elim 0 fun p => p.loc - locFabric 0) f.op.flitKind 6
      else s
    | none => s

end Sys2Proof.Machine
end

