-- ==== Sys2Proof/Machine/Platform.lean ====
section
/-! DEFINITION. Resets, boot, recovery, the life cycle, fences and throttling (R464 to R475). -/

namespace Sys2Proof.Machine

/-! ### Resets (R464) -/

/-- A location of a die: its DRAM, L2 and scratchpads, and the recovery staging of the die. -/
def ofDie (d loc : Nat) : Bool :=
  onDie d loc || decide (locStage d 0 ≤ loc ∧ loc < locStage (d + 1) 0) || decide (locArea d 0 ≤ loc ∧ loc < locArea (d + 1) 0)

/-- The recorded core retirements of a die applied again, as its boot does (R353, R465). -/
def State.applySpares (s : State) (d : Nat) : State :=
  (upFrom (d * 10) 10).foldl (fun s creel =>
    let w := SMap.get 0 s.spareRec creel
    if w = 0 then s else s.setDctl d (spareOff creel) w) s

/-- The phase of a die after its reset: it boots, but a fenced die stays fenced until its self-test ends, or for good (R36, R464). -/
def DiePhase.afterReset : DiePhase → DiePhase
  | .fenced lasting => .fenced lasting
  | _ => .boot

/-- A context whose control page lies in DRAM that is wiped: its registers read zero (R5, R255, R464). -/
def Ctx.pageWiped (c : Ctx) (d : Nat) : Ctx := if dramDie c.pageLoc = d then { c with cctl := [] } else c

/-- One port of the die is joined to the pod (R464). -/
def State.joined (s : State) (d : Nat) : Bool := (List.range 6).any fun p => s.portPresent d p && (s.port d p).phase == .up

/-- A port at a die reset of either end of its link: Down, both keys destroyed (R414). -/
def Port.dropped (x : Port) : Port :=
  { x with phase := .down, cmd := 0, epoch := 0, count := 0, staged := 0, cur := none, nxt := none, sendq := [], open_ := 0,
           wire := [], recv := [] }

/-- The other end of a link whose die is reset: flits that had not been verified fail, and waiting ones are refused. -/
def State.dropPeer (s : State) (d p : Nat) : State :=
  match peerOf d p with
  | none => s
  | some (e, r) =>
    let x := s.port e r
    let s := s.modPort e r Port.dropped
    x.sendq.foldl (fun s f => s.refuseFlit e f 6) (s.failFlits e (x.recv ++ x.wire))

/-- A stream that its die's reset ends: its group is Faulted, and its gang is gone from it (R343, R348). -/
def State.dropStream (s : State) (q : Nat) : State :=
  let y := s.seq q
  let s := s.setSeq q { Seq.reset with cyc := y.cyc, rot := y.rot }
  match y.ctx with
  | none => s
  | some x =>
    let s := s.groupFault x
    if y.parent.isSome then s
    else s.modCtx x fun c => if c.retired.contains y.gidx then c else { c with retired := c.retired ++ [y.gidx] }

/-- A queue whose registers lie in the control page of a die that is reset: it is Unbound, and a context is without it. -/
def State.dropQueues (s : State) (d : Nat) : State :=
  let mine := (s.queues.filter fun e => e.2.die == d && e.2.phase != .unbound).map Prod.fst
  let s := { s with queues := SMap.mapVals .reset (fun n y => if mine.contains n then .reset else y) s.queues }
  { s with ctxs := SMap.mapVals none (fun _ (c : Option Ctx) => c.map fun c =>
      if c.queue.elim false mine.contains then { c with queue := none } else c) s.ctxs }

/-- DIE_RESET (R464): the die, its DRAM and its link keys are wiped; the time base is kept if a port stays joined to the pod. -/
def State.dieReset (s : State) (d : Nat) : State :=
  if 8 ≤ d then s
  else
    let y := s.die d
    let kept := s.joined d
    let s := s.withEdges (linkDies d 0 ++ linkDies d 1) fun s => (s.dropPeer d 0).dropPeer d 1
    let s := (upFrom (d * 40) 40).foldl State.dropStream s
    let s := { s with
      cores := SMap.mapVals .reset (fun c k => if dieOfCore c = d then .reset else k) s.cores,
      flights := s.flights.filter fun f => dieOfCore f.core ≠ d,
      mem := SMap.keep (fun a => !ofDie d a) s.mem, metas := SMap.keep (fun a => !ofDie d a) s.metas,
      full := SMap.keep (fun a => !ofDie d a) s.full, l2 := SMap.keep (fun a => !ofDie d a) s.l2,
      carder := { s.carder with todo := s.carder.todo.filter (· ≠ d) } }
    let now : Die := { Die.reset with phase := y.phase.afterReset, freeAt := some s.ticks, drift := y.drift }
    let now := if kept then { now with tbAdj := y.tbAdj + y.drifted s.ticks, slew := y.slew, slewAt := y.slewAt }
      else { now with tbAdj := -(s.ticks : Int), slewAt := s.ticks }
    let s := (s.setDie d now).dropQueues d
    let s := { s with ctxs := SMap.mapVals none (fun _ (c : Option Ctx) => c.map fun (y : Ctx) => y.pageWiped d) s.ctxs }
    let s := { s with maints := s.maints.filter fun (m : Maint) => m.die ≠ d }
    s.maints.foldl (fun s m => s.maintDone m.id d) s

/-- A write of DRST (R464). -/
def State.writeDrst (s : State) (v : Word) : State :=
  allDies.foldl (fun s d => if v.getLsbD d then s.dieReset d else s) s

/-- PACKAGE_RESET (R464): everything but the fuses, the flash slot and host memory is as after reset, and every die boots. -/
def State.packageReset (s : State) : State :=
  let dies : SMap Die := allDies.foldl (fun m d =>
    SMap.set .reset m d { Die.reset with
      phase := .boot, tbAdj := -(s.ticks : Int), slewAt := s.ticks, freeAt := some s.ticks, drift := (s.die d).drift }) []
  { State.reset with
    time := s.time, agenda := s.agenda, focus := s.focus, free := s.free + 1, outside := s.outside, nextId := s.nextId,
    mem := SMap.keep (fun a => decide (2 ^ 64 ≤ a ∧ a < 2 ^ 67)) s.mem, dies := dies, fuses := s.fuses, spareRec := s.spareRec }

/-! ### Boot and recovery (R465 to R467) -/

/-- A firmware image is accepted (R466). -/
def State.firmwareOk (s : State) (rd : ImgRead) : Bool :=
  rd.headerOk && rd.sectionsOk && rd.isSystem && rd.isSigned && s.signed rd (fun p => p == 0) &&
  decide (rd.svn ≤ 255 ∧ s.fuses.fwctr ≤ rd.svn)

/-- The image in the flash slot. -/
def State.flash (s : State) : ImgRead := fun a => s.rawByte (locFlash a)

/-- FWCTR rises once every die that is not fenced has booted an image of a greater SVN (R466). -/
def State.raiseFwctr (s : State) (svn : Nat) : State :=
  if s.fuses.fwctr < svn ∧ (allDies.all fun d => s.dieFenced d || (s.present d && (s.die d).svn == svn)) then
    { s with fuses := { s.fuses with fwctr := svn } }
  else s

/-- The key that the firmware of a die installs at a port before it trains it: R465 names none, and it is a free value (log entry 45). -/
def State.bootKey (s : State) : BitVec 256 :=
  BitVec.ofNat 256 ((List.range 4).foldl (fun n i => n * 2 ^ 64 + (Config.freeWord (s.free + i)).toNat) 0)

/-- The firmware of a die trains a port: a port without a next key gets one first (R414, R465 item 4). -/
def State.bootTrain (s : State) (d p : Nat) : State :=
  let s := if (s.port d p).nxt.isSome then s
    else { (s.modPort d p fun x => { x with nxt := some s.bootKey }) with free := s.free + 4 }
  (s.writeLctl d p 1).linkTrain d p

/-- A die starts an accepted image: it trains its package-ring ports and is in service (R465 items 4 and 5). -/
def State.startFirmware (s : State) (d svn : Nat) : State :=
  let s := { (s.modDie d fun y => { y with phase := .run, svn := svn }) with svn := svn }
  ([0, 1].foldl (fun s p => s.bootTrain d p) s).raiseFwctr svn

/-- DIE_BOOT (R465): `ok` says that no self-test step failed. A failed step ends the boot in Recovery. -/
def State.dieBoot (s : State) (d : Nat) (ok : Bool) : State :=
  if (s.die d).phase ≠ .boot ∨ 8 ≤ d then s
  else
    let s := s.applySpares d
    if ok && s.firmwareOk s.flash then s.startFirmware d s.flash.svn
    else s.modDie d fun y => { y with phase := .recovery }

/-- Bytes of a piece (R467). -/
def pieceBytes : Nat := 65536

/-- The image in the staging area of a die, of some pieces. -/
def State.staged (s : State) (d pieces : Nat) : ImgRead := fun a => if a < pieceBytes * pieces then s.rawByte (locArea d a) else 0

/-- A piece is copied from the recovery window into the staging area (R467). -/
def State.recoveryPiece (s : State) (d : Nat) (v : Word) : State :=
  if (s.die d).phase ≠ .recovery ∨ v.getLsbD 63 then s
  else
    let i := fieldOf v 0 16
    let s := s.setDctl d 0x40 (setField (s.dctl d 0x40) 0 16 i)
    if 16383 < i then s else s.putRaw (locArea d (pieceBytes * i)) (s.raw (locStage d 0) pieceBytes)

/-- The end of an image: it is verified, and an accepted one goes to the flash slot and starts (R467). -/
def State.recoveryEnd (s : State) (d : Nat) (v : Word) : State :=
  if (s.die d).phase ≠ .recovery ∨ !v.getLsbD 63 then s
  else
    let n := fieldOf v 0 16
    let rd := s.staged d n
    let ok := decide (1 ≤ n ∧ n ≤ 16384 ∧ rd.imglen ≤ pieceBytes * n) && s.firmwareOk rd
    let s := s.setDctl d 0x40 (setField (setField (s.dctl d 0x40) 0 16 n) 17 1 (bit (!ok)))
    if ok then (s.putRaw (locFlash 0) (rd.bytes 0 rd.imglen)).startFirmware d rd.svn else s

/-- A write of RCVPIECE: END is the image's end, and a byte of INDEX a piece (R467, R476); outside Recovery it is ignored. -/
def State.writeRcvpiece (s : State) (d : Nat) (v : Word) (index : Bool) : State :=
  if v.getLsbD 63 then s.recoveryEnd d v else if index then s.recoveryPiece d v else s

/-! ### Life cycle (R468) -/

def State.lcBytes (s : State) (off n : Nat) : List Byte := s.raw (locLcblk off) n
def State.lcNum (s : State) (off n : Nat) : Nat := wordOfBytes (s.lcBytes off n)
def State.lcZero (s : State) (off n : Nat) : Bool := (s.lcBytes off n).all (· == 0)

/-- The command block is well formed. -/
def State.lcFormed (s : State) : Bool :=
  let cmd := s.lcNum 0 2
  let record (i : Nat) : Bool :=
    let o := 0x40 + 1992 * i
    decide (1 ≤ s.lcNum o 1 ∧ s.lcNum o 1 ≤ 3) && s.lcZero (o + 1) 7
  decide (1 ≤ cmd ∧ cmd ≤ 3) && s.lcZero 4 4 && s.lcZero 0x10 48 && s.lcZero 0x3E80 384 && s.lcZero 0x4D2D 13011 &&
  (if cmd = 1 then (List.range 8).all record else s.lcZero 0x40 15936)

/-- The keys that sign a command: the manufacturing pair, or those of a firmware slot. -/
def State.lcKey (s : State) : Option Nat :=
  if s.lcNum 0 2 = 1 then some Config.romKey
  else (s.keySlot (s.lcNum 2 2)).bind fun k => if k.purpose = 0 then some k.key else none

/-- Both signatures of the command block verify. -/
def State.lcSigned (s : State) : Bool :=
  let dg := bytesOfWord 48 (Config.digest (s.lcBytes 0 0x4000))
  s.lcKey.elim false fun k => Config.sigVerify k (s.lcBytes 0x4000 64) dg && Config.sigVerify k (s.lcBytes 0x4040 3309) dg

/-- RESULT of the command in the block (R468). -/
def State.lcCode (s : State) : Nat :=
  if !s.lcFormed then 5
  else if s.fuses.lcs + 1 ≠ s.lcNum 0 2 then 4
  else if BitVec.ofNat 64 (s.lcNum 8 8) ≠ Config.pkguid then 3
  else if !s.lcSigned then 2
  else 0

/-- The fuses after an accepted command. -/
def State.lcFuses (s : State) : Fuses :=
  let f := s.fuses
  match s.lcNum 0 2 with
  | 1 =>
    let slot (i : Nat) : KeySlot := { purpose := s.lcNum (0x40 + 1992 * i) 1 - 1, key := s.lcNum (0x40 + 1992 * i + 8) 1984 }
    { f with lcs := 1, slots := (List.range 8).foldl (fun m i => SMap.set none m i (some (slot i))) [] }
  | 2 => { f with lcs := 2 }
  | _ => { f with lcs := 3, slots := SMap.mapVals none (fun _ k => k.bind fun k => if k.purpose = 0 then some k else none) f.slots }

/-- A command of the block started through LCCMD: an accepted change is followed by a life-cycle reset (R464, R468). -/
def State.lifeCycle (s : State) : State :=
  let r := s.lcCode
  if r ≠ 0 then { s with lcResult := r } else ({ s with fuses := s.lcFuses } : State).packageReset

/-- PROVISION, DEPLOY and RETURN: the block holds that command. -/
def State.lcCommand (s : State) (cmd : Nat) : State := if s.lcNum 0 2 = cmd then s.lifeCycle else s

/-! ### Fences (R36, R469, R470) -/

/-- A context is on a die: a gang of its placement lies there, or its control page does. -/
def State.ctxOnDie (s : State) (x d : Nat) : Bool :=
  (s.ctx? x).elim false fun c => (c.gangs.any fun g => dieOfSeq g.seq == d) || dramDie c.pageLoc == d

/-- DIE_FENCE (R469): DIEMAP reads 0, the partitions with a context on the die are fenced, and its ports and its socket are
contained. The breach code that the socket then shows is not stated (log entry 9). -/
def State.dieFence (s : State) (d : Nat) : State :=
  if s.dieFenced d || decide (8 ≤ d) then s
  else
    let parts := ((s.ctxs.filter fun e => s.ctxOnDie e.1 d).map fun e => partOf e.1).eraseDups
    let s := (s.modDie d fun y => { y with phase := .fenced false }).postPf (BitVec.ofNat 64 d) 0xE006 0
    let s := parts.foldl State.partFence s
    let s := (s.guestFence d ((Config.freeWord s.free).toNat % 256) 0)
    (List.range 6).foldl (fun s p => s.contain d p) { s with free := s.free + 1 }

/-- CORE_PARITY_ERROR (R348, R469): the gang of a core is fenced. -/
def State.coreParity (s : State) (c : Nat) : State :=
  match allSeqs.find? fun q => (s.seq q).ctx.isSome && (s.allCores q).contains c with
  | some q => s.gangFence q
  | none => s

/-- FENCE_SELFTEST_END (R469, R354): of a die, or of the gang of a sequencer whose failing physical core, in a creel, is p. -/
def State.fenceSelftest (s : State) (die : Bool) (n : Nat) (lasting : Bool) (creel p : Nat) : State :=
  if die then
    match (s.die n).phase with
    | .fenced false => if lasting then s.modDie n fun y => { y with phase := .fenced true } else (s.modDie n fun y => { y with phase := .boot }).dieReset n
    | _ => s
  else if !(s.seq n).fenced then s
  else
    let s := s.modSeq n fun y => { y with fenced := false }
    let near := creel == creelOfSeq n || (s.paired n && creel == creelOfSeq n + 1)
    (if lasting && near && decide (p ≤ 16) then s.coreRetire creel p else s).rebind n

/-! ### Throttling (R471) -/

/-- THROTTLE_ENTER: the hottest sensor of a die reads t, 105 or more (R471). -/
def State.throttleEnter (s : State) (d : Nat) (t : BitVec 8) : State :=
  if t.toNat < 105 then s
  else
    let s := s.setDctl d 0x30 (setField (s.dctl d 0x30) 8 8 t.toNat)
    if (s.die d).throttled then s.modDie d fun y => { y with coolSince := some s.ticks }
    else (s.modDie d fun y => { y with throttled := true, coolSince := some s.ticks }).postPf 1 0xE007 0

/-- THROTTLE_EXIT: the hottest sensor has read t, below 95, for 1 ms (R471). -/
def State.throttleExit (s : State) (d : Nat) (t : BitVec 8) : State :=
  if !(s.die d).throttled || decide (95 ≤ t.toNat) || !((s.die d).coolSince.elim false fun k => decide (k + msTicks ≤ s.ticks)) then s
  else
    let s := s.setDctl d 0x30 (setField (s.dctl d 0x30) 8 8 t.toNat)
    (s.modDie d fun y => { y with throttled := false, coolSince := none, fastSince := some s.time }).postPf 0 0xE007 0

/-! ### Boundary scan (R474) -/

/-- BOUNDARY_SCAN_INSTRUCTION: 0 BYPASS, 1 IDCODE, 2 SAMPLE, 3 EXTEST. In Deployed an instruction other than the first two acts as
BYPASS. -/
def State.boundaryScan (s : State) (i : Nat) : State :=
  s.out (.scan (if 3 < i ∨ (s.fuses.lcs = 2 ∧ 1 < i) then 0 else i))

end Sys2Proof.Machine
end

