-- ==== Sys2Proof/Machine/PageWrite.lean ====
section
/-! DEFINITION. Writes of the register pages (R255, R305, R476): one function dispatches a write of a page to what the register
does. -/

namespace Sys2Proof.Machine

/-- A write to a register of a page as R476 completes it to 8 bytes: the bytes not written carry the current value for fields that
store (`v`), and zero for fields that act on ones (`ones`). `lo` and `n` are the bytes written. -/
structure RegWrite where
  v : Word
  ones : Word
  lo : Nat
  n : Nat
  deriving DecidableEq, Repr

/-- A write of n bytes at an offset of a register whose value is `cur`. -/
def RegWrite.of (cur : Word) (lo n : Nat) (data : Nat) : RegWrite :=
  let w := data % 2 ^ (8 * n)
  { v := setField cur (8 * lo) (8 * n) w, ones := BitVec.ofNat 64 (w * 2 ^ (8 * lo)), lo := lo, n := n }

/-- The write includes a byte of a field. -/
def RegWrite.has (w : RegWrite) (bit_ width : Nat) : Bool := decide (bit_ / 8 < w.lo + w.n ∧ w.lo ≤ (bit_ + width - 1) / 8)

/-- The fields of a register that a write stores: the bits of a mask. -/
def maskStore (mask v : Word) : Word := v &&& mask

/-! ### A die's control page -/

/-- An import word as it is stored; a size that is out of range leaves the entry unchanged (R403). -/
def State.writeImp (s : State) (d off : Nat) (v : Word) : State :=
  if off % 16 = 0 then
    if fieldOf v 52 6 < 16 ∨ 38 < fieldOf v 52 6 then s else s.setDctl d off (maskStore 0xC3F03FFFFFFF0000#64 v)
  else s.setDctl d off (maskStore 0xFFFFC00003FF03FF#64 v)

/-- A route entry; a port that does not exist leaves it unchanged (R409). -/
def State.writeRoute (s : State) (d off : Nat) (v : Word) : State :=
  let p := fieldOf v 0 4
  if (2 ≤ p ∧ p ≤ 5) ∨ p = 15 then s.setDctl d off (maskStore 0x8F#64 v) else s

/-- WHLMAP (R381): in effect from the next revolution. -/
def State.writeWhlmap (s : State) (d n : Nat) (v : Word) : State :=
  { s with whlNext := s.whlNext ++ [(n, maskStore 0x8000FFFF000001FF#64 v, s.tbase d / 4096 + 1)] }

/-- A register of a partition block (R248). -/
def State.writePartReg (s : State) (d p off : Nat) (w : RegWrite) : State :=
  match off with
  | 0x00 => s.writePcfg p w.v (w.has 0 1)
  | 0x08 => s.writePl2 d p w.v
  | 0x10 => s.setDctl d (partOff p off) (setField (s.pblock d p off) 32 16 (fieldOf w.v 32 16))
  | 0x18 => s.writeQuota d p off w.v
  | 0x20 => s.writeQuota d p off w.v
  | 0x28 => s.writeQuota d p off w.v
  | 0x30 => s.setDctl d (partOff p off) (maskStore 1#64 w.v)
  | _ => s

/-- A register of a port block (R415); a port that is absent ignores it (R407). -/
def State.writePortReg (s : State) (d p off : Nat) (w : RegWrite) : State :=
  if !s.portPresent d p then s
  else match off with
  | 0x00 => s.writeLstat d p w.ones
  | 0x08 => if w.has 0 2 then s.writeLctl d p w.v else s
  | 0x18 => s.modPort d p fun x => { x with lswt := w.v }
  | _ => if 0x20 ≤ off then s.writeLkey d p ((off - 0x20) / 8) w.ones else s

/-- A register of the socket block (R449). -/
def State.writeSockReg (s : State) (d off : Nat) (w : RegWrite) : State :=
  match off with
  | 0xF200 => if w.has 0 2 then s.writeGsctl d (fieldOf w.v 0 2) else s
  | 0xF208 => s.writeGsstat d w.ones
  | 0xF210 => s.writeGpre d (setField w.v 0 2 (fieldOf w.ones 0 2))
  | 0xF218 => s.setDctl d off (maskStore 0xFFFFFFFFFFFFF00F#64 w.v)
  | 0xF220 => s.setDctl d off (maskStore 0xFFFFFFFF#64 w.v)
  | _ => if 0xF240 ≤ off then s.setDctl d off (maskStore 0x800000000000003F#64 w.v) else s

/-- A register of a queue (R300). A write that holds no byte of CMD stores QCBA and starts nothing. -/
def State.writeQueueReg (s : State) (d n off : Nat) (w : RegWrite) : State :=
  match off with
  | 0x00 =>
    if w.has 0 4 then s.writeQctl d n w.v
    else s.modQueue n fun x => if x.phase ≠ .unbound ∧ x.die ≠ d then x else { x with qcba := setField w.v 0 7 0 }
  | 0x08 => s.writeQstat d n w.ones
  | _ => s

/-- KLCTL: a write that holds no byte of CMD stores PART (R315). -/
def State.writeLoadReg (s : State) (d : Nat) (w : RegWrite) : State :=
  if w.has 0 4 then s.writeKlctl d w.v else s.setDctl d 0x208 (setField (s.dctl d 0x208) 10 6 (fieldOf w.v 10 6))

/-- A write of a die's control page at an 8-byte aligned offset. -/
def State.dieWrite (s : State) (d off : Nat) (w : RegWrite) : State :=
  if off = 0 then s.setDctl d 0 (lineAddr w.v)
  else if off = 0x40 then s.writeRcvpiece d (setField w.v 63 1 (fieldOf w.ones 63 1)) (w.has 0 16)
  else if off = 0x100 then s.writeGpool w.v
  else if off = 0x200 then s.setDctl d off w.v
  else if off = 0x208 then s.writeLoadReg d w
  else if off = 0x300 ∨ off = 0x320 ∨ off = 0x328 then s.setDctl d off (maskStore 0xFFFFFFFFFFFF0000#64 w.v)
  else if off = 0x308 then
    if w.has 0 1 then s.writeTlbinvc d (setField w.v 0 1 (fieldOf w.ones 0 1)) else s.storeTlbinvc d w.v
  else if off = 0x318 then s.setDctl d off (maskStore 0x000FFFFFFFFF0000#64 w.v)
  else if off = 0x330 then s.writeMigctl d (setField w.v 0 1 (fieldOf w.ones 0 1))
  else if 0x400 ≤ off ∧ off < 0xC00 then s.writeImp d off w.v
  else if 0x4000 ≤ off ∧ off < 0x5000 then s.writePartReg d ((off - 0x4000) / 0x40) (off % 0x40) w
  else if 0x5000 ≤ off ∧ off < 0x5A00 then
    if off % 0x100 < 0x80 then s.writeCbind (coreAt (d * 10 + (off - 0x5000) / 0x100) (off % 0x100 / 8)) w.v else s
  else if 0x5A00 ≤ off ∧ off < 0x5A28 then if w.has 0 8 then s.writePair d ((off - 0x5A00) / 8) w.v true else s
  else if 0x6000 ≤ off ∧ off < 0x8000 then s.writeWhlmap d ((off - 0x6000) / 8) w.v
  else if 0xB000 ≤ off ∧ off < 0xB180 then s.writePortReg d ((off - 0xB000) / 0x40) (off % 0x40) w
  else if off = 0xB300 then
    if (List.range 6).all fun p => (s.port d p).phase == .down then s.setDctl d off (maskStore 0xFFFFC00000000000#64 w.v) else s
  else if off = 0xB308 then s.setDctl d off (maskStore 0xFFFFFFFF#64 w.v)
  else if off = 0xB310 then s.withEdges [d] fun s => s.setDctl d off (maskStore 0xF4#64 w.v)
  else if 0xC000 ≤ off ∧ off < 0xCC00 then s.writeRoute d off w.v
  else if 0xE000 ≤ off ∧ off < 0xF000 then s.writeClgrp d ((off - 0xE000) / 32) (off % 32 / 8) (w.has 63 1) w.v
  else if 0xF000 ≤ off ∧ off < 0xF080 then s.setDctl d off (maskStore 0xFFFFFFFF#64 w.v)
  else if off = 0xF080 then if w.has 0 12 then s.writeClsidx d w.v else s
  else if 0xF200 ≤ off ∧ off < 0xF2C0 then s.writeSockReg d off w
  else if 0x10000 ≤ off ∧ off < 0x18000 then s.writeQueueReg d ((off - 0x10000) / 0x20) (off % 0x20) w
  else if 0x30000 ≤ off ∧ off < 0x40000 then
    if (s.die d).phase = .recovery then s.putRaw (locStage d (off - 0x30000)) (bytesOf w.v) else s
  else s

/-! ### A context's control page -/

/-- A write of WINw, word i; a size out of range leaves the descriptor unchanged (R200). -/
def Ctx.writeWin (c : Ctx) (off : Nat) (v : Word) : Ctx :=
  if off % 16 = 0 then
    if fieldOf v 10 6 < 16 ∨ 46 < fieldOf v 10 6 then c else c.setCtl off (setField v 8 1 0)
  else c.setCtl off (maskStore 0xFFFFFFFFFFFF0000#64 v)

/-- A write of PREQ: REQ is set by writing 1, and LANDED cleared (R284). -/
def State.writePreq (s : State) (x : Nat) (ones : Word) : State :=
  s.modCtx x fun c =>
    let w := c.ctl 0x310
    c.setCtl 0x310 (setField (setField 0 1 1 (bit (w.getLsbD 1 && !ones.getLsbD 1))) 0 1 (bit (w.getLsbD 0 || ones.getLsbD 0)))

/-- L2TB: a DEPTH of 0 stores 1 (R271). -/
def l2tbStore (v : Word) : Word :=
  let v := maskStore 0xFFFF000FFF000000#64 v
  if fieldOf v 48 16 = 0 then setField v 48 16 1 else v

/-- L2TB written: a bucket keeps its tokens, up to the new DEPTH (R271). -/
def State.writeL2tb (s : State) (x : Nat) (v : Word) : State :=
  let old := (s.ctx? x).elim 1 fun c => l2Depth c.l2tb
  let new := l2Depth (l2tbStore v)
  let t := s.modCtx x fun c => c.setCtl 0x200 (l2tbStore v)
  if old = new then t
  else
    allDies.foldl (fun t d => t.modDie d fun y =>
      { y with l2Spent := (List.range 160).foldl (fun m i =>
          let k := i * 65536 + x
          SMap.set 0 m k (new - min new (old - SMap.get 0 m k))) y.l2Spent }) t

/-- GRPCTL: a write that holds no byte of CMD stores GANG (R338). -/
def State.writeGrpReg (s : State) (x : Nat) (w : RegWrite) : State :=
  if w.has 0 4 then s.writeGrpctl x w.v else s.modCtx x fun c => c.setCtl 0x348 (setField (c.ctl 0x348) 12 9 (fieldOf w.v 12 9))

/-- A write of a loaded context's control page at an 8-byte aligned offset. -/
def State.ctxPageWrite (s : State) (x off : Nat) (w : RegWrite) : State :=
  let store (mask : Word) : State := s.modCtx x fun c => c.setCtl off (maskStore mask w.v)
  if 0x100 ≤ off ∧ off < 0x200 then s.modCtx x fun c => c.writeWin off w.v
  else if off = 0x200 then s.writeL2tb x w.v
  else if 0x220 ≤ off ∧ off < 0x260 then store 0x000FFFFFFFFFF001#64
  else if off = 0x300 then store 0xFFFFFFFFFFFFFF00#64
  else if off = 0x308 then store 0xFFFFFFFFFFFF0000#64
  else if off = 0x310 then s.writePreq x w.ones
  else if off = 0x328 then store 0xFFFFFFFFFFFFF000#64
  else if off = 0x340 then store 0xFFFF0F0000000000#64
  else if off = 0x348 then s.writeGrpReg x w
  else if off = 0x350 then store 0x9F#64
  else if off = 0x360 then store (BitVec.allOnes 64)
  else if 0x380 ≤ off ∧ off < 0x400 then store 0x800000000000FFFF#64
  else if 0x400 ≤ off ∧ off < 0xE00 then store 0x87FC00000000FFFF#64
  else s

/-! ### Host functions -/

/-- A write of BAR 0 of a virtual function at an 8-byte aligned offset (R305). -/
def State.vfWrite (s : State) (p off : Nat) (w : RegWrite) : State :=
  if off < 0x80 then if w.has 0 32 then s.doorbell p (off / 8) (w.ones.setWidth 32) else s
  else if off = 0x100 then s.writeEvcfg p w.v
  else if off = 0x108 then s.ringVf p { s.vf p with evhead := w.v.setWidth 32 }
  else if off = 0x120 then s.writeL2dir p w.v
  else s

/-- A virtual function is exposed while its partition is not Off (R249). -/
def State.vfThere (s : State) (p : Nat) : Bool := decide (p < 64) && s.partState p != 0

/-- A write of BAR 0 of the physical function at an 8-byte aligned offset. -/
def State.pfWrite (s : State) (off : Nat) (w : RegWrite) : State :=
  if off = 0x10 then s.writeDrst w.ones
  else if off = 0x20 then if w.ones.getLsbD 0 then s.lifeCycle else s
  else if off = 0x100 then s.ringPf { s.pfEv with evcfg := setField w.v 4 8 0, evhead := 0, evtail := 0 }
  else if off = 0x108 then s.ringPf { s.pfEv with evhead := w.v.setWidth 32 }
  else if 0x8000 ≤ off ∧ off < 0x10000 then s.putRaw (locLcblk (off - 0x8000)) (bytesOf w.v)
  else if 0x100000 ≤ off ∧ off < 0x300000 then s.dieWrite ((off - 0x100000) / 0x40000) (off % 0x40000) w
  else if 0x10000000 ≤ off ∧ off < 0x20000000 then s.ctxPageWrite ((off - 0x10000000) / 0x1000) (off % 0x1000) w
  else s

/-- A write of n bytes to a register page (R476): one that is not naturally aligned within a register changes nothing. -/
def State.pageWrite (s : State) (p : RegPage) (off n : Nat) (data : Nat) : State :=
  if !regAligned off n then s
  else
    let base := off / 8 * 8
    let w := RegWrite.of (s.pageRead p base) (off % 8) n data
    match p with
    | .pf => s.pfWrite base w
    | .vf k => if s.vfThere k then s.vfWrite k base w else s
    | .die d => if d < 8 then s.dieWrite d base w else s
    | .ctx x => s.ctxPageWrite x base w

end Sys2Proof.Machine
end

