-- ==== Sys2Proof/Machine/Perform.lean ====
section
/-! DEFINITION. Accesses perform (R62, R166, R183, R188, R192, R195 to R199, R370 to R374, R380, R384, R402): the parts of an access
at the units that own them, own-scratchpad cycles, full/empty requests, long results, and the wheel. -/

namespace Sys2Proof.Machine

/-! ### One part of an access -/

/-- How a part of an access meets tags. -/
def Flight.acc (f : Flight) (p : Piece) : Acc := { gen := f.gen, tagged := p.tagged, part := some (partOf f.ctx) }

/-- A location that no register page and no void holds: its poison and its pending state count (R402). -/
def plainLoc (loc : Nat) : Bool := decide (loc < locZero) && (pageAt loc).isNone

/-- Where a write to a scratchpad goes when it does not come from that scratchpad's own slots: in a redundant pair to both cores
(R350). `c` is the core that writes with its own slots, if any. -/
def State.mirrors (s : State) (c : Option Nat) (loc : Nat) : List Nat :=
  if isSpad loc && c != some (spadCore loc) then
    match s.seqOfCore (spadCore loc) with
    | some q => if s.paired q then [loc, locSpad (shadowCore (spadCore loc)) ((loc - 2 ^ 56) % 2 ^ 21)] else [loc]
    | none => [loc]
  else [loc]

/-- Bytes written at a location: nowhere, to a register page, or to memory, which the guest's copies of the line leave (R373). -/
def State.pieceWrite (s : State) (c : Option Nat) (a : Acc) (loc : Nat) (bs : List Byte) : State :=
  if locZero ≤ loc then s
  else
    match pageAt loc with
    | some (p, off) => s.pageWrite p off bs.length (wordOfBytes bs)
    | none => ((s.mirrors c loc).foldl (fun s l => s.writeBytes a l bs) s).snoopLines loc bs.length
/-- A full/empty bit set, in a redundant pair on both cores. -/
def State.setFullBoth (s : State) (c : Option Nat) (g : Gen) (loc : Nat) (b : Bool) : State :=
  (s.mirrors c loc).foldl (fun s l => s.setFull g l b) s

/-- f(M, V) of R197 to R199 on the bytes an atomic finds: at place `off` of the access. -/
def FlightOp.apply (op : FlightOp) (level off : Nat) (m : List Byte) : List Byte :=
  let w := 8 * m.length
  let old := wordOfBytes m
  match op with
  | .atom aop _ v _ => bytesOfWord m.length (atomFn aop level w old (v.toNat % 2 ^ w))
  | .cas _ c n => if old = c.toNat % 2 ^ w then bytesOfWord m.length n.toNat else m
  | .redv aop _ v =>
    (List.range (m.length / 4)).flatMap fun e =>
      bytesOfWord 4 (atomFn aop level 32 (wordOfBytes ((m.drop (4 * e)).take 4)) (v.toNat / 2 ^ (8 * off + 32 * e) % 2 ^ 32))
  | _ => m

/-- A part of an access performs at a location: the memory, and the access with what it has read. A read of a poisoned granule
fails the access, and an atomic there writes nothing (R402). -/
def State.performAt (s : State) (f : Flight) (p : Piece) (a : Acc) (loc : Nat) : State × Flight :=
  let bad : Bool := plainLoc loc && s.readsPoison a loc p.len
  let got := s.fetchBytes a loc p.len
  let read : Flight :=
    if bad then { f with failed := some (f.failed.getD cPOISON) } else { f with data := patchBytes f.data p.off got }
  match f.op with
  | .load .. | .scl | .rcv => (s, read)
  | .fe take _ => (if take then s.setFullBoth (some f.core) f.gen loc false else s, read)
  | .wfe => ((s.pieceWrite (some f.core) a loc ((f.data.drop p.off).take p.len)).setFullBoth (some f.core) f.gen loc true, f)
  | .store => (s.pieceWrite (some f.core) a loc ((f.data.drop p.off).take p.len), f)
  | .atom .. => if bad then (s, read) else (s.pieceWrite (some f.core) a loc (f.op.apply (s.ctxLevel f.ctx) p.off got), read)
  | .cas _ cmp _ =>
    -- Only a match writes (R198).
    if bad || wordOfBytes got != cmp.toNat % 2 ^ (8 * p.len) then (s, read)
    else (s.pieceWrite (some f.core) a loc (f.op.apply (s.ctxLevel f.ctx) p.off got), read)
  | .redv .. => if bad then (s, f) else (s.pieceWrite (some f.core) a loc (f.op.apply (s.ctxLevel f.ctx) p.off got), f)
  | .send .. | .event _ => (s, f)

/-- A part of an access marked as performed. -/
def Flight.mark (f : Flight) (p : Piece) : Flight :=
  { f with pieces := f.pieces.map fun r => if r = p then { r with done := true } else r }

/-- The other sector of a poisoned granule that a store writes whole: the controller takes both as one write, which clears POISON
(R402). -/
def State.partner (s : State) (f : Flight) (p : Piece) : Option Piece :=
  if f.op = .store ∧ plainLoc p.loc = true ∧ (s.unit p.loc).poison = true then
    match f.pieces.filter fun r => r.loc / 64 == p.loc / 64 with
    | [a, b] =>
      if a.len = 32 ∧ b.len = 32 ∧ a.loc + 32 = b.loc ∧ a.off + 32 = b.off ∧ a.done = false ∧ b.done = false then
        some (if p.loc = a.loc then b else a)
      else none
    | _ => none
  else none

/-- A part of an access performs where it lies, with the other sector of a poisoned granule that the access writes whole. -/
def State.performPiece (s : State) (n : Nat) (p : Piece) : State :=
  match s.flight? n with
  | none => s
  | some f =>
    match s.partner f p with
    | none =>
      let (s, g) := s.performAt f p (f.acc p) p.loc
      s.modFlight n fun _ => g.mark p
    | some r =>
      let a := if p.loc < r.loc then p else r
      let (s, g) := s.performAt f { a with len := 64 } (f.acc p) a.loc
      s.modFlight n fun _ => (g.mark p).mark r

/-- The controller finds uncorrectable errors under a part of an access: those that stand in its granules, and one that the event names
(R402). -/
def State.eccError (s : State) (f : Flight) (p : Piece) (bad : Bool) : State :=
  let s := s.meetErrors f.gen p.loc p.len
  if bad && isDram p.loc then s.spoil f.gen p.loc else s

/-! ### What follows an access -/

/-- Counters, signals and host windows of a die, and records, that wait for accesses to perform: what has performed by a time counts as
of that time (R368). -/
def State.settleDieAt (s : State) (d now : Nat) : State := (((s.tlSettleAll d now).phSettleAll d).eventSettle).hwnAdvance d
/-- The same as of now. -/
def State.settleDie (s : State) (d : Nat) : State := s.settleDieAt d s.time

/-- An access with no register to write and no acknowledgement to come leaves once all of it has performed. A near full/empty
request stays for its bundle (R195). -/
def Flight.finished (f : Flight) : Bool :=
  f.allDone && f.window.isNone &&
  (match f.op with
   | .store | .redv .. => true
   | .load _ _ | .atom .. | .cas .. => f.dest.isNone
   | .wfe => f.acked && f.due.isNone && f.pieces.all fun p => spadCore p.loc == f.core
   | .fe _ own => own
   | _ => false)
def State.leaveDone (s : State) (n : Nat) : State :=
  match s.flight? n with
  | some f => if f.finished then s.dropFlight n else s
  | none => s

/-- The value a finished access has for its register: the loaded bytes, or what an atomic returns (R185, R197, R198). -/
def Flight.value (f : Flight) : VWord :=
  match f.op with
  | .load form _ => loadValue form f.data
  | .atom _ ty _ _ => asV (atomReturn ty (wordOfBytes f.data))
  | .cas ty _ _ => asV (atomReturn ty (wordOfBytes f.data))
  | _ => BitVec.ofNat 2048 (wordOfBytes f.data)

/-! ### Own-scratchpad accesses (R183) -/

/-- The parts of an access that lie in its core's own scratchpad and have not performed. -/
def Flight.ownLeft (f : Flight) : List Piece :=
  f.pieces.filter fun p => !p.done && ((isSpad p.loc && spadCore p.loc == f.core))

/-- The parts of an access that may perform at their units within the die do so. -/
def State.performReady (s : State) (n : Nat) : State :=
  match s.flight? n with
  | none => s
  | some f =>
    f.pieces.foldl (fun s p => if !p.done && !isFabric p.loc && s.mayPerform f p then s.performPiece n p else s) s

/-- Accesses of a bundle that come before an own access of it: the loads of the bundle before a store, and those of cores of lower CRANK
that touch its granules (R374). -/
def State.beforeOwn (s : State) (f : Flight) : List Nat :=
  (s.flights.filter fun e => e.bnd == f.bnd && decide (e.id < f.id) && e.due.isNone && e.sc.isNone && !e.allDone &&
    ((e.core == f.core && e.op.reads && !f.op.reads) ||
     (e.core != f.core && f.ownLeft.any fun p => e.pieces.any fun r => !r.done && r.meets p))).map Flight.id

/-- An own-scratchpad access reaches its bank: a load's entry takes the value read. What the device orders before it has performed
(R374; log entry 73). -/
def State.ownPerform (s : State) (n : Nat) : State :=
  match s.flight? n with
  | none => s
  | some f =>
    let s := (s.beforeOwn f).foldl State.performReady s
    let s := f.ownLeft.foldl (fun s p => s.performPiece n p) s
    let s := s.modFlight n fun g => { g with due := none }
    match s.flight? n with
    | none => s
    | some g =>
      let own : Bool := match g.op with
        | .load _ own => own
        | .fe _ own => own
        | _ => false
      let s := if own && g.allDone then (s.modCore g.core fun k => k.loadRead n g.value).dropFlight n else s
      s.leaveDone n

/-- SPAD_ACCESS (R183): an access whose cycle c + 3 comes next, or ends. -/
def State.spadStep (s : State) (n : Nat) : State :=
  if (s.flight? n).elim false fun f => f.due == some 1 then
    let d := (s.flight? n).elim 0 fun f => dieOfCore f.core
    (s.ownPerform n).settleDie d
  else s

/-- A cycle of the cores `cs`: own-scratchpad accesses come one cycle nearer, and those whose cycle it is perform: the stores whose
cycle c + 3 has just ended, and then the loads that read in the cycle that begins. A load of the bundle after a store reads in the
cycle after the one in which the store performs. -/
def State.tickOwn (s : State) (cs : List Nat) : State :=
  let nearer (f : Flight) : Flight := if cs.contains f.core then { f with due := f.due.map (· - 1) } else f
  let s := { s with flights := s.flights.map nearer }
  let ready := s.flights.filter fun f => cs.contains f.core && f.due == some 0
  let s := (ready.filter fun f => !f.op.reads).foldl (fun s f => s.ownPerform f.id) s
  (ready.filter fun f => f.op.reads).foldl (fun s f => s.ownPerform f.id) s

/-! ### Near accesses (R192, R196, R271, R374) -/

/-- The L2 slice of a line, and its die: line n of a direct area lies in slice n mod 160 (R396). -/
def sliceAt (loc : Nat) : Nat × Nat :=
  if isDram loc then (dramDie loc, Config.sliceOf (loc / 64) % 160) else ((loc - 2 ^ 52) / 2 ^ 32 / 64, loc % 2 ^ 32 / 64 % 160)

/-- A part of an access waits at a slice. -/
def Piece.atSlice (p : Piece) (x : Nat × Nat) : Bool := !p.done && decide (p.loc < 2 ^ 56) && sliceAt p.loc == x

/-- The token of a line at its slice, taken with the first part of an access that performs there (R271, R272). None where the
access waits for one. -/
def State.lineToken (s : State) (f : Flight) (p : Piece) : Option State :=
  if 2 ^ 56 ≤ p.loc then some s
  else if (f.pieces.any fun r => r.done && r.loc / 64 == p.loc / 64) || (s.ctx? f.ctx).isNone then some s
  else
    let x := sliceAt p.loc
    s.l2Take x.1 x.2 f.ctx fun y => s.flights.any fun g => g.ctx == y && g.pieces.any fun r => r.atSlice x

/-- Tokens for the lines of memory that bytes of a context at places touch, line by line (R271). None where one is missing. -/
def State.linesTake (s : State) (x : Nat) : List Nat → Option State
  | [] => some s
  | loc :: l =>
    if 2 ^ 56 ≤ loc || (s.ctx? x).isNone then State.linesTake s x l
    else
      let y := sliceAt loc
      (s.l2Take y.1 y.2 x fun z => s.flights.any fun g => g.ctx == z && g.pieces.any fun r => r.atSlice y).bind fun t =>
        State.linesTake t x l

/-- A part of an access that has come to its turn at its unit: near, and not an SC operation. -/
def State.nearTurn (s : State) (f : Flight) (p : Piece) : Bool :=
  !p.done && !isFabric p.loc && f.sc.isNone && !(isSpad p.loc && spadCore p.loc == f.core) && s.inTurn f p

/-- A part of an access that its unit may apply now: one whose granule is pending waits (R402). -/
def State.nearReady (s : State) (f : Flight) (p : Piece) : Bool := s.nearTurn f p && !s.meetsPend p.loc p.len

/-- Part k of access n reaches its unit; `bad` says that the controller finds an uncorrectable error there. -/
def State.nearStep (s : State) (n k : Nat) (bad : Bool) (is : FlightOp → Bool) : State :=
  match s.flight? n with
  | none => s
  | some f =>
    match f.pieces[k]? with
    | none => s
    | some p =>
      if !is f.op || !s.nearTurn f p then s
      else
        let s := s.eccError f p bad
        match s.lineToken f p with
        | none => s
        | some t =>
          if s.nearReady f p && (t.partner f p).all fun r => t.nearReady f r then
            ((t.performPiece n p).leaveDone n).settleDie (dieOfCore f.core)
          else s

/-- A `w.snd` within its die is delivered (R202). -/
def State.sendLocal (s : State) (f : Flight) : State :=
  match f.op with
  | .send target ch =>
    if dieOfCore target ≠ dieOfCore f.core then s
    else (s.enqueue f.ctx target ch (Reg.of (BitVec.ofNat 2048 (wordOfBytes f.data)) f.gen)).dropFlight f.id
  | _ => s

/-- NEAR_STORE_PERFORM: part k of a store reaches its bank or slice; a `w.snd` of the die is delivered; a guest write performs. -/
def State.storePerform (s : State) (guest : Option Nat) (n k : Nat) (bad : Bool) : State :=
  match guest with
  | some d => (s.dutyTimeout d).guestPerform d n
  | none =>
    match s.flight? n with
    | none => s
    | some f =>
      match f.op with
      | .send .. => if s.sendAhead f then s else s.sendLocal f
      | _ => s.nearStep n k bad fun op => match op with
        | .store => true
        | _ => false

/-- ATOMIC_APPLY (R196). -/
def State.atomicPerform (s : State) (n k : Nat) (bad : Bool) : State :=
  s.nearStep n k bad fun op => match op with
    | .atom .. | .cas .. | .redv .. => true
    | _ => false

/-! ### Full/empty requests at a bank (R187, R194, R370, R371) -/

/-- The owner of a granule has a full/empty access on its way to it. -/
def State.ownerFirst (s : State) (p : Piece) : Bool :=
  s.flights.any fun f => f.due.isSome && f.core == spadCore p.loc &&
    (match f.op with
     | .fe .. | .wfe => true
     | _ => false) && f.pieces.any fun r => r.loc == p.loc

/-- The state that a near full/empty request needs at its bank. -/
def FlightOp.wants : FlightOp → Option Bool
  | .fe _ false => some true
  | .wfe => some false
  | _ => none

/-- A release has reserved the granule for a bundle of its owner that issues next (R364). -/
def State.granuleReserved (s : State) (p : Piece) : Bool :=
  (s.seqOfCore (spadCore p.loc)).elim false fun q => (s.seq q).released && (s.seq q).reserved.contains p.loc

/-- A near request that the state of its granule lets its bank apply (R187, R194, R371). -/
def State.feMeets (s : State) (f : Flight) : Bool :=
  match f.op.wants, f.pieces.find? fun p => !p.done with
  | some w, some p =>
    f.due.isNone && f.sent.isSome && s.isFull f.gen p.loc == w && !s.ownerFirst p && !s.granuleReserved p && s.nearReady f p
  | _, _ => false

/-- Requests that reach a bank earlier come first; in one tick the lower GRANK (R371). -/
def State.feBefore (s : State) (e f : Flight) : Bool :=
  lexLt [e.sent.getD 0, (s.core e.core).sp.grank] [f.sent.getD 0, (s.core f.core).sp.grank]

/-- FE_REQUEST_APPLY: a near request reaches its bank, and in a later tick the bank applies it: the first of those that the granule's
state allows, in their order (R371). -/
def State.feApply (s : State) (n : Nat) : State :=
  match s.flight? n with
  | none => s
  | some f =>
    if f.op.wants.isNone then s
    else
      match f.sent with
      | none => s.modFlight n fun f => { f with sent := some s.ticks }
      | some t =>
        let ahead := s.flights.any fun e => s.feMeets e && s.feBefore e f && e.pieces.any fun r => f.pieces.any fun p => r.loc == p.loc
        if s.ticks = t || !s.feMeets f || ahead then s else f.pieces.foldl (fun s p => s.performPiece n p) s

/-! ### Long results (R56, R62, R202, R402) -/

/-- The generation that decides which registers of a core are dead. -/
def State.genOfCore (s : State) (c : Nat) (g : Gen) : Gen := (s.seqOfCore c).elim g s.genOf

/-- The write path of a long result (R56). -/
def Dest.path (d : Dest) : WPath := if d.file = .s then .lS else .lV

/-- The path of a long result is used in the current cycle of the core's sequencer (R56). -/
def State.pathBusy (s : State) (f : Flight) : Bool :=
  f.dest.elim false fun d => (s.seqOfCore f.core).isSome && (s.core f.core).pp.busy.contains d.path

/-- A finished long result is written, in a redundant pair to both cores (R350). One that has failed keeps its access until a
bundle uses its register: after a poisoned read the register holds a free value (log entry 9), and after a link fault zero. -/
def State.writeLong (s : State) (f : Flight) : State :=
  match f.dest with
  | none => s
  | some d =>
    let v := match f.failed with
      | none => f.value
      | some c => if c = cPOISON then (List.range 32).foldl (fun v i => v * 2 ^ 64 ||| (Config.freeWord (s.free * 2 ^ 32 + i)).setWidth 2048) 0
          else 0
    let e : LqEntry := { rem := 0, path := d.path, file := d.file, index := d.index, gen := f.gen, mask := BitVec.allOnes 128, value := v,
                         held := false, load := none }
    let put (c : Nat) (k : Core) : Core :=
      let k := k.commit (s.genOfCore c f.gen) e
      { k with pp := { k.pp with busy := k.pp.busy ++ [d.path] } }
    let s := s.modCores put (s.withShadow f.core)
    let s := { s with free := s.free + 1 }
    if f.failed.isSome then s.modFlight f.id fun f => { f with ready := false, written := true } else s.dropFlight f.id

/-- A complete long result uses its path in the first cycle in which nothing else does (R56). -/
def State.writeWhenFree (s : State) (f : Flight) : State :=
  if s.pathBusy f then s.modFlight f.id fun f => { f with ready := true } else s.writeLong f

/-- The end of a cycle of cores: results that wait for a path, oldest first, use those that the cycle has left (R56). -/
def State.writeReady (s : State) (cs : List Nat) : State :=
  (s.flights.filter fun f => f.ready && cs.contains f.core).foldl (fun s f => if s.pathBusy f then s else s.writeLong f) s

/-- LONG_RESULT_WRITE: part k of a long load is read at its unit; past the last part, the result is written over its path. -/
def State.longResult (s : State) (n k : Nat) (bad : Bool) : State :=
  match s.flight? n with
  | none => s
  | some f =>
    if k < f.pieces.length then
      s.nearStep n k bad fun op => match op with
        | .load .. | .scl => true
        | _ => false
    else if f.allDone && f.due.isNone && !f.ready && !f.written then s.writeWhenFree f
    else s

/-- SCALE_ENTRY_ARRIVE (R166, R188): entries enter the queue in the order of their `l.scl`. -/
def State.scaleArrive (s : State) (n : Nat) : State :=
  match s.flight? n with
  | none => s
  | some f =>
    let ahead := s.flights.any fun e => e.core == f.core && decide (e.op = .scl) && decide (e.id < f.id)
    if f.op ≠ .scl || !f.allDone || ahead then s
    else
      let bad : Bool := f.failed == some cPOISON
      let e : ScaleEntry := { val := if f.failed.isSome then 0 else BitVec.ofNat 512 (wordOfBytes f.data), tag := Tag.of f.gen,
                              poisoned := bad }
      let push (m : MatrixRegs) : MatrixRegs := ({ m with scq := m.scq ++ [e] } : MatrixRegs).usedSq f.ctx
      (s.modCores (fun _ k => { k with mx := push k.mx }) (s.withShadow f.core)).dropFlight n

/-! ### The wheel (R379, R380) -/

/-- The unit of a part of an SC operation lies on a die: the core's own die, or the die a fabric address names. -/
def State.unitDie (s : State) (f : Flight) (p : Piece) : Nat :=
  if isFabric p.loc then (s.dieOfFab (BitVec.ofNat 18 ((p.loc - locFabric 0) / 2 ^ 46))).getD (dieOfCore f.core) else dieOfCore f.core

/-- The stamps in their order (R380). -/
def ScStamp.key (x : ScStamp) : List Nat := [x.rev, x.pos, x.grank, x.slot]

/-- A part of an SC operation is applied at its unit on a die; one through a window passes the import check there, and a refusal
returns to the sender. -/
def State.scPiece (s : State) (d n : Nat) (p : Piece) : State :=
  match s.flight? n with
  | none => s
  | some f =>
    if !isFabric p.loc then (s.meetErrors f.gen p.loc p.len).performPiece n p
    else
      let fab := p.loc - locFabric 0
      let flit := s.flitFor f (p.loc / 64 * 64)
      if (s.dieOfFab (BitVec.ofNat 18 (fab / 2 ^ 46))).isNone then s.refuseFlight f fab f.op.flitKind 6
      else
        match s.admitted d flit (!f.op.reads) with
        | .error r => s.refuseFlight f fab f.op.flitKind r
        | .ok a =>
          let loc := locDram d (fab % 2 ^ 46)
          let (s, g) := (s.meetErrors f.gen loc p.len).performAt f p a loc
          s.modFlight n fun _ => { g.mark p with sent := some (g.sent.getD s.ticks) }

/-- The tick at which an SC operation is applied (R380). -/
def ScStamp.tick (x : ScStamp) : Nat := 4096 * x.rev + 4 * x.pos + 2000

/-- SC operations with parts on a die whose stamp a condition holds of, in stamp order. -/
def State.scOn (s : State) (d : Nat) (p : ScStamp → Bool) : List Flight :=
  let now := s.flights.filter fun f => f.sc.elim false p && f.pieces.any fun r => !r.done && s.unitDie f r == d
  sortBy (fun a b => !lexLt ((b.sc.map ScStamp.key).getD []) ((a.sc.map ScStamp.key).getD [])) now

/-- SC operations are applied on a die, each whole, in their order; each line takes its token as it can (R271). -/
def State.scRun (s : State) (d : Nat) (order : List Flight) : State :=
  let s := order.foldl (fun s f =>
    let here := f.pieces.filter fun p => !p.done && s.unitDie f p == d
    let s := ((here.map fun p => unitBase p.loc).eraseDups).foldl (fun s l => (s.linesTake f.ctx [l]).getD s) s
    here.foldl (fun s p => s.scPiece d f.id p) s) s
  (order.foldl (fun s f => s.leaveDone f.id) s).settleDie d

/-- SC operations whose tick has come on a die have been applied there (R380). -/
def State.scCatch (s : State) (d : Nat) : State :=
  match s.scOn d fun x => decide (x.tick ≤ s.tbase d) with
  | [] => s
  | l => s.scRun d l

/-- SC_APPLY: at their tick the operations of position n of revolution r are applied on a die, after those of earlier positions
(R380). -/
def State.scApply (s : State) (d r n : Nat) : State :=
  if s.tbase d < 4096 * r + 4 * n + 2000 then s
  else
    match s.scOn d fun x => !lexLt [r, n] [x.rev, x.pos] with
    | [] => s
    | l => s.scRun d l

end Sys2Proof.Machine
end

