-- ==== Sys2Proof/Machine/CopyEngine.lean ====
section
/-! DEFINITION. The copy engine (R207 to R210, R213 to R215, R332): a chunk moves whole, copies complete or fail, and sealed copies are
encrypted, opened and checked. -/

namespace Sys2Proof.Machine

/-! ### Places -/

/-- The context of a copy: the loaded one, or the one that has been unloaded while its copies drain (R406). -/
def State.copyCtx (s : State) (r : CopyRun) : Option Ctx :=
  match r.gone with
  | none => s.ctx? r.ctx
  | some a => s.leaving.find? fun c => c.asid == a

/-- The places of a copy's bytes as the core that issued it sees them: a chunk in the aperture fails with XLATE (R207). -/
def State.copySpots (s : State) (c : Nat) (r : CopyRun) (u : Use) : (salt : Nat) → List Run → Spots
  | _, [] => .ok []
  | i, x :: l =>
    match s.copyCtx r with
    | none => .fault cXLATE
    | some y =>
      match s.resolveIn r.ctx y r.asid r.sys c u (c * 4096 + i) x.addr with
      | .fault cause => .fault cause
      | .hold => .hold
      | .ok (.aperture _ _) => .fault cXLATE
      | .ok p =>
        match State.copySpots s c r u (i + 1) l with
        | .ok t => .ok ((x, p) :: t)
        | o => o

/-- The place in memory that a place of a copy names on this package. -/
def State.copyLoc (s : State) : Place → Option Nat
  | .mem loc _ => some loc
  | .window _ fab => (s.dieOfFab (BitVec.ofNat 18 (fab / 2 ^ 46))).map fun e => locDram e (fab % 2 ^ 46)
  | _ => none

/-- The requests of a copy for the lines at its places: each takes a token, and meets the uncorrectable errors of its granule (R271,
R402). None where a request waits for a token; then none of the chunk's lines moves (log entry 85). -/
def State.copyAsk (s : State) (r : CopyRun) (l : List (Run × Place)) : Option State :=
  let near := l.flatMap fun x => match x.2 with
    | .mem loc _ => unitsOf loc x.1.len
    | _ => []
  (s.linesTake r.ctx near).map fun s =>
    l.foldl (fun s x => (s.copyLoc x.2).elim s fun loc => s.meetErrors r.gen loc x.1.len) s

/-- Bytes read for a copy, or why there are none. -/
inductive CopyRead where
  | ok (bs : List Byte)
  /-- A cause, with the fabric address and the reason of a refusal (R411). -/
  | fail (cause : Nat) (refusal : Option (Nat × Nat))
  | hold
  deriving DecidableEq, Repr

/-- A request that a copy makes at a fabric address (log entry 33). -/
def State.copyFlit (s : State) (c : Nat) (r : CopyRun) (kind fab : Nat) : Flit :=
  s.newFlit (dieOfCore c) (BitVec.ofNat 18 (fab / 2 ^ 46)) kind (BitVec.allOnes 64) r.gen r.ctx fab 0 .none

/-- Bytes at one place of a copy's source. `ext` is what a place outside the package answers with; none where it refuses. -/
def State.copyReadAt (s : State) (c : Nat) (r : CopyRun) (ext : Option (List Byte)) (p : Place) (n : Nat) : CopyRead :=
  match p with
  | .window _ fab =>
    let f := s.copyFlit c r 1 fab
    match s.dieOfFab f.dst with
    | some e =>
      match s.route (dieOfCore c) f, s.admitted e f false with
      | .refuse w, _ => .fail cLINKFLT (some (fab, w))
      | _, .error w => .fail cLINKFLT (some (fab, w))
      | _, .ok a =>
        let loc := locDram e f.addr.toNat
        if s.meetsPend loc n then .hold
        else if s.readsPoison a loc n then .fail cPOISON none
        else .ok (s.readBytes a loc n)
    | none =>
      match s.route (dieOfCore c) f, ext with
      | .refuse w, _ => .fail cLINKFLT (some (fab, w))
      | _, some bs => .ok ((bs ++ List.replicate n 0).take n)
      | _, none => .fail cLINKFLT (some (fab, 2))
  | _ =>
    if s.placePend p n then .hold
    else if s.placePoison r.gen p n then .fail cPOISON none
    else .ok (s.placeBytes r.gen c p n)

/-- Bytes at the places of a copy's source. -/
def State.copyRead (s : State) (c : Nat) (r : CopyRun) (ext : Option (List Byte)) : List (Run × Place) → CopyRead
  | [] => .ok []
  | x :: l =>
    match s.copyReadAt c r ext x.2 x.1.len with
    | .ok bs =>
      match State.copyRead s c r ext l with
      | .ok more => .ok (bs ++ more)
      | o => o
    | o => o

/-- The state after bytes are written for a copy, or why they are not. -/
inductive CopyWrite where
  | ok (s : State)
  | fail (cause : Nat) (refusal : Option (Nat × Nat))
  | hold

/-- The write flits of bytes that leave the package, line by line. -/
def State.copyOut (s : State) (c : Nat) (r : CopyRun) (fab : Nat) (bs : List Byte) : State :=
  let d := dieOfCore c
  (runsOf (BitVec.ofNat 64 fab) bs.length).foldl (fun s x =>
    let a := x.addr.toNat
    let f := s.copyFlit c r 0 (a / 64 * 64)
    let f := { f with mask := BitVec.ofNat 64 ((2 ^ x.len - 1) * 2 ^ (a % 64)),
                      payload := BitVec.ofNat 512 (wordOfBytes ((bs.drop x.off).take x.len) * 2 ^ (8 * (a % 64))) }
    s.out (.flit d (match s.route d f with | .port p => p | _ => 6) f)) s

/-- Bytes written at one place of a copy's destination; `taken` says that a place outside the package accepts them. -/
def State.copyWriteAt (s : State) (c : Nat) (r : CopyRun) (taken : Bool) (p : Place) (bs : List Byte) : CopyWrite :=
  let a : Acc := { gen := r.gen, tagged := true, part := some (partOf r.ctx) }
  match p with
  | .own off => .ok (s.pieceWrite none a (locSpad c off) bs)
  | .peer p off => .ok (s.pieceWrite none a (locSpad p off) bs)
  | .mem loc tagged =>
    if s.meetsPend loc bs.length then .hold else .ok (s.pieceWrite none { a with tagged := tagged } loc bs)
  | .reg p off => .ok (if regAligned off bs.length then s.pageWrite p off bs.length (wordOfBytes bs) else s)
  | .aperture _ _ => .fail cXLATE none
  | .window _ fab =>
    let f := s.copyFlit c r 0 fab
    match s.dieOfFab f.dst with
    | some e =>
      match s.route (dieOfCore c) f, s.admitted e f true with
      | .refuse w, _ => .fail cLINKFLT (some (fab, w))
      | _, .error w => .fail cLINKFLT (some (fab, w))
      | _, .ok b =>
        let loc := locDram e f.addr.toNat
        if s.meetsPend loc bs.length then .hold else .ok ((s.writeBytes b loc bs).snoopLines loc bs.length)
    | none =>
      match s.route (dieOfCore c) f, taken with
      | .refuse w, _ => .fail cLINKFLT (some (fab, w))
      | _, true => .ok (s.copyOut c r fab bs)
      | _, false => .fail cLINKFLT (some (fab, 2))

/-- Bytes written at the places of a copy's destination. -/
def copyWrite (c : Nat) (r : CopyRun) (taken : Bool) (bs : List Byte) : State → List (Run × Place) → CopyWrite
  | s, [] => .ok s
  | s, x :: l =>
    match s.copyWriteAt c r taken x.2 ((bs.drop x.1.off).take x.1.len) with
    | .ok t => copyWrite c r taken bs t l
    | o => o

/-! ### Ends (R208, R209, R215) -/

/-- The copy at the head of a channel leaves it. -/
def State.popCopy (s : State) (c ch : Nat) : State := s.modCore c fun k => k.setChan ch ((k.chanOf ch).drop 1)
/-- The copy at the head of a channel changed. -/
def State.setHead (s : State) (c ch : Nat) (r : CopyRun) : State := s.modCore c fun k => k.setChan ch (r :: (k.chanOf ch).drop 1)

/-- The copy at the head of a channel fails: bytes already written stay (R209). -/
def State.copyFails (s : State) (c ch : Nat) (r : CopyRun) (cause : Nat) (refusal : Option (Nat × Nat)) : State :=
  let s := match refusal with
    | some (fab, w) => s.writeLfault r.ctx fab 1 w
    | none => s
  (s.popCopy c ch).tlFail (dieOfCore c) r.tl r.num cause

/-- A refused or tampered open writes zero to every destination byte: the copy starts over, with nothing to read (R215). -/
def CopyRun.zeroing (r : CopyRun) : CopyRun :=
  { r with failed := some cPERM, off := 0, idx := r.dims.map fun _ => 0, finished := noBytes r.len r.dims }

/-! ### Sealing (R214, R215) -/

/-- The 16 bytes of a trailer before its tag, which are the additional data. -/
def SealRun.front (r : SealRun) : List Byte :=
  bytesOf r.savectr ++ bytesOfWord 2 r.kctx ++ bytesOfWord 2 r.tpl ++ bytesOfWord 4 r.sseq
/-- The nonce of a trailer: bytes 12 to 15, then bytes 0 to 7. -/
def nonceOf (front : List Byte) : Nat := wordOfBytes ((front.drop 12).take 4 ++ front.take 8)
/-- Bytes under the key stream, from a place in copy order on. -/
def cipher (key nonce at_ : Nat) (bs : List Byte) : List Byte :=
  (List.range bs.length).map fun i => (bs[i]?).getD 0 ^^^ Config.gcmKeystream key nonce (at_ + i)
/-- The tag over the ciphertext. -/
def SealRun.tagFor (r : SealRun) (front : List Byte) : List Byte :=
  bytesOfWord 16 (Config.gcmTag r.key (nonceOf front) front r.done).toNat

/-- The context whose key a sealed copy uses, while it is loaded with that key. -/
def State.keyCtx (s : State) (x : SealRun) : Option Ctx := (s.ctx? x.kctx).filter fun k => k.key == some x.key
/-- SAVECTR as an open compares it: none when every open is refused (R331). A context unloaded since the start leaves the value that
the start read (R334). -/
def State.openCount (s : State) (x : SealRun) : Option Word :=
  let v := (s.keyCtx x).elim x.savectr Ctx.savectr
  if v = BitVec.allOnes 64 then none else some v
/-- An open started earlier with the same KCTX is in flight (R333). -/
def State.openAhead (s : State) (x : SealRun) : Bool :=
  s.cores.any fun e => e.2.chan.any fun ch => ch.2.any fun r =>
    r.sealed.elim false fun y => y.opening && y.kctx == x.kctx && decide (y.order < x.order)
/-- An open accepts a trailer: its counter is SAVECTR of the key's context, and its context and template are the binding's. -/
def State.accepts (s : State) (x : SealRun) (t : List Byte) : Bool :=
  (s.openCount x).elim false (fun v => t.take 8 == bytesOf v) &&
    (t.drop 8).take 2 == bytesOfWord 2 x.kctx && (t.drop 10).take 2 == bytesOfWord 2 x.tpl

/-- The trailer as an open reads it. -/
def State.readTrailer (s : State) (c : Nat) (r : CopyRun) (x : SealRun) : CopyRead :=
  match s.copySpots c r .read 64 (runsOf x.trailer 32) with
  | .fault cause => .fail cause none
  | .hold => .hold
  | .ok l => s.copyRead c r none l

/-- An open reads its trailer first, once no earlier open of its KCTX is in flight (R333); one that it refuses is zeroed. -/
def State.openHead (s : State) (c ch : Nat) (r : CopyRun) (x : SealRun) : State :=
  match (if s.openAhead x then CopyRead.hold else s.readTrailer c r x) with
  | .hold => s
  | .fail cause w => s.copyFails c ch r cause w
  | .ok t =>
    if s.accepts x t then s.setHead c ch { r with sealed := some { x with head := some t } }
    else s.setHead c ch { r.zeroing with sealed := some { x with head := some t } }

/-! ### COPY_CHUNK (R207, R208) -/

/-- Bytes of the next chunk: it crosses no 4 KiB boundary of its source or destination, nor the end of a ring or its room. -/
def State.chunkLen (s : State) (c : Nat) (r : CopyRun) : Nat :=
  let n := min (r.len - r.off) (4096 - r.srcAt.toNat % 4096)
  match r.bobbin with
  | none => min n (4096 - r.dstAt.toNat % 4096)
  | some b =>
    let d := (s.core c).readB r.gen b
    let at_ := bobTail d % max 1 (256 * bobSize d)
    min (min n (bobRoom d)) (min (256 * bobSize d - at_) (4096 - (256 * bobBase d + at_) % 4096))

/-- The TLB with the leaf of an address of a chunk (R398, R404). -/
def State.copyFill (s : State) (c : Nat) (r : CopyRun) (a : Word) : State := s.pageFill r.asid (dieOfCore c) a.toNat

/-- Where the next chunk goes. -/
def State.chunkTo (s : State) (c : Nat) (r : CopyRun) (n : Nat) : Spots :=
  match r.bobbin with
  | none => s.copySpots c r .write 128 [{ addr := r.dstAt, len := n, off := 0 }]
  | some b =>
    let d := (s.core c).readB r.gen b
    let off := (256 * bobBase d + bobTail d % max 1 (256 * bobSize d)) % 2 ^ 21
    .ok [({ addr := BitVec.ofNat 64 off, len := n, off := 0 }, .own off)]

/-- TAIL of a bobbin advances once its chunk has performed. -/
def State.bobTake (s : State) (c : Nat) (r : CopyRun) (n : Nat) : State :=
  match r.bobbin with
  | none => s
  | some b => s.modCores (fun _ k => let d := k.readB r.gen b; k.setB r.gen b (bobSetTail d (bobTail d + n))) (s.withShadow c)

/-- The bytes a chunk writes, and the copy with what it keeps of the ciphertext. -/
def CopyRun.transform (r : CopyRun) (bs : List Byte) : List Byte × CopyRun :=
  if r.failed.isSome then (List.replicate bs.length 0, r)
  else
    match r.sealed with
    | none => (bs, r)
    | some x =>
      if x.opening then
        (cipher x.key (nonceOf (x.head.getD [])) x.done.length bs, { r with sealed := some { x with done := x.done ++ bs } })
      else
        let out := cipher x.key (nonceOf x.front) x.done.length bs
        (out, { r with sealed := some { x with done := x.done ++ out } })

/-- A chunk is written, in one event (log entry 83): the copy goes on to its next bytes. -/
def State.chunkWrite (s : State) (c ch : Nat) (r : CopyRun) (ext : Option (List Byte)) (n : Nat) (bs : List Byte) : State :=
  match s.chunkTo c r n with
  | .fault cause => s.copyFails c ch r (r.failed.getD cause) none
  | .hold => s
  | .ok l =>
    let (out, r2) := r.transform bs
    match (s.copyAsk r l).elim .hold fun s => copyWrite c r ext.isSome out (if r.bobbin.isSome then s else s.copyFill c r r.dstAt) l with
    | .hold => s
    | .fail cause w => s.copyFails c ch r (r.failed.getD cause) w
    | .ok t => ((t.setHead c ch (r2.step n)).bobTake c r n).settleDie (dieOfCore c)

/-- COPY_CHUNK: the next chunk of the copy at the head of a channel moves. `ext` is what an address outside the package answers. -/
def State.copyChunk (s : State) (c ch : Nat) (ext : Option (List Byte)) : State :=
  match (s.core c).chanOf ch with
  | [] => s
  | r :: _ =>
    let n := s.chunkLen c r
    let unread : Bool := match r.sealed with
      | some x => x.opening && x.head.isNone
      | none => false
    if r.finished || decide (0 < r.wait) then s
    else if unread then r.sealed.elim s fun x => s.openHead c ch r x
    else if n = 0 then s
    else if r.failed.isSome then s.chunkWrite c ch r ext n (List.replicate n 0)
    else
      match s.copySpots c r .read 0 [{ addr := r.srcAt, len := n, off := 0 }] with
      | .fault cause => s.copyFails c ch r cause none
      | .hold => s
      | .ok l =>
        match s.copyAsk r l with
        | none => s
        | some s =>
          match s.copyRead c r ext l with
          | .hold => s
          | .fail cause w => s.copyFails c ch r cause w
          | .ok bs => (s.copyFill c r r.srcAt).chunkWrite c ch r ext n bs

/-! ### COPY_COMPLETE (R209, R215) -/

/-- The number of the copy at the head of a channel completes. -/
def State.copyEnds (s : State) (c ch : Nat) (r : CopyRun) : State := (s.popCopy c ch).tlFinish (dieOfCore c) r.tl r.num

/-- A seal writes its trailer. -/
def State.sealEnds (s : State) (c ch : Nat) (r : CopyRun) (x : SealRun) : State :=
  match s.copySpots c r .write 64 (runsOf x.trailer 32) with
  | .fault cause => s.copyFails c ch r cause none
  | .hold => s
  | .ok l =>
    match copyWrite c r true (x.front ++ x.tagFor x.front) s l with
    | .hold => s
    | .fail cause w => s.copyFails c ch r cause w
    | .ok t => t.copyEnds c ch r

/-- COUNT of the context of an open advances by 1, up to its last value (R331). -/
def State.countSave (s : State) (x : SealRun) : State :=
  if (s.keyCtx x).isNone then s
  else s.modCtx x.kctx fun c => { c with savectr := if c.savectr = BitVec.allOnes 64 then c.savectr else c.savectr + 1 }

/-- An open checks its tag: once it is verified, COUNT advances before the number completes (R331). -/
def State.openEnds (s : State) (c ch : Nat) (r : CopyRun) (x : SealRun) (head : List Byte) : State :=
  if (head.drop 16).take 16 == x.tagFor (head.take 16) then (s.countSave x).copyEnds c ch r
  else if noBytes r.len r.dims then s.copyFails c ch r cPERM none
  else s.setHead c ch r.zeroing

/-- Copies of the lines that a copy wrote have not all been taken from the guests: a destination in a scratchpad has none (R373,
R376). -/
def State.copySnooped (s : State) (r : CopyRun) : Bool :=
  r.bobbin.isSome || decide (r.dst.toNat < 2 ^ 32) || allDies.all fun d => (s.die d).sock.snoops.isEmpty

/-- COPY_COMPLETE: the last chunk of the copy at the head of a channel has performed at the widest scope of its destination (R376). -/
def State.copyComplete (s : State) (c ch : Nat) : State :=
  match (s.core c).chanOf ch with
  | [] => s
  | r :: _ =>
    if !r.finished || !s.copySnooped r then s
    else
      match r.failed, r.sealed with
      | some cause, _ => s.copyFails c ch r cause none
      | none, none => s.copyEnds c ch r
      | none, some x =>
        if !x.opening then s.sealEnds c ch r x
        else
          match x.head with
          | none => s.openHead c ch r x
          | some t => s.openEnds c ch r x t

/-- A cycle of a core: copies that wait for their first read come nearer to it (R183). -/
def Core.tickCopies (k : Core) : Core :=
  { k with chan := SMap.mapVals [] (fun _ l => l.map fun r => { r with wait := r.wait - 1 }) k.chan }

end Sys2Proof.Machine
end

