-- ==== Sys2Proof/Machine/Issue.lean ====
section
/-! DEFINITION. A cycle of a sequencer (R57, R66, R112, R239, R276 to R278, R360): what moves by itself, what the sequencer does in its
phase, and the bundle at issue. -/

namespace Sys2Proof.Machine

/-! ### What moves in a cycle -/

/-- Writes of WHLMAP whose revolution has begun take effect (R381). -/
def State.whlSettle (s : State) (d : Nat) : State :=
  let rev := s.tbase d / 4096
  let now := s.whlNext.filter fun e => decide (e.2.2 ≤ rev)
  if now.isEmpty then s
  else { s with whlmap := now.foldl (fun m e => SMap.set 0 m e.1 e.2.1) s.whlmap, whlNext := s.whlNext.filter fun e => decide (rev < e.2.2) }

/-- The context of a sequencer is Running. -/
def State.running (s : State) (q : Nat) : Bool := (s.ctxOf q).elim false fun c => c.phase == .running

/-- The slice of a gang has come to its end: the device sets REQ (R277). -/
def State.sliceEnds (s : State) (q : Nat) : State := (s.seq q).ctx.elim s fun x => s.modCtx x fun c => c.setReq true

/-- The cycles of a gang are charged to its slice: not those of a halt, of a restore, or between its landing and the Parked state (R276,
R286, R298; log entry 63). -/
def State.charged (s : State) (q : Nat) : Bool :=
  s.running q && (s.seq q).parent.isNone &&
  (match (s.seq q).phase with
   | .halted | .restore _ | .landWait => false
   | .held => (s.ctxOf q).elim true fun c => !c.landed.contains (s.seq q).gidx
   | _ => true)

/-- The gang has issued its yield, and no decision on it has taken effect yet. -/
def Phase.yielded : Phase → Bool
  | .yieldWait _ => true
  | .yieldClear _ => true
  | .atYield => true
  | _ => false

/-- A cycle of the slice (R276 to R278): SLEFT counts down while the context is Running, and throttled cycles count. REQ is set where it
reaches 0 before a yield. -/
def State.sliceTick (s : State) (q : Nat) : State :=
  let y := s.seq q
  if !s.charged q then s
  else
    let slow := (s.die (dieOfSeq q)).throttled
    let s := s.modSeq q fun y => { y with sleft := y.sleft - 1, thrCyc := if slow && y.sleft != 0 then y.thrCyc + 1 else y.thrCyc }
    if y.sleft = 1 && !y.phase.yielded then s.sliceEnds q else s

/-- A unit's operation with one cycle less to go. -/
def Busy.tick {α : Type} (b : Busy α) : Busy α := { b with left := b.left - 1 }

/-- The engine and the tile store of a core count a cycle, and what has none left retires (R159, R173). -/
def State.unitTick (s : State) (x c : Nat) : State :=
  let s := s.modCore c fun k => { k with mx := { k.mx with eng := k.mx.eng.map Busy.tick, tst := k.mx.tst.map Busy.tick } }
  let s := if (s.core c).mx.eng.elim false fun b => b.left == 0 then s.modCore c fun k => k.engDone x else s
  if (s.core c).mx.tst.elim false fun b => b.left == 0 then s.tstDone c x else s

/-- MATRIX_STEP_RETIRE: the engine's operation has held it for its cycles. A core with no sequencer counts none. -/
def State.engRetire (s : State) (c : Nat) : State :=
  let q := s.seqOfCore c
  if (s.core c).mx.eng.elim false fun b => b.left ≤ 1 || q.isNone then s.modCore c fun k => k.engDone (q.elim 0 s.ctxIdOf) else s
/-- TILE_STORE_COMPLETE: the same for the tile store. -/
def State.tstRetire (s : State) (c : Nat) : State :=
  let q := s.seqOfCore c
  if (s.core c).mx.tst.elim false fun b => b.left ≤ 1 || q.isNone then (s.tstDone c (q.elim 0 s.ctxIdOf)).settleDie (dieOfCore c) else s

/-- A core at the start of a cycle: its write paths are free, and a move of its matrix state has one cycle less to go (R56, R295). -/
def Core.freshCycle (k : Core) : Core := { k with pp := { k.pp with busy := [], accLeft := k.pp.accLeft - 1 } }

/-- What moves in a cycle of a sequencer before its bundle: own-scratchpad accesses, units, copies, packets, claims due, the group,
ACCOWN writes, and what waits for accesses to perform. What has performed by now counts for the waits of this cycle (R368). -/
def State.beginCycle (s : State) (q : Nat) : State :=
  let d := dieOfSeq q
  let cs := s.allCores q
  let s := (s.whlSettle d).modSeq q fun y => { y with cyc := y.cyc + 1 }
  let s := ((s.sliceTick q).modCores (fun _ k => k.freshCycle) cs).tickOwn cs
  let s := cs.foldl (fun s c => s.unitTick (s.ctxIdOf q) c) s
  let s := (s.modCores (fun _ k => k.tickCopies) cs).tickPackets d cs
  let s := s.claimEffects d
  let s := (s.seq q).ctx.elim s s.groupStep
  let s := (s.gang q).foldl (fun s c => s.accownWrite c) s
  cs.foldl (fun s c => s.pruneFences c) (s.settleDieAt d (s.time - s.cycleUnits d))

/-! ### Causes before the next bundle (R195, R239, R276, R360) -/

/-- The bundle at issue leaves it: a request that waits at a peer bank is withdrawn first (R195). -/
def State.depart (s : State) (q : Nat) (go : State → State) : State :=
  if s.fedOut q then s.modSeq q fun y => { y with phase := .withdraw false } else go s

/-- The run of a tenant-mode bundle is used up (R276). -/
def State.runOut (s : State) (q : Nat) : Bool := !(s.seq q).sys && (s.seq (s.runSeq q)).runleft == 0

/-- The lowest pending asynchronous code. -/
def Seq.lowest (x : Seq) : Option Nat := x.async.foldl (fun m a => some (m.elim a (min a))) none

/-- The asynchronous cause to take before the next bundle (R239): none while a handler is active, but for the OVERRUN of a
tenant-mode handler. -/
def State.asyncDue (s : State) (q : Nat) : Option Nat :=
  if s.acting q then (if s.runOut q then some cOVERRUN else none) else (s.seq q).lowest

/-- OVERRUN becomes pending for a tenant-mode bundle with no run left. -/
def State.runCheck (s : State) (q : Nat) : State := if s.runOut q then s.pend q cOVERRUN else s

/-- Counted waits that have reached their limit (R360). -/
def State.timeouts (s : State) (q : Nat) : List Raise :=
  ((s.gang q).filter fun c => (s.core c).overLimit).map fun c => { core := c, slot := (s.core c).pp.waitSlot, cause := cWAITTO, info := 0 }

/-- WAITTO of a bundle whose count has reached LIMIT: none where its line has released it (R360, R365). -/
def State.timeTrap (s : State) (q : Nat) : State :=
  let rs := s.timeouts q
  if (s.seq q).phase != .run || rs.isEmpty || (s.seq q).released then s else s.depart q fun s => s.leaveWith q rs

/-- The end of a cycle in which the bundle did not issue. Where its input of a line is high, a release in this cycle still wins: the
trap comes with the next cycle (R365). -/
def State.timeCheck (s : State) (q : Nat) : State := if (s.seq q).lineUp then s else s.timeTrap q

/-- A line wait has reached its limit, and no release has come in that cycle (R365). -/
def State.lineLate (s : State) (q : Nat) : Bool := (s.seq q).lineUp && !(s.seq q).released && !(s.timeouts q).isEmpty

/-- A halt asked for comes before the bundle at issue, unless a line has released it (R195, R297, R363). -/
def State.haltDue (s : State) (q : Nat) : Bool := (s.seq q).haltAsk && !(s.seq q).released && !s.fedOut q

/-! ### The bundle at issue -/

/-- The slot of the first operation that does not decode; 8 for the header and the port allotment (R241). -/
def illegalSlot (w : Nat) : Nat :=
  ((Slot.all.find? fun x => match decodeSlot x (w / 2 ^ x.lo % 2 ^ x.width) with
    | .error _ => true
    | .ok _ => false).map Slot.code).getD 8

/-- The whole bundle raises a cause in every core. -/
def State.bundleTrap (s : State) (q cause slot : Nat) : State := s.depart q fun s => s.leaveWith q (s.everyCore q cause slot)

/-- A fetched bundle, checked in the order of R66 and issued. -/
def State.issueWord (s : State) (q w : Nat) : State :=
  let pc := (s.seq q).pc
  let hdr := Header.ofWord (w % 2 ^ 32)
  if hdr.brk == 1 && (s.seq q).brkSkip != some pc then
    (s.bundleTrap q cBRK 8).modSeq q fun y => { y with brkAt := some pc }
  else
    match decodeBundle w with
    | .error _ => s.bundleTrap q cILLOP (illegalSlot w)
    | .ok b => s.issueOps q b.hdr (semsOf b) (earlyOf b)

/-- The memory that a fetch at PC reads. -/
def State.fetchLoc (s : State) (q : Nat) : Option Nat :=
  let x := s.seq q
  match s.walk x.asid (dieOfSeq q) x.pc.toNat with
  | .leaf e lvl =>
    match s.leafPlace (dieOfSeq q) (partOf (s.ctxIdOf q)) x.pc.toNat e lvl with
    | .ok (.mem loc _) => some loc
    | _ => none
  | _ => none

/-- A fetch meets the uncorrectable errors of its bundle's granule (R402). -/
def State.fetchErrors (s : State) (q : Nat) : State :=
  if s.errors.isEmpty then s else (s.fetchLoc q).elim s fun loc => s.meetErrors (s.genOf q) loc 64

/-- The bundle at PC is fetched and stands at issue; the TLB takes the leaves its accesses use (R113, R395, R398). -/
def State.issueNow (s : State) (q : Nat) : State :=
  let n := s.nextId
  let s := s.fetchErrors q
  let s := match s.fetchBundle q with
    | .hold => s
    | .fault cause => s.bundleTrap q cause 8
    | .page p off => s.issueWord q (wordOfBytes (s.pageBytes p off 64))
    | .ok w => (s.fetchFill q).issueWord q w
  { s.dataFill n q with free := s.free + 1 }

/-- A sequencer whose bundle stands at issue. -/
def State.atIssue (s : State) (q : Nat) : State :=
  if (s.gang q).isEmpty then s
  else
    let s := s.runCheck q
    if s.haltDue q then s.doHalt q 15 0
    else if s.lineLate q then s.timeTrap q
    else
      -- A bundle that its line has released issues, and a pending cause comes before the next one (R363).
      match if (s.seq q).released then none else s.asyncDue q with
      | some cause => s.depart q fun s => s.asyncEntry q cause
      | none => (s.issueNow q).timeCheck q

/-! ### Withdrawals (R195) -/

/-- Requests of the bundle at issue that wait at peer banks, by core. -/
def State.fedList (s : State) (q : Nat) : List (Nat × Nat × Nat) :=
  (s.gang q).flatMap fun c => (s.core c).pp.fed.map fun e => (c, e.1, e.2)

/-- A request of the bundle at issue has been applied. -/
def State.fedApplied (s : State) (n : Nat) : Bool := (s.flight? n).elim true Flight.allDone

/-- The bundle whose requests have been withdrawn leaves issue as it was about to: a halt, the end of a wait, a pending cause, or a
landing (R195). -/
def State.leaveAsked (s : State) (q : Nat) (landing : Bool) : State :=
  let late := s.timeouts q
  if !late.isEmpty then s.leaveWith q late
  else
    match s.asyncDue q with
    | some cause => s.asyncEntry q cause
    | none =>
      if (s.seq q).haltAsk then s.doHalt q 15 0
      else if landing && s.landable q && !s.anySibling q then s.toLand q
      else s

/-- The answers to a withdrawal: what has not been applied is removed. When nothing has been applied the bundle leaves issue as it
was about to; when everything has, it issues with the results; otherwise it stands at issue for what was removed. -/
def State.withdrawAnswer (s : State) (q : Nat) : State :=
  match (s.seq q).phase with
  | .withdraw landing =>
    let fed := s.fedList q
    let out := (fed.filter fun e => !s.fedApplied e.2.2).map fun e => e.2.2
    let kept := fed.filter fun e => s.fedApplied e.2.2
    let s := { s with flights := s.flights.filter fun f => !out.contains f.id }
    let s := s.modCores (fun _ k => { k with pp := { k.pp with fed := k.pp.fed.filter fun e => !out.contains e.2 } }) (s.gang q)
    let s := s.modSeq q fun y => { y with phase := .run }
    if kept.isEmpty then s.leaveAsked q landing
    else if out.isEmpty then (s.clearWaits q).issueNow q
    else s.clearWaits q
  | _ => s

/-- FE_WITHDRAWAL: the bundle at issue would leave it, and its requests are withdrawn (R195). -/
def State.withdrawStart (s : State) (q : Nat) : State :=
  let due := (s.asyncDue q).isSome || !(s.timeouts q).isEmpty
  if (s.seq q).phase == .run && s.fedOut q && due then s.modSeq q fun y => { y with phase := .withdraw false } else s

/-! ### One cycle -/

/-- The switch to a context with one cycle less to go. -/
def Phase.less : Phase → Phase
  | .start n => .start (n - 1)
  | .restore n => .restore (n - 1)
  | p => p

/-- What a sequencer does in a cycle, by its phase. -/
def State.phaseStep (s : State) (q : Nat) : State :=
  match (s.seq q).phase with
  | .idle => s.arbiter q
  | .run => s.atIssue q
  | .bubble n =>
    let wait := (s.ctxOf q).elim false fun c => c.group == .starting
    s.modSeq q fun y => { y with phase := if 1 < n then .bubble (n - 1) else if wait then .held else .run }
  | .start n | .restore n =>
    let wait := (s.ctxOf q).elim false fun c => c.group == .starting
    s.modSeq q fun y => { y with phase := if 1 < n then y.phase.less else if wait then .held else .run }
  | .yieldWait _ => s.yieldStep q
  | .yieldClear n => s.clearStep q n
  | .atYield =>
    if (s.ctxOf q).elim false fun c => c.group == .faulted then s.modSeq q fun y => { y with phase := .run } else s.arbiter q
  | .landWait => s.preemptSave q
  | .retireWait => s.retireStep q
  | .tretWait => if (s.gang q).any fun c => (s.core c).readsPending then s else s.trapReturn q
  | .retired => if (s.seq q).parent.isNone then s.arbiter q else s
  | .stopped => s.gangFence q
  | .withdraw _ => s.withdrawAnswer q
  | .halted => s
  | .held => s

/-- ISSUE_BUNDLE: one arithmetic cycle of a sequencer of a die in service. -/
def State.cycle (s : State) (q : Nat) : State :=
  if 320 ≤ q || !s.present (dieOfSeq q) then s
  else
    let s := (s.beginCycle q).phaseStep q
    s.writeReady (s.allCores q)

/-! ### The same, each alone -/

/-- ASYNC_TRAP: a pending cause is taken before the next bundle (R239). -/
def State.asyncStep (s : State) (q : Nat) : State :=
  match (s.seq q).phase, s.asyncDue q with
  | .run, some cause => s.depart q fun s => s.asyncEntry q cause
  | _, _ => s

/-- RUN_OVERRUN: a tenant-mode bundle stands at issue with no run left (R276). -/
def State.overrunStep (s : State) (q : Nat) : State :=
  match (s.seq q).phase with
  | .run =>
    let s := s.runCheck q
    if s.acting q && s.runOut q then s.depart q fun s => s.asyncEntry q cOVERRUN else s
  | _ => s

/-- SLICE_EXPIRE: the last cycle of the slice is over (R277). -/
def State.sliceStep (s : State) (q : Nat) : State :=
  if s.charged q && (s.seq q).sleft == 1 then
    (if (s.seq q).phase.yielded then s else s.sliceEnds q).modSeq q fun y => { y with sleft := 0 }
  else s

end Sys2Proof.Machine
end

