-- ==== Sys2Proof/Machine/Lines.lean ====
section
/-! DEFINITION. The release of a wired-AND line (R362 to R365). -/

namespace Sys2Proof.Machine

/-- The bundle that a sequencer would fetch now, where nothing of its fetch traps. -/
def State.standing (s : State) (q : Nat) : Option Bundle :=
  let whole (w : Nat) : Option Bundle :=
    match decodeBundle w with
    | .ok b => if b.hdr.brk == 1 && (s.seq q).brkSkip != some (s.seq q).pc then none else some b
    | .error _ => none
  match s.fetchBundle q with
  | .ok w => whole w
  | .page p off => whole (wordOfBytes (s.pageBytes p off 64))
  | _ => none

/-- The operations of the bundle that a sequencer stands at. -/
def State.standingSems (s : State) (q : Nat) : List Sem := (s.standing q).elim [] semsOf

/-- The input of a participant is high: it stands at issue with a SYN bundle, and every other condition for that bundle to issue holds
now (R363). -/
def State.inputHigh (s : State) (q : Nat) : Bool :=
  (s.seq q).phase == .run && (s.seq q).lineUp && !(s.seq q).released && !s.acting q && (s.asyncDue q).isNone && !s.runOut q &&
  (s.standing q).elim false fun b =>
    let ms := semsOf b
    b.hdr.syn == 1 && (s.headerRaise q b.hdr).isNone && (s.raises q (b.hdr.whl == 1) ms).isEmpty &&
    (b.hdr.whl != 1 || s.inPosition q b.hdr.runpos.toNat) && (s.waits q ms).isEmpty

/-- What a release reserves for a participant's bundle: the tokens that its operations take and the granules whose state they need
(R364). -/
def State.reserve (s : State) (q : Nat) : State :=
  let ms := s.standingSems q
  let t := s.syncSpend q (ms.map fun m => m.tokens s q).sum
  t.modSeq q fun y => { y with lineUp := false, released := true, reserved := ms.flatMap fun m => m.grains s q }

/-- The inputs of sequencers are high together, each with what the releases before it in the list leave (R363, R364). -/
def State.reserveAll : State → List Nat → Option State
  | s, [] => some s
  | s, q :: l => if s.inputHigh q then (s.reserve q).reserveAll l else none

/-- A gathering line with every input high in this cycle: the state with what the participants need reserved, each of them to issue next
(R363, R364). -/
def State.lineGo (s : State) (d line : Nat) : Option State :=
  let l := SMap.get AndLine.reset (s.die d).lines line
  match l.owner with
  | none => none
  | some x =>
    let ms := s.lineMembers d x
    if l.phase == .gathering && !ms.isEmpty && !s.evictedOn d x then s.reserveAll ms else none

/-- LINE_RELEASE (R363): the participants issue their bundles in their next cycle. -/
def State.lineRelease (s : State) (d line : Nat) : State :=
  match s.lineGo d line with
  | none => s
  | some t => t.modDie d fun y => { y with lines := SMap.modify .reset y.lines line fun l => { l with phase := .released } }

end Sys2Proof.Machine
end

