-- ==== Sys2Proof/Machine/EventExec.lean ====
section
/-! DEFINITION. The meaning of each event of the opcode table: one definition for each. An event whose conditions do not hold changes
nothing (R7; log entry 2). -/

namespace Sys2Proof.Machine

/-- `ISSUE_BUNDLE` (R57). -/
def execIssueBundle (q : Nat) (s : State) : Host.Outcome State Fault Refusal :=
  .next (({ s with focus := q } : State).cycle q)
/-- `YIELD_CLEAR` (R282). -/
def execYieldClear (q : Nat) (s : State) : Host.Outcome State Fault Refusal :=
  .next (s.yieldClear q)
/-- `COPY_CANCEL` (R281). -/
def execCopyCancel (c ch : Nat) (s : State) : Host.Outcome State Fault Refusal :=
  .next (s.copyCancel c ch)
/-- `PREEMPT_SAVE` (R286). -/
def execPreemptSave (q : Nat) (s : State) : Host.Outcome State Fault Refusal :=
  .next (s.preemptSave q)
/-- `ASYNC_TRAP` (R239). -/
def execAsyncTrap (q : Nat) (s : State) : Host.Outcome State Fault Refusal :=
  .next (s.asyncStep q)
/-- `WAIT_TIMEOUT` (R360). -/
def execWaitTimeout (q : Nat) (s : State) : Host.Outcome State Fault Refusal :=
  .next (s.timeTrap q)
/-- `RUN_OVERRUN` (R276). -/
def execRunOverrun (q : Nat) (s : State) : Host.Outcome State Fault Refusal :=
  .next (s.overrunStep q)
/-- `SLICE_EXPIRE` (R277). -/
def execSliceExpire (q : Nat) (s : State) : Host.Outcome State Fault Refusal :=
  .next (s.sliceStep q)
/-- `ARBITER_DECISION` (R310, R311). -/
def execArbiterDecision (q : Nat) (s : State) : Host.Outcome State Fault Refusal :=
  .next (s.arbiter q)
/-- `LONG_RESULT_WRITE` (R56, R62). -/
def execLongResultWrite (n k : Nat) (bad : Bool) (s : State) : Host.Outcome State Fault Refusal :=
  .next (s.longResult n k bad)
/-- `SPAD_ACCESS` (R183). -/
def execSpadAccess (n : Nat) (s : State) : Host.Outcome State Fault Refusal :=
  .next (s.spadStep n)
/-- `MATRIX_STEP_RETIRE` (R161). -/
def execMatrixStepRetire (c : Nat) (s : State) : Host.Outcome State Fault Refusal :=
  .next (s.engRetire c)
/-- `TILE_STORE_COMPLETE` (R173, R177). -/
def execTileStoreComplete (c : Nat) (s : State) : Host.Outcome State Fault Refusal :=
  .next (s.tstRetire c)
/-- `SCALE_ENTRY_ARRIVE` (R166, R188). -/
def execScaleEntryArrive (n : Nat) (s : State) : Host.Outcome State Fault Refusal :=
  .next (s.scaleArrive n)
/-- `COPY_CHUNK` (R207, R208). -/
def execCopyChunk (c ch : Nat) (ext : Option (List Byte)) (s : State) : Host.Outcome State Fault Refusal :=
  .next (s.copyChunk c ch ext)
/-- `COPY_COMPLETE` (R209, R215). -/
def execCopyComplete (c ch : Nat) (s : State) : Host.Outcome State Fault Refusal :=
  .next (s.copyComplete c ch)
/-- `FE_REQUEST_APPLY` (R370, R371). -/
def execFeRequestApply (n : Nat) (s : State) : Host.Outcome State Fault Refusal :=
  .next (s.feApply n)
/-- `FE_WITHDRAWAL` (R195). -/
def execFeWithdrawal (q : Nat) (s : State) : Host.Outcome State Fault Refusal :=
  .next (s.withdrawStart q)
/-- `FE_WITHDRAWAL_ANSWER` (R195). -/
def execFeWithdrawalAnswer (q : Nat) (s : State) : Host.Outcome State Fault Refusal :=
  .next (s.withdrawAnswer q)
/-- `ATOMIC_APPLY` (R196). -/
def execAtomicApply (n k : Nat) (bad : Bool) (s : State) : Host.Outcome State Fault Refusal :=
  .next (s.atomicPerform n k bad)
/-- `POSTED_WRITE_ACK` (R201). -/
def execPostedWriteAck (n : Nat) (s : State) : Host.Outcome State Fault Refusal :=
  .next (s.postedAck n)
/-- `LINE_RELEASE` (R363). -/
def execLineRelease (d line : Nat) (s : State) : Host.Outcome State Fault Refusal :=
  .next (s.lineRelease d line)
/-- `SC_APPLY` (R380). -/
def execScApply (d r n : Nat) (s : State) : Host.Outcome State Fault Refusal :=
  .next (s.scApply d r n)
/-- `SYNC_BUCKET_REFILL` (R358). -/
def execSyncBucketRefill (d p : Nat) (s : State) : Host.Outcome State Fault Refusal :=
  .next (s.syncRefill d p)
/-- `L2_BUCKET_REFILL` (R271). -/
def execL2BucketRefill (d slice x : Nat) (s : State) : Host.Outcome State Fault Refusal :=
  .next (s.l2Refill d slice x)
/-- `CRITICAL_WINDOW_END` (R274). -/
def execCriticalWindowEnd (d p p99 : Nat) (s : State) : Host.Outcome State Fault Refusal :=
  .next (s.criticalEnd d p p99)
/-- `REGISTER_WRITE` (R476). -/
def execRegisterWrite (p : RegPage) (off n : Nat) (v : Word) (s : State) : Host.Outcome State Fault Refusal :=
  .next (s.pageWrite p off n v.toNat)
/-- `PARTITION_ENABLE` (R249). -/
def execPartitionEnable (p : Nat) (v : Word) (s : State) : Host.Outcome State Fault Refusal :=
  .next (s.partEnable p v)
/-- `PARTITION_DISABLE` (R249). -/
def execPartitionDisable (p : Nat) (v : Word) (s : State) : Host.Outcome State Fault Refusal :=
  .next (s.partDisable p v)
/-- `PL2_WRITE` (R251). -/
def execPl2Write (d p : Nat) (v : Word) (s : State) : Host.Outcome State Fault Refusal :=
  .next (s.writePl2 d p v)
/-- `L2DIR_WRITE` (R305). -/
def execL2dirWrite (p : Nat) (v : Word) (s : State) : Host.Outcome State Fault Refusal :=
  .next (s.writeL2dir p v)
/-- `QUOTA_WRITE` (R356). -/
def execQuotaWrite (d p : Nat) (tl : Bool) (v : Word) (s : State) : Host.Outcome State Fault Refusal :=
  .next (s.writeQuota d p (if tl then 0x20 else 0x18) v)
/-- `PQCLM_WRITE` (R427). -/
def execPqclmWrite (d p : Nat) (v : Word) (s : State) : Host.Outcome State Fault Refusal :=
  .next (s.writeQuota d p 0x28 v)
/-- `GPOOL_WRITE` (R264). -/
def execGpoolWrite (v : Word) (s : State) : Host.Outcome State Fault Refusal :=
  .next (s.writeGpool v)
/-- `GEN_QUIET` (R265). -/
def execGenQuiet (g : Nat) (s : State) : Host.Outcome State Fault Refusal :=
  .next (s.genQuiet g)
/-- `CARDER_PASS_START` (R267). -/
def execCarderPassStart (s : State) : Host.Outcome State Fault Refusal :=
  .next (s.carderStart)
/-- `CARDER_STORAGE_SWEEP` (R267). -/
def execCarderStorageSweep (d : Nat) (s : State) : Host.Outcome State Fault Refusal :=
  .next (s.carderSweep d)
/-- `CARDER_PASS_END` (R267). -/
def execCarderPassEnd (s : State) : Host.Outcome State Fault Refusal :=
  .next (s.carderEnd)
/-- `HOST_WRITE` (R260). -/
def execHostWrite (x d : Nat) (va : Word) (bytes : List Byte) (s : State) : Host.Outcome State Fault Refusal :=
  .next (s.hostWrite x d va bytes)
/-- `LOAD` (R323). -/
def execLoad (d : Nat) (plan : LoadPlan) (s : State) : Host.Outcome State Fault Refusal :=
  .next (s.load d plan)
/-- `UNLOAD` (R314). -/
def execUnload (d : Nat) (s : State) : Host.Outcome State Fault Refusal :=
  .next (s.unload d)
/-- `BIND` (R302). -/
def execBind (n : Nat) (s : State) : Host.Outcome State Fault Refusal :=
  .next (s.queueBind n)
/-- `STOP` (R304). -/
def execStop (n : Nat) (s : State) : Host.Outcome State Fault Refusal :=
  .next (s.queueStop n)
/-- `START` (R304). -/
def execStart (n : Nat) (s : State) : Host.Outcome State Fault Refusal :=
  .next (s.queueStart n)
/-- `EXPORT` (R303). -/
def execExportQueue (n : Nat) (s : State) : Host.Outcome State Fault Refusal :=
  .next (s.queueExport n)
/-- `UNBIND` (R304). -/
def execUnbind (n : Nat) (s : State) : Host.Outcome State Fault Refusal :=
  .next (s.queueUnbind n)
/-- `QUEUE_DOORBELL` (R305). -/
def execQueueDoorbell (p q : Nat) (v : BitVec 32) (s : State) : Host.Outcome State Fault Refusal :=
  .next (s.doorbell p q v)
/-- `EVCFG_WRITE` (R305). -/
def execEvcfgWrite (p : Nat) (v : Word) (s : State) : Host.Outcome State Fault Refusal :=
  .next (s.writeEvcfg p v)
/-- `QUEUE_SERVE` (R307). -/
def execQueueServe (n : Nat) (s : State) : Host.Outcome State Fault Refusal :=
  .next (s.queueServe n)
/-- `LAUNCH_COMPLETE` (R308). -/
def execLaunchComplete (n : Nat) (s : State) : Host.Outcome State Fault Refusal :=
  .next (s.launchComplete n)
/-- `PLACE` (R339). -/
def execPlace (x : Nat) (s : State) : Host.Outcome State Fault Refusal :=
  .next (s.writeGrpctl x 1)
/-- `RELEASE` (R339). -/
def execRelease (x : Nat) (s : State) : Host.Outcome State Fault Refusal :=
  .next (s.writeGrpctl x 2)
/-- `EVICT` (R347). -/
def execEvict (x g : Nat) (s : State) : Host.Outcome State Fault Refusal :=
  .next (s.writeGrpctl x (BitVec.ofNat 64 (g % 512 * 4096 + 3)))
/-- `READMIT` (R347). -/
def execReadmit (x g : Nat) (s : State) : Host.Outcome State Fault Refusal :=
  .next (s.writeGrpctl x (BitVec.ofNat 64 (g % 512 * 4096 + 4)))
/-- `CBIND_WRITE` (R335). -/
def execCbindWrite (c : Nat) (v : Word) (s : State) : Host.Outcome State Fault Refusal :=
  .next (s.writeCbind c v)
/-- `PAIR_WRITE` (R349). -/
def execPairWrite (d j : Nat) (v : Word) (s : State) : Host.Outcome State Fault Refusal :=
  .next (s.writePair d j v true)
/-- `GROUP_START_AGREEMENT` (R343). -/
def execGroupStartAgreement (x : Nat) (s : State) : Host.Outcome State Fault Refusal :=
  .next (s.groupEvent x fun a => a == .start)
/-- `GROUP_YIELD_DECISION` (R344). -/
def execGroupYieldDecision (x : Nat) (s : State) : Host.Outcome State Fault Refusal :=
  .next (s.groupEvent x Agreement.yields)
/-- `GROUP_PREEMPT_AGREEMENT` (R343). -/
def execGroupPreemptAgreement (x : Nat) (s : State) : Host.Outcome State Fault Refusal :=
  .next (s.groupEvent x fun a => a == .preempt)
/-- `PAIR_SELFTEST_END` (R352). -/
def execPairSelftestEnd (q lasting creel p : Nat) (s : State) : Host.Outcome State Fault Refusal :=
  .next (s.pairSelftest q lasting creel p)
/-- `PREEMPT_REQUEST` (R284). -/
def execPreemptRequest (x : Nat) (s : State) : Host.Outcome State Fault Refusal :=
  .next (s.writePreq x 1)
/-- `ACCOWN_WRITE` (R295). -/
def execAccownWrite (c : Nat) (s : State) : Host.Outcome State Fault Refusal :=
  .next (s.accownWrite c)
/-- `DEBUG_HALT` (R297). -/
def execDebugHalt (q : Nat) (s : State) : Host.Outcome State Fault Refusal :=
  .next (s.debugHalt q)
/-- `DEBUG_RESUME` (R297). -/
def execDebugResume (q : Nat) (s : State) : Host.Outcome State Fault Refusal :=
  .next (s.debugResume q)
/-- `DEBUG_STATE_WRITE` (R297). -/
def execDebugStateWrite (q c : Nat) (r : DebugReg) (v : Tile) (s : State) : Host.Outcome State Fault Refusal :=
  .next (s.debugWrite q c r v)
/-- `DEBUG_LQ_WRITE` (R61). -/
def execDebugLqWrite (q c k : Nat) (d : Word) (mask : Pred) (value : VWord) (s : State) : Host.Outcome State Fault Refusal :=
  .next (s.debugLq q c k d mask value)
/-- `TLB_INVALIDATE` (R399). -/
def execTlbInvalidate (d : Nat) (v : Word) (s : State) : Host.Outcome State Fault Refusal :=
  .next (s.writeTlbinvc d v)
/-- `TLB_INVALIDATE_DONE` (R400). -/
def execTlbInvalidateDone (d : Nat) (s : State) : Host.Outcome State Fault Refusal :=
  .next (s.invalDone d)
/-- `MIG_REWALK` (R395). -/
def execMigRewalk (q : Nat) (s : State) : Host.Outcome State Fault Refusal :=
  .next (s.migRewalk q)
/-- `MIGRATE` (R405). -/
def execMigrate (d : Nat) (v : Word) (s : State) : Host.Outcome State Fault Refusal :=
  .next (s.writeMigctl d v)
/-- `MIGRATE_DONE` (R405). -/
def execMigrateDone (d : Nat) (s : State) : Host.Outcome State Fault Refusal :=
  .next (s.migDone d)
/-- `TRAIN` (R414). -/
def execTrain (d p : Nat) (s : State) : Host.Outcome State Fault Refusal :=
  .next (s.linkTrain d p)
/-- `INSTALL` (R414, R415). -/
def execInstall (d p : Nat) (s : State) : Host.Outcome State Fault Refusal :=
  .next (s.linkInstall d p)
/-- `LINK_TRAIN_COMPLETE` (R414). -/
def execLinkTrainComplete (d p delay : Nat) (s : State) : Host.Outcome State Fault Refusal :=
  .next (s.trainComplete d p delay)
/-- `LINK_TRAIN_TIMEOUT` (R414). -/
def execLinkTrainTimeout (d p : Nat) (s : State) : Host.Outcome State Fault Refusal :=
  .next (s.trainTimeout d p)
/-- `FLIT_SEND` (R416, R418). -/
def execFlitSend (d p : Nat) (s : State) : Host.Outcome State Fault Refusal :=
  .next (s.flitSend d p)
/-- `FLIT_RECEIVE` (R412, R418). -/
def execFlitReceive (d p : Nat) (ext : Option (BitVec 704 × Nat)) (busy : Bool) (s : State) : Host.Outcome State Fault Refusal :=
  .next (s.flitReceive d p ext busy)
/-- `TAG_GROUP_VERIFY` (R418, R419). -/
def execTagGroupVerify (d p : Nat) (ok : Bool) (s : State) : Host.Outcome State Fault Refusal :=
  .next (s.tagVerify d p ok)
/-- `REFUSAL_RECEIVE` (R413). -/
def execRefusalReceive (d : Nat) (s : State) : Host.Outcome State Fault Refusal :=
  .next (s.refusalReceive d)
/-- `LINK_WATCHDOG_EXPIRE` (R420). -/
def execLinkWatchdogExpire (kind d n : Nat) (s : State) : Host.Outcome State Fault Refusal :=
  .next (s.watchdog kind d n)
/-- `KEY_SWITCH` (R417). -/
def execKeySwitch (d p : Nat) (s : State) : Host.Outcome State Fault Refusal :=
  .next (s.keySwitch d p)
/-- `LINK_SELFTEST_END` (R419). -/
def execLinkSelftestEnd (d p result : Nat) (s : State) : Host.Outcome State Fault Refusal :=
  .next (s.linkSelftest d p result)
/-- `TIME_FLIT_SEND` (R421). -/
def execTimeFlitSend (d p : Nat) (s : State) : Host.Outcome State Fault Refusal :=
  .next (s.timeFlit d p)
/-- `CLGRP_WRITE` (R424). -/
def execClgrpWrite (d k w : Nat) (v : Word) (s : State) : Host.Outcome State Fault Refusal :=
  .next (s.writeClgrp d k w true v)
/-- `CLSIDX_WRITE` (R437). -/
def execClsidxWrite (d : Nat) (v : Word) (s : State) : Host.Outcome State Fault Refusal :=
  .next (s.writeClsidx d v)
/-- `CLAIM_PROPOSAL_ARRIVE` (R430). -/
def execClaimProposalArrive (d : Nat) (src : BitVec 18) (payload : Line) (s : State) : Host.Outcome State Fault Refusal :=
  let m : ClaimMsg := { src := src, payload := payload }
  .next ((s.claimsPast d).claimArrive d m 1 fun s => s.proposalArrives d m)
/-- `CLAIM_OBJECTION_ARRIVE` (R433). -/
def execClaimObjectionArrive (d : Nat) (src : BitVec 18) (payload : Line) (s : State) : Host.Outcome State Fault Refusal :=
  let m : ClaimMsg := { src := src, payload := payload }
  .next ((s.claimsPast d).claimArrive d m 2 fun s => s.objectionArrives d m)
/-- `CLAIM_EFFECT` (R432, R434). -/
def execClaimEffect (d : Nat) (s : State) : Host.Outcome State Fault Refusal :=
  .next (s.claimEffects d)
/-- `LATE_NOTICE_ARRIVE` (R433). -/
def execLateNoticeArrive (d : Nat) (src : BitVec 18) (payload : Line) (s : State) : Host.Outcome State Fault Refusal :=
  let m : ClaimMsg := { src := src, payload := payload }
  .next ((s.claimsPast d).claimArrive d m 3 fun s => s.lateArrives d m)
/-- `BREAK_NOTICE_ARRIVE` (R435). -/
def execBreakNoticeArrive (d : Nat) (src : BitVec 18) (payload : Line) (s : State) : Host.Outcome State Fault Refusal :=
  let m : ClaimMsg := { src := src, payload := payload }
  .next ((s.claimsPast d).claimArrive d m 4 fun s => s.breakArrives d m)
/-- `GUEST_TRAIN` (R446, R449). -/
def execGuestTrain (d : Nat) (s : State) : Host.Outcome State Fault Refusal :=
  .next (s.writeGsctl d 1)
/-- `GUEST_RESET` (R446, R449). -/
def execGuestReset (d : Nat) (s : State) : Host.Outcome State Fault Refusal :=
  .next (s.writeGsctl d 2)
/-- `GUEST_TRAIN_COMPLETE` (R446). -/
def execGuestTrainComplete (d : Nat) (s : State) : Host.Outcome State Fault Refusal :=
  .next (s.guestTrained d)
/-- `GUEST_TRAIN_FAIL` (R446). -/
def execGuestTrainFail (d : Nat) (s : State) : Host.Outcome State Fault Refusal :=
  .next (s.guestTrainFails d)
/-! A duty of the guest whose limit has passed fences the socket before anything else comes from it or goes to it (R445, R448, R451). -/

/-- `PKT` (R442, R444). -/
def execPkt (d : Nat) (s : State) : Host.Outcome State Fault Refusal :=
  .next ((s.dutyTimeout d).guestDeliver d)
/-- `GUEST_REQUEST` (R440, R441). -/
def execGuestRequest (d code : Nat) (addr : BitVec 52) (data : Line) (s : State) : Host.Outcome State Fault Refusal :=
  .next ((s.dutyTimeout d).guestRequest d code addr data)
/-- `CPL` (R443). -/
def execCpl (d : Nat) (bytes : List Byte) (s : State) : Host.Outcome State Fault Refusal :=
  .next ((s.dutyTimeout d).guestSays d 0x10 bytes)
/-- `FLT` (R443). -/
def execFlt (d : Nat) (bytes : List Byte) (s : State) : Host.Outcome State Fault Refusal :=
  .next ((s.dutyTimeout d).guestSays d 0x11 bytes)
/-- `INVACK` (R445). -/
def execInvack (d : Nat) (bytes : List Byte) (s : State) : Host.Outcome State Fault Refusal :=
  .next ((s.dutyTimeout d).guestSays d 0x12 bytes)
/-- `CKPT` (R445). -/
def execCkpt (d : Nat) (bytes : List Byte) (s : State) : Host.Outcome State Fault Refusal :=
  .next ((s.dutyTimeout d).guestSays d 0x13 bytes)
/-- `GUEST_PREEMPT` (R445, R449). -/
def execGuestPreempt (d x : Nat) (s : State) : Host.Outcome State Fault Refusal :=
  .next (s.writeGpre d (BitVec.ofNat 64 (x % 2 ^ 16 * 2 ^ 48 + 1)))
/-- `GUEST_RESUME` (R445, R449). -/
def execGuestResume (d x : Nat) (s : State) : Host.Outcome State Fault Refusal :=
  .next (s.writeGpre d (BitVec.ofNat 64 (x % 2 ^ 16 * 2 ^ 48 + 2)))
/-- `GUEST_DUTY_TIMEOUT` (R445). -/
def execGuestDutyTimeout (d : Nat) (s : State) : Host.Outcome State Fault Refusal :=
  .next (s.dutyTimeout d)
/-- `GUEST_LINK_LOSS` (R446, R448). -/
def execGuestLinkLoss (d : Nat) (s : State) : Host.Outcome State Fault Refusal :=
  .next (s.guestLinkLoss d)
/-- `PACKAGE_RESET` (R464). -/
def execPackageReset (s : State) : Host.Outcome State Fault Refusal :=
  .next (s.packageReset)
/-- `DIE_RESET` (R464). -/
def execDieReset (d : Nat) (s : State) : Host.Outcome State Fault Refusal :=
  .next (s.dieReset d)
/-- `DIE_BOOT` (R465). -/
def execDieBoot (d : Nat) (ok : Bool) (s : State) : Host.Outcome State Fault Refusal :=
  .next (s.dieBoot d ok)
/-- `RECOVERY_PIECE` (R467). -/
def execRecoveryPiece (d : Nat) (v : Word) (s : State) : Host.Outcome State Fault Refusal :=
  .next (s.recoveryPiece d v)
/-- `RECOVERY_END` (R467). -/
def execRecoveryEnd (d : Nat) (v : Word) (s : State) : Host.Outcome State Fault Refusal :=
  .next (s.recoveryEnd d v)
/-- `PROVISION` (R468). -/
def execProvision (s : State) : Host.Outcome State Fault Refusal :=
  .next (s.lcCommand 1)
/-- `DEPLOY` (R468). -/
def execDeploy (s : State) : Host.Outcome State Fault Refusal :=
  .next (s.lcCommand 2)
/-- `RETURN` (R468). -/
def execLcReturn (s : State) : Host.Outcome State Fault Refusal :=
  .next (s.lcCommand 3)
/-- `CORE_PARITY_ERROR` (R469). -/
def execCoreParityError (c : Nat) (s : State) : Host.Outcome State Fault Refusal :=
  .next (s.coreParity c)
/-- `WHORL_WATCHDOG` (R469). -/
def execWhorlWatchdog (d : Nat) (s : State) : Host.Outcome State Fault Refusal :=
  .next (s.dieFence d)
/-- `FENCE_SELFTEST_END` (R469). -/
def execFenceSelftestEnd (die : Bool) (n : Nat) (lasting : Bool) (creel p : Nat) (s : State) : Host.Outcome State Fault Refusal :=
  .next (s.fenceSelftest die n lasting creel p)
/-- `THROTTLE_ENTER` (R471). -/
def execThrottleEnter (d : Nat) (t : BitVec 8) (s : State) : Host.Outcome State Fault Refusal :=
  .next (s.throttleEnter d t)
/-- `THROTTLE_EXIT` (R471). -/
def execThrottleExit (d : Nat) (t : BitVec 8) (s : State) : Host.Outcome State Fault Refusal :=
  .next (s.throttleExit d t)
/-- `THERMAL_FENCE` (R471). -/
def execThermalFence (d : Nat) (s : State) : Host.Outcome State Fault Refusal :=
  .next (s.dieFence d)
/-- `NEAR_STORE_PERFORM` (R192, R373). -/
def execNearStorePerform (guest : Option Nat) (n k : Nat) (bad : Bool) (s : State) : Host.Outcome State Fault Refusal :=
  .next (s.storePerform guest n k bad)
/-- `CACHE_MAINTENANCE_COMPLETE` (R216, R217). -/
def execCacheMaintenanceComplete (n d : Nat) (s : State) : Host.Outcome State Fault Refusal :=
  .next (s.maintDone n d)
/-- `GUEST_SNOOP_RESPONSE` (R373, R439). -/
def execGuestSnoopResponse (d loc : Nat) (s : State) : Host.Outcome State Fault Refusal :=
  .next (s.snoopAnswered d loc)
/-- `BOUNDARY_SCAN_INSTRUCTION` (R474). -/
def execBoundaryScanInstruction (code : Nat) (s : State) : Host.Outcome State Fault Refusal :=
  .next (s.boundaryScan code)

end Sys2Proof.Machine
end

