-- ==== Sys2Proof/Machine/SlotExec.lean ====
section
/-! DEFINITION. The meaning of each slot operation as the whole bundle of the sequencer at issue: one definition for each. -/

namespace Sys2Proof.Machine

/-- An operation as the whole bundle of the sequencer at issue ends in a next state: a trap is one too. -/
def State.runOne (s : State) (i : Instr) (m : Sem) (early : Early) : Host.Outcome State Fault Refusal :=
  .next (s.issueOne i m early)

/-- `S_ADD` (R104). -/
def execSAdd (x : LayA) (s : State) : Host.Outcome State Fault Refusal :=
  s.runOne (.sAdd x) (semSAdd x) noEarly
/-- `S_SUB` (R104). -/
def execSSub (x : LayA) (s : State) : Host.Outcome State Fault Refusal :=
  s.runOne (.sSub x) (semSSub x) noEarly
/-- `S_MUL` (R104). -/
def execSMul (x : LayA) (s : State) : Host.Outcome State Fault Refusal :=
  s.runOne (.sMul x) (semSMul x) noEarly
/-- `S_MULH` (R104). -/
def execSMulh (x : LayA) (s : State) : Host.Outcome State Fault Refusal :=
  s.runOne (.sMulh x) (semSMulh x) noEarly
/-- `S_MULHZ` (R104). -/
def execSMulhz (x : LayA) (s : State) : Host.Outcome State Fault Refusal :=
  s.runOne (.sMulhz x) (semSMulhz x) noEarly
/-- `S_DIV` (R105). -/
def execSDiv (x : LayA) (s : State) : Host.Outcome State Fault Refusal :=
  s.runOne (.sDiv x) (semSDiv x) noEarly
/-- `S_DIVZ` (R105). -/
def execSDivz (x : LayA) (s : State) : Host.Outcome State Fault Refusal :=
  s.runOne (.sDivz x) (semSDivz x) noEarly
/-- `S_REM` (R105). -/
def execSRem (x : LayA) (s : State) : Host.Outcome State Fault Refusal :=
  s.runOne (.sRem x) (semSRem x) noEarly
/-- `S_AND` (R104). -/
def execSAnd (x : LayA) (s : State) : Host.Outcome State Fault Refusal :=
  s.runOne (.sAnd x) (semSAnd x) noEarly
/-- `S_OR` (R104). -/
def execSOr (x : LayA) (s : State) : Host.Outcome State Fault Refusal :=
  s.runOne (.sOr x) (semSOr x) noEarly
/-- `S_XOR` (R104). -/
def execSXor (x : LayA) (s : State) : Host.Outcome State Fault Refusal :=
  s.runOne (.sXor x) (semSXor x) noEarly
/-- `S_ANDN` (R104). -/
def execSAndn (x : LayA) (s : State) : Host.Outcome State Fault Refusal :=
  s.runOne (.sAndn x) (semSAndn x) noEarly
/-- `S_SHL` (R104). -/
def execSShl (x : LayA) (s : State) : Host.Outcome State Fault Refusal :=
  s.runOne (.sShl x) (semSShl x) noEarly
/-- `S_SHR` (R104). -/
def execSShr (x : LayA) (s : State) : Host.Outcome State Fault Refusal :=
  s.runOne (.sShr x) (semSShr x) noEarly
/-- `S_SRA` (R104). -/
def execSSra (x : LayA) (s : State) : Host.Outcome State Fault Refusal :=
  s.runOne (.sSra x) (semSSra x) noEarly
/-- `S_ROT` (R104). -/
def execSRot (x : LayA) (s : State) : Host.Outcome State Fault Refusal :=
  s.runOne (.sRot x) (semSRot x) noEarly
/-- `S_CLZ` (R104). -/
def execSClz (x : LayA) (s : State) : Host.Outcome State Fault Refusal :=
  s.runOne (.sClz x) (semSClz x) noEarly
/-- `S_CTZ` (R104). -/
def execSCtz (x : LayA) (s : State) : Host.Outcome State Fault Refusal :=
  s.runOne (.sCtz x) (semSCtz x) noEarly
/-- `S_POPC` (R104). -/
def execSPopc (x : LayA) (s : State) : Host.Outcome State Fault Refusal :=
  s.runOne (.sPopc x) (semSPopc x) noEarly
/-- `S_MIN` (R104). -/
def execSMin (x : LayA) (s : State) : Host.Outcome State Fault Refusal :=
  s.runOne (.sMin x) (semSMin x) noEarly
/-- `S_MAX` (R104). -/
def execSMax (x : LayA) (s : State) : Host.Outcome State Fault Refusal :=
  s.runOne (.sMax x) (semSMax x) noEarly
/-- `S_MINZ` (R104). -/
def execSMinz (x : LayA) (s : State) : Host.Outcome State Fault Refusal :=
  s.runOne (.sMinz x) (semSMinz x) noEarly
/-- `S_MAXZ` (R104). -/
def execSMaxz (x : LayA) (s : State) : Host.Outcome State Fault Refusal :=
  s.runOne (.sMaxz x) (semSMaxz x) noEarly
/-- `S_CMP` (R107). -/
def execSCmp (x : LayC) (s : State) : Host.Outcome State Fault Refusal :=
  s.runOne (.sCmp x) (semSCmp x) noEarly
/-- `S_SEL` (R108). -/
def execSSel (x : LayS) (s : State) : Host.Outcome State Fault Refusal :=
  s.runOne (.sSel x) (semSSel x) noEarly
/-- `S_LI` (R109). -/
def execSLi (x : LayK) (s : State) : Host.Outcome State Fault Refusal :=
  s.runOne (.sLi x) (semSLi x) noEarly
/-- `S_LIH` (R109). -/
def execSLih (x : LayH) (s : State) : Host.Outcome State Fault Refusal :=
  s.runOne (.sLih x) (semSLih x) noEarly
/-- `S_EXT` (R110). -/
def execSExt (x : LayF) (s : State) : Host.Outcome State Fault Refusal :=
  s.runOne (.sExt x) (semSExt x) noEarly
/-- `S_INS` (R110). -/
def execSIns (x : LayF) (s : State) : Host.Outcome State Fault Refusal :=
  s.runOne (.sIns x) (semSIns x) noEarly
/-- `S_BR` (R111). -/
def execSBr (x : LayB) (s : State) : Host.Outcome State Fault Refusal :=
  s.runOne (.sBr x) (semSBr x) noEarly
/-- `S_BRC` (R111). -/
def execSBrc (x : LayJ) (s : State) : Host.Outcome State Fault Refusal :=
  s.runOne (.sBrc x) (semSBrc x) noEarly
/-- `S_CALL` (R111). -/
def execSCall (x : LayB) (s : State) : Host.Outcome State Fault Refusal :=
  s.runOne (.sCall x) (semSCall x) noEarly
/-- `S_RET` (R111). -/
def execSRet (x : LayZ) (s : State) : Host.Outcome State Fault Refusal :=
  s.runOne (.sRet x) (semSRet x) noEarly
/-- `S_JR` (R111). -/
def execSJr (x : LayI) (s : State) : Host.Outcome State Fault Refusal :=
  s.runOne (.sJr x) (semSJr x) noEarly
/-- `S_LOOP` (R115). -/
def execSLoop (x : LayP) (s : State) : Host.Outcome State Fault Refusal :=
  s.runOne (.sLoop x) (semSLoop x) noEarly
/-- `S_LBRK` (R118). -/
def execSLbrk (x : LayQ) (s : State) : Host.Outcome State Fault Refusal :=
  s.runOne (.sLbrk x) (semSLbrk x) noEarly
/-- `S_RDSR` (R119). -/
def execSRdsr (x : LayT) (s : State) : Host.Outcome State Fault Refusal :=
  s.runOne (.sRdsr x) (semSRdsr x) noEarly
/-- `S_WRSR` (R121). -/
def execSWrsr (x : LayT) (s : State) : Host.Outcome State Fault Refusal :=
  s.runOne (.sWrsr x) (semSWrsr x) noEarly
/-- `S_FROMV` (R122). -/
def execSFromv (x : LayV) (s : State) : Host.Outcome State Fault Refusal :=
  s.runOne (.sFromv x) (semSFromv x) noEarly
/-- `S_FROMA` (R123). -/
def execSFroma (x : LayM) (s : State) : Host.Outcome State Fault Refusal :=
  s.runOne (.sFroma x) (semSFroma x) noEarly
/-- `VADD` (R135). -/
def execVadd (v : VSide) (x : VFields) (s : State) : Host.Outcome State Fault Refusal :=
  s.runOne (.vadd v x) (semVadd v x) noEarly
/-- `VSUB` (R135). -/
def execVsub (v : VSide) (x : VFields) (s : State) : Host.Outcome State Fault Refusal :=
  s.runOne (.vsub v x) (semVsub v x) noEarly
/-- `VMUL` (R135). -/
def execVmul (v : VSide) (x : VFields) (s : State) : Host.Outcome State Fault Refusal :=
  s.runOne (.vmul v x) (semVmul v x) noEarly
/-- `VFMA` (R135). -/
def execVfma (v : VSide) (x : VFields) (s : State) : Host.Outcome State Fault Refusal :=
  s.runOne (.vfma v x) (semVfma v x) noEarly
/-- `VFMS` (R135). -/
def execVfms (v : VSide) (x : VFields) (s : State) : Host.Outcome State Fault Refusal :=
  s.runOne (.vfms v x) (semVfms v x) noEarly
/-- `VFNMA` (R135). -/
def execVfnma (v : VSide) (x : VFields) (s : State) : Host.Outcome State Fault Refusal :=
  s.runOne (.vfnma v x) (semVfnma v x) noEarly
/-- `VMIN` (R137). -/
def execVmin (v : VSide) (x : VFields) (s : State) : Host.Outcome State Fault Refusal :=
  s.runOne (.vmin v x) (semVmin v x) noEarly
/-- `VMAX` (R137). -/
def execVmax (v : VSide) (x : VFields) (s : State) : Host.Outcome State Fault Refusal :=
  s.runOne (.vmax v x) (semVmax v x) noEarly
/-- `VABS` (R138). -/
def execVabs (v : VSide) (x : VFields) (s : State) : Host.Outcome State Fault Refusal :=
  s.runOne (.vabs v x) (semVabs v x) noEarly
/-- `VNEG` (R138). -/
def execVneg (v : VSide) (x : VFields) (s : State) : Host.Outcome State Fault Refusal :=
  s.runOne (.vneg v x) (semVneg v x) noEarly
/-- `VCMP` (R139). -/
def execVcmp (v : VSide) (x : VFields) (s : State) : Host.Outcome State Fault Refusal :=
  s.runOne (.vcmp v x) (semVcmp v x) noEarly
/-- `VCLASS` (R140). -/
def execVclass (v : VSide) (x : VFields) (s : State) : Host.Outcome State Fault Refusal :=
  s.runOne (.vclass v x) (semVclass v x) noEarly
/-- `VRCP` (R135). -/
def execVrcp (v : VSide) (x : VFields) (s : State) : Host.Outcome State Fault Refusal :=
  s.runOne (.vrcp v x) (semVrcp v x) noEarly
/-- `VRSQRT` (R135). -/
def execVrsqrt (v : VSide) (x : VFields) (s : State) : Host.Outcome State Fault Refusal :=
  s.runOne (.vrsqrt v x) (semVrsqrt v x) noEarly
/-- `VSQRT` (R135). -/
def execVsqrt (v : VSide) (x : VFields) (s : State) : Host.Outcome State Fault Refusal :=
  s.runOne (.vsqrt v x) (semVsqrt v x) noEarly
/-- `VDIV` (R135). -/
def execVdiv (v : VSide) (x : VFields) (s : State) : Host.Outcome State Fault Refusal :=
  s.runOne (.vdiv v x) (semVdiv v x) noEarly
/-- `VEXP2` (R135). -/
def execVexp2 (v : VSide) (x : VFields) (s : State) : Host.Outcome State Fault Refusal :=
  s.runOne (.vexp2 v x) (semVexp2 v x) noEarly
/-- `VLOG2` (R135). -/
def execVlog2 (v : VSide) (x : VFields) (s : State) : Host.Outcome State Fault Refusal :=
  s.runOne (.vlog2 v x) (semVlog2 v x) noEarly
/-- `VRND` (R141). -/
def execVrnd (v : VSide) (x : VFields) (s : State) : Host.Outcome State Fault Refusal :=
  s.runOne (.vrnd v x) (semVrnd v x) noEarly
/-- `VSCALE` (R142). -/
def execVscale (v : VSide) (x : VFields) (s : State) : Host.Outcome State Fault Refusal :=
  s.runOne (.vscale v x) (semVscale v x) noEarly
/-- `VCVT` (R143). -/
def execVcvt (v : VSide) (x : VFields) (s : State) : Host.Outcome State Fault Refusal :=
  s.runOne (.vcvt v x) (semVcvt v x) noEarly
/-- `VREDSUM` (R144). -/
def execVredsum (v : VSide) (x : VFields) (s : State) : Host.Outcome State Fault Refusal :=
  s.runOne (.vredsum v x) (semVredsum v x) noEarly
/-- `VREDMAX` (R144). -/
def execVredmax (v : VSide) (x : VFields) (s : State) : Host.Outcome State Fault Refusal :=
  s.runOne (.vredmax v x) (semVredmax v x) noEarly
/-- `VREDMIN` (R144). -/
def execVredmin (v : VSide) (x : VFields) (s : State) : Host.Outcome State Fault Refusal :=
  s.runOne (.vredmin v x) (semVredmin v x) noEarly
/-- `VIADD` (R145). -/
def execViadd (v : VSide) (x : VFields) (s : State) : Host.Outcome State Fault Refusal :=
  s.runOne (.viadd v x) (semViadd v x) noEarly
/-- `VISUB` (R145). -/
def execVisub (v : VSide) (x : VFields) (s : State) : Host.Outcome State Fault Refusal :=
  s.runOne (.visub v x) (semVisub v x) noEarly
/-- `VIMUL` (R145). -/
def execVimul (v : VSide) (x : VFields) (s : State) : Host.Outcome State Fault Refusal :=
  s.runOne (.vimul v x) (semVimul v x) noEarly
/-- `VIMULH` (R145). -/
def execVimulh (v : VSide) (x : VFields) (s : State) : Host.Outcome State Fault Refusal :=
  s.runOne (.vimulh v x) (semVimulh v x) noEarly
/-- `VIMAD` (R145). -/
def execVimad (v : VSide) (x : VFields) (s : State) : Host.Outcome State Fault Refusal :=
  s.runOne (.vimad v x) (semVimad v x) noEarly
/-- `VAND` (R145). -/
def execVand (v : VSide) (x : VFields) (s : State) : Host.Outcome State Fault Refusal :=
  s.runOne (.vand v x) (semVand v x) noEarly
/-- `VOR` (R145). -/
def execVor (v : VSide) (x : VFields) (s : State) : Host.Outcome State Fault Refusal :=
  s.runOne (.vor v x) (semVor v x) noEarly
/-- `VXOR` (R145). -/
def execVxor (v : VSide) (x : VFields) (s : State) : Host.Outcome State Fault Refusal :=
  s.runOne (.vxor v x) (semVxor v x) noEarly
/-- `VANDN` (R145). -/
def execVandn (v : VSide) (x : VFields) (s : State) : Host.Outcome State Fault Refusal :=
  s.runOne (.vandn v x) (semVandn v x) noEarly
/-- `VSHL` (R145). -/
def execVshl (v : VSide) (x : VFields) (s : State) : Host.Outcome State Fault Refusal :=
  s.runOne (.vshl v x) (semVshl v x) noEarly
/-- `VSHR` (R145). -/
def execVshr (v : VSide) (x : VFields) (s : State) : Host.Outcome State Fault Refusal :=
  s.runOne (.vshr v x) (semVshr v x) noEarly
/-- `VSRA` (R145). -/
def execVsra (v : VSide) (x : VFields) (s : State) : Host.Outcome State Fault Refusal :=
  s.runOne (.vsra v x) (semVsra v x) noEarly
/-- `VIMIN` (R145). -/
def execVimin (v : VSide) (x : VFields) (s : State) : Host.Outcome State Fault Refusal :=
  s.runOne (.vimin v x) (semVimin v x) noEarly
/-- `VIMAX` (R145). -/
def execVimax (v : VSide) (x : VFields) (s : State) : Host.Outcome State Fault Refusal :=
  s.runOne (.vimax v x) (semVimax v x) noEarly
/-- `VPOPC` (R145). -/
def execVpopc (v : VSide) (x : VFields) (s : State) : Host.Outcome State Fault Refusal :=
  s.runOne (.vpopc v x) (semVpopc v x) noEarly
/-- `VCLZ` (R145). -/
def execVclz (v : VSide) (x : VFields) (s : State) : Host.Outcome State Fault Refusal :=
  s.runOne (.vclz v x) (semVclz v x) noEarly
/-- `VICMP` (R145). -/
def execVicmp (v : VSide) (x : VFields) (s : State) : Host.Outcome State Fault Refusal :=
  s.runOne (.vicmp v x) (semVicmp v x) noEarly
/-- `VPERM` (R146). -/
def execVperm (v : VSide) (x : VFields) (s : State) : Host.Outcome State Fault Refusal :=
  s.runOne (.vperm v x) (semVperm v x) noEarly
/-- `VBCAST` (R146). -/
def execVbcast (v : VSide) (x : VFields) (s : State) : Host.Outcome State Fault Refusal :=
  s.runOne (.vbcast v x) (semVbcast v x) noEarly
/-- `VLSH` (R146). -/
def execVlsh (v : VSide) (x : VFields) (s : State) : Host.Outcome State Fault Refusal :=
  s.runOne (.vlsh v x) (semVlsh v x) noEarly
/-- `VZIP` (R146). -/
def execVzip (v : VSide) (x : VFields) (s : State) : Host.Outcome State Fault Refusal :=
  s.runOne (.vzip v x) (semVzip v x) noEarly
/-- `VUNZIP` (R146). -/
def execVunzip (v : VSide) (x : VFields) (s : State) : Host.Outcome State Fault Refusal :=
  s.runOne (.vunzip v x) (semVunzip v x) noEarly
/-- `VREV` (R146). -/
def execVrev (v : VSide) (x : VFields) (s : State) : Host.Outcome State Fault Refusal :=
  s.runOne (.vrev v x) (semVrev v x) noEarly
/-- `VSEL` (R146). -/
def execVsel (v : VSide) (x : VFields) (s : State) : Host.Outcome State Fault Refusal :=
  s.runOne (.vsel v x) (semVsel v x) noEarly
/-- `VCOMPRESS` (R146). -/
def execVcompress (v : VSide) (x : VFields) (s : State) : Host.Outcome State Fault Refusal :=
  s.runOne (.vcompress v x) (semVcompress v x) noEarly
/-- `VEXPAND` (R146). -/
def execVexpand (v : VSide) (x : VFields) (s : State) : Host.Outcome State Fault Refusal :=
  s.runOne (.vexpand v x) (semVexpand v x) noEarly
/-- `PAND` (R147). -/
def execPand (v : VSide) (x : VFields) (s : State) : Host.Outcome State Fault Refusal :=
  s.runOne (.pand v x) (semPand v x) noEarly
/-- `POR` (R147). -/
def execPor (v : VSide) (x : VFields) (s : State) : Host.Outcome State Fault Refusal :=
  s.runOne (.por v x) (semPor v x) noEarly
/-- `PXOR` (R147). -/
def execPxor (v : VSide) (x : VFields) (s : State) : Host.Outcome State Fault Refusal :=
  s.runOne (.pxor v x) (semPxor v x) noEarly
/-- `PNOT` (R147). -/
def execPnot (v : VSide) (x : VFields) (s : State) : Host.Outcome State Fault Refusal :=
  s.runOne (.pnot v x) (semPnot v x) noEarly
/-- `PCNT` (R147). -/
def execPcnt (v : VSide) (x : VFields) (s : State) : Host.Outcome State Fault Refusal :=
  s.runOne (.pcnt v x) (semPcnt v x) noEarly
/-- `PFIRST` (R147). -/
def execPfirst (v : VSide) (x : VFields) (s : State) : Host.Outcome State Fault Refusal :=
  s.runOne (.pfirst v x) (semPfirst v x) noEarly
/-- `PSET` (R147). -/
def execPset (v : VSide) (x : VFields) (s : State) : Host.Outcome State Fault Refusal :=
  s.runOne (.pset v x) (semPset v x) noEarly
/-- `VQNT` (R149). -/
def execVqnt (v : VSide) (x : VFields) (s : State) : Host.Outcome State Fault Refusal :=
  s.runOne (.vqnt v x) (semVqnt v x) noEarly
/-- `VGMAX` (R148). -/
def execVgmax (v : VSide) (x : VFields) (s : State) : Host.Outcome State Fault Refusal :=
  s.runOne (.vgmax v x) (semVgmax v x) noEarly
/-- `TOS` (R150). -/
def execTos (v : VSide) (x : VFields) (s : State) : Host.Outcome State Fault Refusal :=
  s.runOne (.tos v x) (semTos v x) noEarly
/-- `FROMS` (R151). -/
def execFroms (v : VSide) (x : VFields) (s : State) : Host.Outcome State Fault Refusal :=
  s.runOne (.froms v x) (semFroms v x) noEarly
/-- `M_MMA` (R161). -/
def execMMma (x : LayMma) (s : State) : Host.Outcome State Fault Refusal :=
  s.runOne (.mMma x) (semMMma x) noEarly
/-- `M_MMS` (R165). -/
def execMMms (x : LayMma) (s : State) : Host.Outcome State Fault Refusal :=
  s.runOne (.mMms x) (semMMms x) noEarly
/-- `M_ZERO` (R169). -/
def execMZero (x : LayMT) (s : State) : Host.Outcome State Fault Refusal :=
  s.runOne (.mZero x) (semMZero x) noEarly
/-- `M_ACC` (R170). -/
def execMAcc (x : LayMAcc) (s : State) : Host.Outcome State Fault Refusal :=
  s.runOne (.mAcc x) (semMAcc x) noEarly
/-- `M_RD` (R171). -/
def execMRd (x : LayMRd) (s : State) : Host.Outcome State Fault Refusal :=
  s.runOne (.mRd x) (semMRd x) noEarly
/-- `M_WR` (R172). -/
def execMWr (x : LayMWr) (s : State) : Host.Outcome State Fault Refusal :=
  s.runOne (.mWr x) (semMWr x) noEarly
/-- `M_ST` (R173). -/
def execMSt (x : LayMOff) (s : State) : Host.Outcome State Fault Refusal :=
  s.runOne (.mSt x) (semMSt x) noEarly
/-- `M_FMT` (R168). -/
def execMFmt (x : LayMFmt) (s : State) : Host.Outcome State Fault Refusal :=
  s.runOne (.mFmt x) (semMFmt x) noEarly
/-- `M_SAVE` (R177). -/
def execMSave (x : LayMOff) (s : State) : Host.Outcome State Fault Refusal :=
  s.runOne (.mSave x) (semMSave x) noEarly
/-- `M_REST` (R177). -/
def execMRest (x : LayMOff) (s : State) : Host.Outcome State Fault Refusal :=
  s.runOne (.mRest x) (semMRest x) noEarly
/-- `M_WAIT` (R174). -/
def execMWait (x : LayMT) (s : State) : Host.Outcome State Fault Refusal :=
  s.runOne (.mWait x) (semMWait x) noEarly
/-- `L_S` (R185). -/
def execLS (x : LayL) (s : State) : Host.Outcome State Fault Refusal :=
  s.runOne (.lS x) (semLS x) noEarly
/-- `L_V` (R185). -/
def execLV (x : LayL) (s : State) : Host.Outcome State Fault Refusal :=
  s.runOne (.lV x) (semLV x) noEarly
/-- `L_VP` (R185). -/
def execLVp (x : LayL) (s : State) : Host.Outcome State Fault Refusal :=
  s.runOne (.lVp x) (semLVp x) noEarly
/-- `L_G` (R186). -/
def execLG (x : LayLG) (s : State) : Host.Outcome State Fault Refusal :=
  s.runOne (.lG x) (semLG x) noEarly
/-- `L_B` (R185). -/
def execLB (x : LayL) (s : State) : Host.Outcome State Fault Refusal :=
  s.runOne (.lB x) (semLB x) noEarly
/-- `L_FE` (R187). -/
def execLFe (x : LayL) (s : State) : Host.Outcome State Fault Refusal :=
  s.runOne (.lFe x) (semLFe x) (earlyLFe x)
/-- `L_SCL` (R188). -/
def execLScl (x : LayLAn) (s : State) : Host.Outcome State Fault Refusal :=
  s.runOne (.lScl x) (semLScl x) noEarly
/-- `L_RCV` (R189). -/
def execLRcv (x : LayLRcv) (s : State) : Host.Outcome State Fault Refusal :=
  s.runOne (.lRcv x) (semLRcv x) noEarly
/-- `L_AADD` (R190). -/
def execLAadd (x : LayLAadd) (s : State) : Host.Outcome State Fault Refusal :=
  s.runOne (.lAadd x) (semLAadd x) noEarly
/-- `L_ALI` (R190). -/
def execLAli (x : LayLAli) (s : State) : Host.Outcome State Fault Refusal :=
  s.runOne (.lAli x) (semLAli x) noEarly
/-- `L_AMOV` (R190). -/
def execLAmov (x : LayLAmov) (s : State) : Host.Outcome State Fault Refusal :=
  s.runOne (.lAmov x) (semLAmov x) noEarly
/-- `L_MPC` (R190). -/
def execLMpc (x : LayLAn) (s : State) : Host.Outcome State Fault Refusal :=
  s.runOne (.lMpc x) (semLMpc x) noEarly
/-- `W_S` (R192). -/
def execWS (x : LayW) (s : State) : Host.Outcome State Fault Refusal :=
  s.runOne (.wS x) (semWS x) noEarly
/-- `W_V` (R192). -/
def execWV (x : LayW) (s : State) : Host.Outcome State Fault Refusal :=
  s.runOne (.wV x) (semWV x) noEarly
/-- `W_VP` (R192). -/
def execWVp (x : LayW) (s : State) : Host.Outcome State Fault Refusal :=
  s.runOne (.wVp x) (semWVp x) noEarly
/-- `W_SC` (R193). -/
def execWSc (x : LayWSc) (s : State) : Host.Outcome State Fault Refusal :=
  s.runOne (.wSc x) (semWSc x) noEarly
/-- `W_FE` (R194). -/
def execWFe (x : LayW) (s : State) : Host.Outcome State Fault Refusal :=
  s.runOne (.wFe x) (semWFe x) (earlyWFe x)
/-- `W_ATOM` (R197). -/
def execWAtom (x : LayWAtom) (s : State) : Host.Outcome State Fault Refusal :=
  s.runOne (.wAtom x) (semWAtom x) noEarly
/-- `W_CAS` (R198). -/
def execWCas (x : LayWCas) (s : State) : Host.Outcome State Fault Refusal :=
  s.runOne (.wCas x) (semWCas x) noEarly
/-- `W_RED` (R199). -/
def execWRed (x : LayWRed) (s : State) : Host.Outcome State Fault Refusal :=
  s.runOne (.wRed x) (semWRed x) noEarly
/-- `W_SND` (R202). -/
def execWSnd (x : LayWSnd) (s : State) : Host.Outcome State Fault Refusal :=
  s.runOne (.wSnd x) (semWSnd x) noEarly
/-- `C_SHP` (R206). -/
def execCShp (x : LayCShp) (s : State) : Host.Outcome State Fault Refusal :=
  s.runOne (.cShp x) (semCShp x) noEarly
/-- `C_GO` (R207). -/
def execCGo (x : LayCGo) (s : State) : Host.Outcome State Fault Refusal :=
  s.runOne (.cGo x) (semCGo x) noEarly
/-- `C_RING` (R211). -/
def execCRing (x : LayCRing) (s : State) : Host.Outcome State Fault Refusal :=
  s.runOne (.cRing x) (semCRing x) noEarly
/-- `C_ICINV` (R216). -/
def execCIcinv (x : LayCIc) (s : State) : Host.Outcome State Fault Refusal :=
  s.runOne (.cIcinv x) (semCIcinv x) noEarly
/-- `C_L2WB` (R217). -/
def execCL2wb (x : LayCL2) (s : State) : Host.Outcome State Fault Refusal :=
  s.runOne (.cL2wb x) (semCL2wb x) noEarly
/-- `C_L2INV` (R217). -/
def execCL2inv (x : LayCL2) (s : State) : Host.Outcome State Fault Refusal :=
  s.runOne (.cL2inv x) (semCL2inv x) noEarly
/-- `C_GQ` (R218). -/
def execCGq (x : LayCGq) (s : State) : Host.Outcome State Fault Refusal :=
  s.runOne (.cGq x) (semCGq x) noEarly
/-- `C_SEAL` (R214). -/
def execCSeal (x : LayCSeal) (s : State) : Host.Outcome State Fault Refusal :=
  s.runOne (.cSeal x) (semCSeal x) noEarly
/-- `Y_TLWAIT` (R224). -/
def execYTlwait (x : LayYTl) (s : State) : Host.Outcome State Fault Refusal :=
  s.runOne (.yTlwait x) (semYTlwait x) noEarly
/-- `Y_TLADV` (R225). -/
def execYTladv (x : LayYTl) (s : State) : Host.Outcome State Fault Refusal :=
  s.runOne (.yTladv x) (semYTladv x) noEarly
/-- `Y_TLREAD` (R226). -/
def execYTlread (x : LayYTlr) (s : State) : Host.Outcome State Fault Refusal :=
  s.runOne (.yTlread x) (semYTlread x) noEarly
/-- `Y_PHREG` (R227). -/
def execYPhreg (x : LayYPhr) (s : State) : Host.Outcome State Fault Refusal :=
  s.runOne (.yPhreg x) (semYPhreg x) noEarly
/-- `Y_PHDROP` (R227). -/
def execYPhdrop (x : LayYPh) (s : State) : Host.Outcome State Fault Refusal :=
  s.runOne (.yPhdrop x) (semYPhdrop x) noEarly
/-- `Y_PHSIG` (R227). -/
def execYPhsig (x : LayYPh) (s : State) : Host.Outcome State Fault Refusal :=
  s.runOne (.yPhsig x) (semYPhsig x) noEarly
/-- `Y_PHWAIT` (R227). -/
def execYPhwait (x : LayYPh) (s : State) : Host.Outcome State Fault Refusal :=
  s.runOne (.yPhwait x) (semYPhwait x) noEarly
/-- `Y_FENCE` (R228). -/
def execYFence (x : LayYScope) (s : State) : Host.Outcome State Fault Refusal :=
  s.runOne (.yFence x) (semYFence x) noEarly
/-- `Y_DRAIN` (R229). -/
def execYDrain (x : LayYScope) (s : State) : Host.Outcome State Fault Refusal :=
  s.runOne (.yDrain x) (semYDrain x) noEarly
/-- `Y_CLM` (R232). -/
def execYClm (x : LayYClm) (s : State) : Host.Outcome State Fault Refusal :=
  s.runOne (.yClm x) (semYClm x) noEarly
/-- `Y_OBJ` (R232). -/
def execYObj (x : LayYObj) (s : State) : Host.Outcome State Fault Refusal :=
  s.runOne (.yObj x) (semYObj x) noEarly
/-- `Y_CLWAIT` (R232). -/
def execYClwait (x : LayYObj) (s : State) : Host.Outcome State Fault Refusal :=
  s.runOne (.yClwait x) (semYClwait x) noEarly
/-- `Y_CLREAD` (R232). -/
def execYClread (x : LayYClr) (s : State) : Host.Outcome State Fault Refusal :=
  s.runOne (.yClread x) (semYClread x) noEarly
/-- `Y_SPAWN` (R233). -/
def execYSpawn (x : LayYSpawn) (s : State) : Host.Outcome State Fault Refusal :=
  s.runOne (.ySpawn x) (semYSpawn x) noEarly
/-- `Y_JOIN` (R234). -/
def execYJoin (x : LayYJoin) (s : State) : Host.Outcome State Fault Refusal :=
  s.runOne (.yJoin x) (semYJoin x) noEarly
/-- `Y_RETIRE` (R235). -/
def execYRetire (x : LayYNone) (s : State) : Host.Outcome State Fault Refusal :=
  s.runOne (.yRetire x) (semYRetire x) noEarly
/-- `Y_TRAP` (R242). -/
def execYTrap (x : LayYImm) (s : State) : Host.Outcome State Fault Refusal :=
  s.runOne (.yTrap x) (semYTrap x) noEarly
/-- `Y_TRET` (R243). -/
def execYTret (x : LayYNone) (s : State) : Host.Outcome State Fault Refusal :=
  s.runOne (.yTret x) (semYTret x) noEarly
/-- `Y_GENINC` (R244). -/
def execYGeninc (x : LayYNone) (s : State) : Host.Outcome State Fault Refusal :=
  s.runOne (.yGeninc x) (semYGeninc x) noEarly
/-- `Y_EVT` (R245). -/
def execYEvt (x : LayYEvt) (s : State) : Host.Outcome State Fault Refusal :=
  s.runOne (.yEvt x) (semYEvt x) noEarly
/-- `Y_DBG` (R246). -/
def execYDbg (x : LayYImm) (s : State) : Host.Outcome State Fault Refusal :=
  s.runOne (.yDbg x) (semYDbg x) noEarly

end Sys2Proof.Machine
end

