-- ==== Sys2Proof/Machine/Dispatch.lean ====
section
/-! DEFINITION. From an instruction to its meaning: one arm for each row of the opcode table. -/

namespace Sys2Proof.Machine

def exec (i : Instr) (s : State) : Host.Outcome State Fault Refusal :=
  match i with
  | .sAdd x => Sys2Proof.Machine.execSAdd x s
  | .sSub x => Sys2Proof.Machine.execSSub x s
  | .sMul x => Sys2Proof.Machine.execSMul x s
  | .sMulh x => Sys2Proof.Machine.execSMulh x s
  | .sMulhz x => Sys2Proof.Machine.execSMulhz x s
  | .sDiv x => Sys2Proof.Machine.execSDiv x s
  | .sDivz x => Sys2Proof.Machine.execSDivz x s
  | .sRem x => Sys2Proof.Machine.execSRem x s
  | .sAnd x => Sys2Proof.Machine.execSAnd x s
  | .sOr x => Sys2Proof.Machine.execSOr x s
  | .sXor x => Sys2Proof.Machine.execSXor x s
  | .sAndn x => Sys2Proof.Machine.execSAndn x s
  | .sShl x => Sys2Proof.Machine.execSShl x s
  | .sShr x => Sys2Proof.Machine.execSShr x s
  | .sSra x => Sys2Proof.Machine.execSSra x s
  | .sRot x => Sys2Proof.Machine.execSRot x s
  | .sClz x => Sys2Proof.Machine.execSClz x s
  | .sCtz x => Sys2Proof.Machine.execSCtz x s
  | .sPopc x => Sys2Proof.Machine.execSPopc x s
  | .sMin x => Sys2Proof.Machine.execSMin x s
  | .sMax x => Sys2Proof.Machine.execSMax x s
  | .sMinz x => Sys2Proof.Machine.execSMinz x s
  | .sMaxz x => Sys2Proof.Machine.execSMaxz x s
  | .sCmp x => Sys2Proof.Machine.execSCmp x s
  | .sSel x => Sys2Proof.Machine.execSSel x s
  | .sLi x => Sys2Proof.Machine.execSLi x s
  | .sLih x => Sys2Proof.Machine.execSLih x s
  | .sExt x => Sys2Proof.Machine.execSExt x s
  | .sIns x => Sys2Proof.Machine.execSIns x s
  | .sBr x => Sys2Proof.Machine.execSBr x s
  | .sBrc x => Sys2Proof.Machine.execSBrc x s
  | .sCall x => Sys2Proof.Machine.execSCall x s
  | .sRet x => Sys2Proof.Machine.execSRet x s
  | .sJr x => Sys2Proof.Machine.execSJr x s
  | .sLoop x => Sys2Proof.Machine.execSLoop x s
  | .sLbrk x => Sys2Proof.Machine.execSLbrk x s
  | .sRdsr x => Sys2Proof.Machine.execSRdsr x s
  | .sWrsr x => Sys2Proof.Machine.execSWrsr x s
  | .sFromv x => Sys2Proof.Machine.execSFromv x s
  | .sFroma x => Sys2Proof.Machine.execSFroma x s
  | .vadd v x => Sys2Proof.Machine.execVadd v x s
  | .vsub v x => Sys2Proof.Machine.execVsub v x s
  | .vmul v x => Sys2Proof.Machine.execVmul v x s
  | .vfma v x => Sys2Proof.Machine.execVfma v x s
  | .vfms v x => Sys2Proof.Machine.execVfms v x s
  | .vfnma v x => Sys2Proof.Machine.execVfnma v x s
  | .vmin v x => Sys2Proof.Machine.execVmin v x s
  | .vmax v x => Sys2Proof.Machine.execVmax v x s
  | .vabs v x => Sys2Proof.Machine.execVabs v x s
  | .vneg v x => Sys2Proof.Machine.execVneg v x s
  | .vcmp v x => Sys2Proof.Machine.execVcmp v x s
  | .vclass v x => Sys2Proof.Machine.execVclass v x s
  | .vrcp v x => Sys2Proof.Machine.execVrcp v x s
  | .vrsqrt v x => Sys2Proof.Machine.execVrsqrt v x s
  | .vsqrt v x => Sys2Proof.Machine.execVsqrt v x s
  | .vdiv v x => Sys2Proof.Machine.execVdiv v x s
  | .vexp2 v x => Sys2Proof.Machine.execVexp2 v x s
  | .vlog2 v x => Sys2Proof.Machine.execVlog2 v x s
  | .vrnd v x => Sys2Proof.Machine.execVrnd v x s
  | .vscale v x => Sys2Proof.Machine.execVscale v x s
  | .vcvt v x => Sys2Proof.Machine.execVcvt v x s
  | .vredsum v x => Sys2Proof.Machine.execVredsum v x s
  | .vredmax v x => Sys2Proof.Machine.execVredmax v x s
  | .vredmin v x => Sys2Proof.Machine.execVredmin v x s
  | .viadd v x => Sys2Proof.Machine.execViadd v x s
  | .visub v x => Sys2Proof.Machine.execVisub v x s
  | .vimul v x => Sys2Proof.Machine.execVimul v x s
  | .vimulh v x => Sys2Proof.Machine.execVimulh v x s
  | .vimad v x => Sys2Proof.Machine.execVimad v x s
  | .vand v x => Sys2Proof.Machine.execVand v x s
  | .vor v x => Sys2Proof.Machine.execVor v x s
  | .vxor v x => Sys2Proof.Machine.execVxor v x s
  | .vandn v x => Sys2Proof.Machine.execVandn v x s
  | .vshl v x => Sys2Proof.Machine.execVshl v x s
  | .vshr v x => Sys2Proof.Machine.execVshr v x s
  | .vsra v x => Sys2Proof.Machine.execVsra v x s
  | .vimin v x => Sys2Proof.Machine.execVimin v x s
  | .vimax v x => Sys2Proof.Machine.execVimax v x s
  | .vpopc v x => Sys2Proof.Machine.execVpopc v x s
  | .vclz v x => Sys2Proof.Machine.execVclz v x s
  | .vicmp v x => Sys2Proof.Machine.execVicmp v x s
  | .vperm v x => Sys2Proof.Machine.execVperm v x s
  | .vbcast v x => Sys2Proof.Machine.execVbcast v x s
  | .vlsh v x => Sys2Proof.Machine.execVlsh v x s
  | .vzip v x => Sys2Proof.Machine.execVzip v x s
  | .vunzip v x => Sys2Proof.Machine.execVunzip v x s
  | .vrev v x => Sys2Proof.Machine.execVrev v x s
  | .vsel v x => Sys2Proof.Machine.execVsel v x s
  | .vcompress v x => Sys2Proof.Machine.execVcompress v x s
  | .vexpand v x => Sys2Proof.Machine.execVexpand v x s
  | .pand v x => Sys2Proof.Machine.execPand v x s
  | .por v x => Sys2Proof.Machine.execPor v x s
  | .pxor v x => Sys2Proof.Machine.execPxor v x s
  | .pnot v x => Sys2Proof.Machine.execPnot v x s
  | .pcnt v x => Sys2Proof.Machine.execPcnt v x s
  | .pfirst v x => Sys2Proof.Machine.execPfirst v x s
  | .pset v x => Sys2Proof.Machine.execPset v x s
  | .vqnt v x => Sys2Proof.Machine.execVqnt v x s
  | .vgmax v x => Sys2Proof.Machine.execVgmax v x s
  | .tos v x => Sys2Proof.Machine.execTos v x s
  | .froms v x => Sys2Proof.Machine.execFroms v x s
  | .mMma x => Sys2Proof.Machine.execMMma x s
  | .mMms x => Sys2Proof.Machine.execMMms x s
  | .mZero x => Sys2Proof.Machine.execMZero x s
  | .mAcc x => Sys2Proof.Machine.execMAcc x s
  | .mRd x => Sys2Proof.Machine.execMRd x s
  | .mWr x => Sys2Proof.Machine.execMWr x s
  | .mSt x => Sys2Proof.Machine.execMSt x s
  | .mFmt x => Sys2Proof.Machine.execMFmt x s
  | .mSave x => Sys2Proof.Machine.execMSave x s
  | .mRest x => Sys2Proof.Machine.execMRest x s
  | .mWait x => Sys2Proof.Machine.execMWait x s
  | .lS x => Sys2Proof.Machine.execLS x s
  | .lV x => Sys2Proof.Machine.execLV x s
  | .lVp x => Sys2Proof.Machine.execLVp x s
  | .lG x => Sys2Proof.Machine.execLG x s
  | .lB x => Sys2Proof.Machine.execLB x s
  | .lFe x => Sys2Proof.Machine.execLFe x s
  | .lScl x => Sys2Proof.Machine.execLScl x s
  | .lRcv x => Sys2Proof.Machine.execLRcv x s
  | .lAadd x => Sys2Proof.Machine.execLAadd x s
  | .lAli x => Sys2Proof.Machine.execLAli x s
  | .lAmov x => Sys2Proof.Machine.execLAmov x s
  | .lMpc x => Sys2Proof.Machine.execLMpc x s
  | .wS x => Sys2Proof.Machine.execWS x s
  | .wV x => Sys2Proof.Machine.execWV x s
  | .wVp x => Sys2Proof.Machine.execWVp x s
  | .wSc x => Sys2Proof.Machine.execWSc x s
  | .wFe x => Sys2Proof.Machine.execWFe x s
  | .wAtom x => Sys2Proof.Machine.execWAtom x s
  | .wCas x => Sys2Proof.Machine.execWCas x s
  | .wRed x => Sys2Proof.Machine.execWRed x s
  | .wSnd x => Sys2Proof.Machine.execWSnd x s
  | .cShp x => Sys2Proof.Machine.execCShp x s
  | .cGo x => Sys2Proof.Machine.execCGo x s
  | .cRing x => Sys2Proof.Machine.execCRing x s
  | .cIcinv x => Sys2Proof.Machine.execCIcinv x s
  | .cL2wb x => Sys2Proof.Machine.execCL2wb x s
  | .cL2inv x => Sys2Proof.Machine.execCL2inv x s
  | .cGq x => Sys2Proof.Machine.execCGq x s
  | .cSeal x => Sys2Proof.Machine.execCSeal x s
  | .yTlwait x => Sys2Proof.Machine.execYTlwait x s
  | .yTladv x => Sys2Proof.Machine.execYTladv x s
  | .yTlread x => Sys2Proof.Machine.execYTlread x s
  | .yPhreg x => Sys2Proof.Machine.execYPhreg x s
  | .yPhdrop x => Sys2Proof.Machine.execYPhdrop x s
  | .yPhsig x => Sys2Proof.Machine.execYPhsig x s
  | .yPhwait x => Sys2Proof.Machine.execYPhwait x s
  | .yFence x => Sys2Proof.Machine.execYFence x s
  | .yDrain x => Sys2Proof.Machine.execYDrain x s
  | .yClm x => Sys2Proof.Machine.execYClm x s
  | .yObj x => Sys2Proof.Machine.execYObj x s
  | .yClwait x => Sys2Proof.Machine.execYClwait x s
  | .yClread x => Sys2Proof.Machine.execYClread x s
  | .ySpawn x => Sys2Proof.Machine.execYSpawn x s
  | .yJoin x => Sys2Proof.Machine.execYJoin x s
  | .yRetire x => Sys2Proof.Machine.execYRetire x s
  | .yTrap x => Sys2Proof.Machine.execYTrap x s
  | .yTret x => Sys2Proof.Machine.execYTret x s
  | .yGeninc x => Sys2Proof.Machine.execYGeninc x s
  | .yEvt x => Sys2Proof.Machine.execYEvt x s
  | .yDbg x => Sys2Proof.Machine.execYDbg x s
  | .issueBundle q => Sys2Proof.Machine.execIssueBundle q s
  | .yieldClear q => Sys2Proof.Machine.execYieldClear q s
  | .copyCancel c ch => Sys2Proof.Machine.execCopyCancel c ch s
  | .preemptSave q => Sys2Proof.Machine.execPreemptSave q s
  | .asyncTrap q => Sys2Proof.Machine.execAsyncTrap q s
  | .waitTimeout q => Sys2Proof.Machine.execWaitTimeout q s
  | .runOverrun q => Sys2Proof.Machine.execRunOverrun q s
  | .sliceExpire q => Sys2Proof.Machine.execSliceExpire q s
  | .arbiterDecision q => Sys2Proof.Machine.execArbiterDecision q s
  | .longResultWrite n k bad => Sys2Proof.Machine.execLongResultWrite n k bad s
  | .spadAccess n => Sys2Proof.Machine.execSpadAccess n s
  | .matrixStepRetire c => Sys2Proof.Machine.execMatrixStepRetire c s
  | .tileStoreComplete c => Sys2Proof.Machine.execTileStoreComplete c s
  | .scaleEntryArrive n => Sys2Proof.Machine.execScaleEntryArrive n s
  | .copyChunk c ch ext => Sys2Proof.Machine.execCopyChunk c ch ext s
  | .copyComplete c ch => Sys2Proof.Machine.execCopyComplete c ch s
  | .feRequestApply n => Sys2Proof.Machine.execFeRequestApply n s
  | .feWithdrawal q => Sys2Proof.Machine.execFeWithdrawal q s
  | .feWithdrawalAnswer q => Sys2Proof.Machine.execFeWithdrawalAnswer q s
  | .atomicApply n k bad => Sys2Proof.Machine.execAtomicApply n k bad s
  | .postedWriteAck n => Sys2Proof.Machine.execPostedWriteAck n s
  | .lineRelease d line => Sys2Proof.Machine.execLineRelease d line s
  | .scApply d r n => Sys2Proof.Machine.execScApply d r n s
  | .syncBucketRefill d p => Sys2Proof.Machine.execSyncBucketRefill d p s
  | .l2BucketRefill d slice x => Sys2Proof.Machine.execL2BucketRefill d slice x s
  | .criticalWindowEnd d p p99 => Sys2Proof.Machine.execCriticalWindowEnd d p p99 s
  | .registerWrite p off n v => Sys2Proof.Machine.execRegisterWrite p off n v s
  | .partitionEnable p v => Sys2Proof.Machine.execPartitionEnable p v s
  | .partitionDisable p v => Sys2Proof.Machine.execPartitionDisable p v s
  | .pl2Write d p v => Sys2Proof.Machine.execPl2Write d p v s
  | .l2dirWrite p v => Sys2Proof.Machine.execL2dirWrite p v s
  | .quotaWrite d p tl v => Sys2Proof.Machine.execQuotaWrite d p tl v s
  | .pqclmWrite d p v => Sys2Proof.Machine.execPqclmWrite d p v s
  | .gpoolWrite v => Sys2Proof.Machine.execGpoolWrite v s
  | .genQuiet g => Sys2Proof.Machine.execGenQuiet g s
  | .carderPassStart => Sys2Proof.Machine.execCarderPassStart s
  | .carderStorageSweep d => Sys2Proof.Machine.execCarderStorageSweep d s
  | .carderPassEnd => Sys2Proof.Machine.execCarderPassEnd s
  | .hostWrite x d va bytes => Sys2Proof.Machine.execHostWrite x d va bytes s
  | .load d plan => Sys2Proof.Machine.execLoad d plan s
  | .unload d => Sys2Proof.Machine.execUnload d s
  | .bind n => Sys2Proof.Machine.execBind n s
  | .stop n => Sys2Proof.Machine.execStop n s
  | .start n => Sys2Proof.Machine.execStart n s
  | .exportQueue n => Sys2Proof.Machine.execExportQueue n s
  | .unbind n => Sys2Proof.Machine.execUnbind n s
  | .queueDoorbell p q v => Sys2Proof.Machine.execQueueDoorbell p q v s
  | .evcfgWrite p v => Sys2Proof.Machine.execEvcfgWrite p v s
  | .queueServe n => Sys2Proof.Machine.execQueueServe n s
  | .launchComplete n => Sys2Proof.Machine.execLaunchComplete n s
  | .place x => Sys2Proof.Machine.execPlace x s
  | .release x => Sys2Proof.Machine.execRelease x s
  | .evict x g => Sys2Proof.Machine.execEvict x g s
  | .readmit x g => Sys2Proof.Machine.execReadmit x g s
  | .cbindWrite c v => Sys2Proof.Machine.execCbindWrite c v s
  | .pairWrite d j v => Sys2Proof.Machine.execPairWrite d j v s
  | .groupStartAgreement x => Sys2Proof.Machine.execGroupStartAgreement x s
  | .groupYieldDecision x => Sys2Proof.Machine.execGroupYieldDecision x s
  | .groupPreemptAgreement x => Sys2Proof.Machine.execGroupPreemptAgreement x s
  | .pairSelftestEnd q lasting creel p => Sys2Proof.Machine.execPairSelftestEnd q lasting creel p s
  | .preemptRequest x => Sys2Proof.Machine.execPreemptRequest x s
  | .accownWrite c => Sys2Proof.Machine.execAccownWrite c s
  | .debugHalt q => Sys2Proof.Machine.execDebugHalt q s
  | .debugResume q => Sys2Proof.Machine.execDebugResume q s
  | .debugStateWrite q c r v => Sys2Proof.Machine.execDebugStateWrite q c r v s
  | .debugLqWrite q c k d mask value => Sys2Proof.Machine.execDebugLqWrite q c k d mask value s
  | .tlbInvalidate d v => Sys2Proof.Machine.execTlbInvalidate d v s
  | .tlbInvalidateDone d => Sys2Proof.Machine.execTlbInvalidateDone d s
  | .migRewalk q => Sys2Proof.Machine.execMigRewalk q s
  | .migrate d v => Sys2Proof.Machine.execMigrate d v s
  | .migrateDone d => Sys2Proof.Machine.execMigrateDone d s
  | .train d p => Sys2Proof.Machine.execTrain d p s
  | .install d p => Sys2Proof.Machine.execInstall d p s
  | .linkTrainComplete d p delay => Sys2Proof.Machine.execLinkTrainComplete d p delay s
  | .linkTrainTimeout d p => Sys2Proof.Machine.execLinkTrainTimeout d p s
  | .flitSend d p => Sys2Proof.Machine.execFlitSend d p s
  | .flitReceive d p ext busy => Sys2Proof.Machine.execFlitReceive d p ext busy s
  | .tagGroupVerify d p ok => Sys2Proof.Machine.execTagGroupVerify d p ok s
  | .refusalReceive d => Sys2Proof.Machine.execRefusalReceive d s
  | .linkWatchdogExpire kind d n => Sys2Proof.Machine.execLinkWatchdogExpire kind d n s
  | .keySwitch d p => Sys2Proof.Machine.execKeySwitch d p s
  | .linkSelftestEnd d p result => Sys2Proof.Machine.execLinkSelftestEnd d p result s
  | .timeFlitSend d p => Sys2Proof.Machine.execTimeFlitSend d p s
  | .clgrpWrite d k w v => Sys2Proof.Machine.execClgrpWrite d k w v s
  | .clsidxWrite d v => Sys2Proof.Machine.execClsidxWrite d v s
  | .claimProposalArrive d src payload => Sys2Proof.Machine.execClaimProposalArrive d src payload s
  | .claimObjectionArrive d src payload => Sys2Proof.Machine.execClaimObjectionArrive d src payload s
  | .claimEffect d => Sys2Proof.Machine.execClaimEffect d s
  | .lateNoticeArrive d src payload => Sys2Proof.Machine.execLateNoticeArrive d src payload s
  | .breakNoticeArrive d src payload => Sys2Proof.Machine.execBreakNoticeArrive d src payload s
  | .guestTrain d => Sys2Proof.Machine.execGuestTrain d s
  | .guestReset d => Sys2Proof.Machine.execGuestReset d s
  | .guestTrainComplete d => Sys2Proof.Machine.execGuestTrainComplete d s
  | .guestTrainFail d => Sys2Proof.Machine.execGuestTrainFail d s
  | .pkt d => Sys2Proof.Machine.execPkt d s
  | .guestRequest d code addr data => Sys2Proof.Machine.execGuestRequest d code addr data s
  | .cpl d bytes => Sys2Proof.Machine.execCpl d bytes s
  | .flt d bytes => Sys2Proof.Machine.execFlt d bytes s
  | .invack d bytes => Sys2Proof.Machine.execInvack d bytes s
  | .ckpt d bytes => Sys2Proof.Machine.execCkpt d bytes s
  | .guestPreempt d x => Sys2Proof.Machine.execGuestPreempt d x s
  | .guestResume d x => Sys2Proof.Machine.execGuestResume d x s
  | .guestDutyTimeout d => Sys2Proof.Machine.execGuestDutyTimeout d s
  | .guestLinkLoss d => Sys2Proof.Machine.execGuestLinkLoss d s
  | .packageReset => Sys2Proof.Machine.execPackageReset s
  | .dieReset d => Sys2Proof.Machine.execDieReset d s
  | .dieBoot d ok => Sys2Proof.Machine.execDieBoot d ok s
  | .recoveryPiece d v => Sys2Proof.Machine.execRecoveryPiece d v s
  | .recoveryEnd d v => Sys2Proof.Machine.execRecoveryEnd d v s
  | .provision => Sys2Proof.Machine.execProvision s
  | .deploy => Sys2Proof.Machine.execDeploy s
  | .lcReturn => Sys2Proof.Machine.execLcReturn s
  | .coreParityError c => Sys2Proof.Machine.execCoreParityError c s
  | .whorlWatchdog d => Sys2Proof.Machine.execWhorlWatchdog d s
  | .fenceSelftestEnd die n lasting creel p => Sys2Proof.Machine.execFenceSelftestEnd die n lasting creel p s
  | .throttleEnter d t => Sys2Proof.Machine.execThrottleEnter d t s
  | .throttleExit d t => Sys2Proof.Machine.execThrottleExit d t s
  | .thermalFence d => Sys2Proof.Machine.execThermalFence d s
  | .nearStorePerform guest n k bad => Sys2Proof.Machine.execNearStorePerform guest n k bad s
  | .cacheMaintenanceComplete n d => Sys2Proof.Machine.execCacheMaintenanceComplete n d s
  | .guestSnoopResponse d loc => Sys2Proof.Machine.execGuestSnoopResponse d loc s
  | .boundaryScanInstruction code => Sys2Proof.Machine.execBoundaryScanInstruction code s

end Sys2Proof.Machine
end

