-- ==== Sys2Proof/Machine/Program.lean ====
section
/-! DEFINITION. The schedule of the package (log entry 1), and how an instruction is placed where the sequencer at issue fetches it (log
entry 12). -/

namespace Sys2Proof.Machine

/-! ### The schedule (log entry 1) -/

/-- The place of an event among those of one tick that the spec puts in an order: a family, and its rank there. First the claim unit, a
load and the sequencers, by die (R263, R358, R366, R369, R434); then a slot's sample of PROD, a doorbell and a STOP (R313); then what the
guest says, and its limits (R451). -/
def turnOf : Instr → Option (Nat × List Nat)
  | .claimProposalArrive d _ p => some (0, [0, d, (claimOf p).pfab.toNat, (claimOf p).pslot.toNat])
  | .claimObjectionArrive d _ _ => some (0, [1, d])
  | .claimEffect d => some (0, [2, d])
  | .load d _ => some (0, [3, d, 0])
  | .issueBundle q => some (0, [3, dieOfSeq q, 1 + q % 40])
  | .queueServe _ => some (1, [0])
  | .queueDoorbell .. => some (1, [1])
  | .stop _ => some (1, [2])
  | .cpl .. | .flt .. | .invack .. | .ckpt .. | .guestRequest .. => some (2, [0])
  | .guestDutyTimeout _ => some (2, [1])
  | _ => none

/-- The events of a schedule that fall in a tick, from a time on. -/
def inTick (tick : Nat) : (now : Nat) → List (Nat × Instr) → List Instr
  | _, [] => []
  | now, e :: l => if (now + e.1) / 17 = tick then e.2 :: inTick tick (now + e.1) l else []

/-- Which of the events of a tick comes first: the first of the list, or one of its family that goes before it. -/
def firstTurn : List Instr → Nat
  | [] => 0
  | i :: l =>
    match turnOf i with
    | none => 0
    | some (fam, r) =>
      let step (m : Nat × List Nat) (e : Instr × Nat) : Nat × List Nat :=
        match turnOf e.1 with
        | some (g, k) => if g = fam && lexLt k m.2 then (e.2, k) else m
        | none => m
      ((l.zipIdx 1).foldl step (0, r)).1

/-- A schedule with its event k brought to the front. The times stay where they are. -/
def bringFirst (k : Nat) (l : List (Nat × Instr)) : List (Nat × Instr) :=
  match k, l[k]? with
  | 0, _ => l
  | _, none => l
  | k, some e => (l.map Prod.fst).zip (e.2 :: (l.map Prod.snd).eraseIdx k)

/-- Every SC operation whose tick has come has been applied (R380). -/
def State.scAll (s : State) : State := if s.flights.all fun f => f.sc.isNone then s else allDies.foldl State.scCatch s

/-- What happens next: the first entry of the schedule once its time has passed, after those of its tick that go before it, or, with
nothing scheduled, a cycle of the sequencer at issue. A slot operation in the schedule is no event, and nothing happens. -/
def State.nextEvent (s : State) : State × Option Instr :=
  let events := inTick ((s.time + (s.agenda.head?).elim 0 Prod.fst) / 17) s.time s.agenda
  match bringFirst (firstTurn events) s.agenda with
  | (t, i) :: r => (({ s with time := s.time + t, agenda := r } : State).scAll, if i.slot?.isNone then some i else none)
  | [] => (({ s with time := s.time + s.cycleUnits (dieOfSeq s.focus) } : State).scAll, some (.issueBundle s.focus))

/-! ### A place for a program (log entry 12) -/

/-- The memory that the bundle at the PC of a sequencer is fetched from, when it stands at issue there. -/
def State.fetchSite (s : State) (q : Nat) : Option (Nat × Bool) :=
  let x := s.seq q
  let va := x.pc.toNat
  if x.phase != .run || x.gang.isEmpty || decide (va < 2 ^ 32) || decide (2 ^ 48 ≤ va) ||
      ((s.ctxOf q).bind fun c => c.windowOf va).isSome then none
  else
    match s.walk x.asid (dieOfSeq q) va with
    | .leaf e lvl =>
      if !leafPermits e .fetch x.sys then none
      else
        match s.leafPlace (dieOfSeq q) (partOf (s.ctxIdOf q)) va e lvl with
        | .ok (.mem loc tagged) => some (loc, tagged)
        | _ => none
    | _ => none

/-- The context that a placed program runs in: a system image with one kernel, running on sequencer 0 of die 0 with core 0. -/
def programCtx : Ctx :=
  { phase := .running, gen := 1, asid := 1, compat := 3,
    image := { kernels := [{ entry := 0x100000000, run := 1, maxpos := 1, loopTab := [], regions := [], fmt := [], keep := 0 }],
               handler := none, system := true, isProtected := false },
    pageLoc := locDram 0 0x30000, cctl := [(0x200, 0x0040000100000000), (0x220, 0x10001)], outs := [], key := none, sseq := 0,
    savectr := 0, group := .running, gangs := [{ seq := 0, mask := 1, drank := 0, grank := 0 }], ndie := 1, ncore := 1,
    queue := none, launch := none,
    parkedAt := [], taken := [], yielded := [], landed := [], retired := [], evicted := [], agree := none, pending := [] }

/-- The sequencer that a placed program runs on, at the start of its code. -/
def programSeq : Seq :=
  { Seq.reset with ctx := some 0, gang := [0], phase := .run, sys := true, pc := 0x100000000, mpc := Reg.of 0 1, runleft := 256, asid := 1 }

/-- A program's page tables in DRAM of die 0: frame 1 holds them, untagged in the frame map, and the code page is frame 2. -/
def State.placeTables (s : State) : State :=
  let put (s : State) (a : Nat) (w : Word) : State := s.putRaw (locDram 0 a) (bytesOf w)
  put (put (put (put (put s 0 2) 0x10000 0x11001) 0x11020 0x12001) 0x12000 0x13001) 0x13000 0x20073

/-- A program stands loaded and running at its first bundle, as a LOAD, a PLACE, a BIND and a launch would leave it. -/
def State.placeProgram (s : State) : State :=
  let s := (s.setCtx 0 (some programCtx)).setSeq 0 programSeq
  let s := s.modDie 0 fun y => { y with phase := .run, tlb := [], icache := [], dctl := SMap.set (dctlReset 0x318) y.dctl 0x318 0 }
  { s.placeTables with focus := 0 }

/-- A bundle's bytes placed at a location, with the tag its fetch asks for. -/
def State.placeBundle (s : State) (loc : Nat) (tagged : Bool) (w : Nat) : State :=
  let s := s.putRaw loc (bytesOfWord 64 w)
  if tagged then s.setUnit loc { tag := Tag.of (s.genOf s.focus), poison := false, pend := false } else s

/-- A bundle placed where the next step fetches: at the sequencer at issue when it has a place to fetch from, and in a program placed
for it otherwise. Nothing is scheduled before it, and no cause is pending. -/
def State.placeWord (s : State) (w : Nat) : State :=
  let s := { (match s.fetchSite s.focus with
    | some _ => s
    | none => s.placeProgram) with agenda := [] }
  let s := s.modSeq s.focus fun x => { x with async := [] }
  match s.fetchSite s.focus with
  | some (loc, tagged) => s.placeBundle loc tagged w
  | none => s

end Sys2Proof.Machine
end

