-- ==== Sys2Proof/Machine/Step.lean ====
section
/-! DEFINITION. One step of the package, and an instruction stored where the next step fetches. -/

namespace Sys2Proof.Machine

/-- One step: the next event of the schedule, or a cycle of the sequencer at issue (log entry 1). -/
def step (s : State) : Host.Outcome State Fault Refusal :=
  match s.nextEvent with
  | (t, some i) => exec i t
  | (t, none) => .next t

/-- The state with a bundle, given as the opcode table numbers its bits, stored where `step` fetches next (log entry 12). -/
def State.withFetchWord (s : State) (nbits w : Nat) : State := s.placeWord (w % 2 ^ nbits)

end Sys2Proof.Machine
end

