-- ==== Sys2Proof/Safety.lean ====
section
/-! DEFINITION. What counts as a sound state, and what the claims mean by a bundle that stands at issue with nothing against it. -/

namespace Sys2Proof.Machine

/-- Memory lists rising locations and no byte at its unlisted value. -/
abbrev State.memWf (s : State) : Prop := Memory.wf s.mem = true

/-- No long result is outstanding for a core (R62). -/
def State.longFree (s : State) (c : Nat) : Bool := s.flights.all fun f => f.core != c || f.dest.isNone

/-- No landing-queue entry of a core commits in this cycle, and nothing of an earlier bundle is left to do in it (R59, R206, R295). -/
def Core.still (k : Core) : Bool :=
  (k.pp.lq.all fun e => e.held || decide (1 < e.rem)) && k.pp.fresh.isEmpty && k.pp.post.isEmpty && k.pp.accw.isNone &&
  k.pp.accLeft == 0 && k.me.shp.isEmpty

/-- A core is still, and it awaits no long result (R62). -/
def State.coreReady (s : State) (c : Nat) : Bool := (s.core c).still && s.longFree c

/-- The next bundle of a sequencer follows its PC: no level of the loop stack ends here (R117). -/
def Seq.straight (x : Seq) : Bool := x.innermost.elim true fun k => x.loopEnd k != x.pc

/-- No bundle has stood at issue before the one that stands there now, and no level of the loop stack ends with it (R117, R363). -/
def Seq.still (x : Seq) : Bool :=
  x.phase == .run && x.whl.isNone && !x.lineUp && !x.released && x.xfer.isNone && x.post.isEmpty && x.fin.isNone && x.straight

/-- A sequencer stands at issue with its gang, no bundle has stood there before, and nothing but the operation itself decides what its
bundle does (R57, R62, R66, R117, R239, R349). -/
def State.ready (s : State) (q : Nat) : Bool :=
  s.focus == q && (s.seq q).still && !(s.gang q).isEmpty && decide (s.gang q).Nodup && !s.paired q && (s.gang q).all s.coreReady

/-- A landing-queue entry counts one issue cycle. -/
def LqEntry.count (e : LqEntry) : LqEntry := if e.held then e else { e with rem := e.rem - 1 }

/-- The pipe at the end of a bundle in which no queued result commits: `new` joins the queue, and results of its own have used the write
paths `used` (R56). -/
def Pipe.settled (p : Pipe) (new : List LqEntry) (used : List WPath := []) : Pipe :=
  { p with lq := p.lq.map LqEntry.count ++ new, fresh := [], post := [], waitCnt := 0, fed := [], busy := p.busy ++ used }

/-- The step of the loop stack where no level ends (R117). -/
def Seq.onward (x : Seq) : LoopStep := { next := x.pc + 64, rotate := false, boundary := none, x := x }

/-- The landing queue of a core takes a result of latency L: it has a place, and no result that commits with it uses its path or its
register (R64 items 8 to 10). A result of latency 1 commits at the end of its own cycle, in which no other commits. -/
def Core.roomFor (k : Core) (path : WPath) (file : RFile) (index L : Nat) : Bool :=
  decide (L = 1) || (decide (k.pp.lq.length < 32) && k.pp.lq.all fun o =>
    o.held || o.rem != L || (o.path != path && !(o.file == file && o.index == index)))

/-- The sequencer goes to the next bundle, one bundle of the run is used in tenant mode (R276), and nothing else of any sequencer
changes. -/
structure State.Onward (s t : State) (q : Nat) : Prop where
  seq : t.seq q = { s.seq q with
    pc := (s.seq q).pc + 64, brkSkip := none, lineUp := false, whl := none, released := false, reserved := [], mword := none,
    issued := (s.seq q).issued + 1, runleft := (t.seq q).runleft }
  run : (t.seq (s.runSeq q)).runleft =
    if (s.seq q).sys then (s.seq (s.runSeq q)).runleft else (s.seq (s.runSeq q)).runleft - 1
  seqs : ∀ r, r ≠ q → t.seq r = { s.seq r with runleft := (t.seq r).runleft } ∧ (r ≠ s.runSeq q → t.seq r = s.seq r)

/-- The sequencer goes to the next bundle, and nothing changes but the cores of its gang and the model's own counters. -/
structure State.Plain (s t : State) (q : Nat) : Prop where
  rest : t = { s with cores := t.cores, seqs := t.seqs, nextId := t.nextId, free := t.free }
  others : ∀ c, c ∉ s.gang q → t.core c = s.core c
  onward : s.Onward t q

/-- A transfer is taken: the sequencer goes to the target after two inserted cycles (R112), and nothing else of any sequencer changes but
the run. -/
structure State.Taken (s t : State) (q : Nat) (target : Word) : Prop where
  seq : t.seq q = { s.seq q with
    pc := target, phase := .bubble 2, brkSkip := none, lineUp := false, whl := none, released := false, reserved := [], mword := none,
    issued := (s.seq q).issued + 1, runleft := (t.seq q).runleft }
  run : (t.seq (s.runSeq q)).runleft =
    if (s.seq q).sys then (s.seq (s.runSeq q)).runleft else (s.seq (s.runSeq q)).runleft - 1
  seqs : ∀ r, r ≠ q → t.seq r = { s.seq r with runleft := (t.seq r).runleft } ∧ (r ≠ s.runSeq q → t.seq r = s.seq r)

/-- A core after a bundle of which no operation acts on it. -/
def Core.idled (k : Core) : Core := { k with pp := k.pp.settled [] }

/-- The sequencer goes to the next bundle; of the cores one alone changes, and the rest of the machine is that of `u` but for the model's own
counters. -/
structure State.Alone (s t u : State) (q c : Nat) : Prop where
  rest : t = { u with cores := t.cores, seqs := t.seqs, nextId := t.nextId, free := t.free }
  others : ∀ b, b ≠ c → t.core b = s.core b
  onward : s.Onward t q

/-- A sequencer that stands ready with a gang of one core. -/
def State.solo (s : State) (q c : Nat) : Prop := s.ready q = true ∧ s.gang q = [c]

/-! ### What an event leaves as it was -/

/-- Nothing changes but one die. -/
structure State.DieOnly (s t : State) (d : Nat) : Prop where
  rest : t = { s with dies := t.dies }
  others : ∀ e, e ≠ d → t.die e = s.die e

/-- Nothing changes but one sequencer. -/
structure State.SeqOnly (s t : State) (q : Nat) : Prop where
  rest : t = { s with seqs := t.seqs }
  others : ∀ r, r ≠ q → t.seq r = s.seq r

/-- Nothing changes but one core. -/
structure State.CoreOnly (s t : State) (c : Nat) : Prop where
  rest : t = { s with cores := t.cores }
  others : ∀ b, b ≠ c → t.core b = s.core b

/-- Nothing changes but one context. -/
structure State.CtxOnly (s t : State) (x : Nat) : Prop where
  rest : t = { s with ctxs := t.ctxs }
  others : ∀ y, y ≠ x → t.ctx? y = s.ctx? y

/-- Nothing changes but one queue. -/
structure State.QueueOnly (s t : State) (n : Nat) : Prop where
  rest : t = { s with queues := t.queues }
  others : ∀ m, m ≠ n → t.queue m = s.queue m

/-- Of a die nothing changes but one stored register of its control page. -/
structure State.RegOnly (s t : State) (d off : Nat) (v : Word) : Prop where
  rest : s.DieOnly t d
  die : t.die d = { s.die d with dctl := (t.die d).dctl }
  reg : ∀ o, t.dctl d o = if o = off then v else s.dctl d o

end Sys2Proof.Machine
end

