-- ==== Sys2Proof/Certificates/Slice0/Obligations.lean ====
section
/-! DEFINITION. The statements about the model, for the provers. -/

section

open Sys2Proof Sys2Proof.Machine

/-! ### Scalar results (R104 to R110) -/

/-- The operations of layout A whose latency is 1 (R57), with f(A, B) as R104 gives it. -/
def Claims.scalarQuick : List ((LayA → Instr) × (Word → Word → Word)) :=
  [(.sAdd, fun a b => BitVec.ofNat 64 (a.toNat + b.toNat)),
   (.sSub, fun a b => BitVec.ofInt 64 (a.toNat - b.toNat : Int)),
   (.sAnd, fun a b => a &&& b),
   (.sOr, fun a b => a ||| b),
   (.sXor, fun a b => a ^^^ b),
   (.sAndn, fun a b => a &&& ~~~b),
   (.sShl, fun a b => if b.toNat < 64 then BitVec.ofNat 64 (a.toNat * 2 ^ b.toNat) else 0),
   (.sShr, fun a b => if b.toNat < 64 then BitVec.ofNat 64 (a.toNat / 2 ^ b.toNat) else 0),
   (.sSra, fun a b => if b.toNat < 64 then BitVec.ofInt 64 (a.toInt / 2 ^ b.toNat) else if a.getLsbD 63 then -1 else 0),
   (.sRot, fun a b => (a <<< (b.toNat % 64)) ||| (a >>> (64 - b.toNat % 64))),
   (.sClz, fun a _ => BitVec.ofNat 64 (((List.range 64).find? fun n => a.getLsbD (63 - n)).getD 64)),
   (.sCtz, fun a _ => BitVec.ofNat 64 (((List.range 64).find? fun n => a.getLsbD n).getD 64)),
   (.sPopc, fun a _ => BitVec.ofNat 64 ((List.range 64).countP fun n => a.getLsbD n)),
   (.sMin, fun a b => if a.toInt ≤ b.toInt then a else b),
   (.sMax, fun a b => if a.toInt ≥ b.toInt then a else b),
   (.sMinz, fun a b => if a.toNat ≤ b.toNat then a else b),
   (.sMaxz, fun a b => if a.toNat ≥ b.toNat then a else b)]

/-- The operations of layout A that land later: latency 3 for a product and 12 for a quotient (R57), with f(A, B) of R104 and R105. -/
def Claims.scalarSlow : List ((LayA → Instr) × Nat × (Word → Word → Word)) :=
  [(.sMul, 3, fun a b => BitVec.ofNat 64 (a.toNat * b.toNat)),
   (.sMulh, 3, fun a b => BitVec.ofInt 64 (a.toInt * b.toInt / 2 ^ 64)),
   (.sMulhz, 3, fun a b => BitVec.ofNat 64 (a.toNat * b.toNat / 2 ^ 64)),
   (.sDiv, 12, fun a b =>
      if b = 0 then -1 else if a.toInt = -2 ^ 63 ∧ b.toInt = -1 then a else BitVec.ofInt 64 (a.toInt.tdiv b.toInt)),
   (.sDivz, 12, fun a b => if b = 0 then -1 else BitVec.ofNat 64 (a.toNat / b.toNat)),
   (.sRem, 12, fun a b =>
      if b = 0 then a else if a.toInt = -2 ^ 63 ∧ b.toInt = -1 then 0
      else BitVec.ofInt 64 (a.toInt - a.toInt.tdiv b.toInt * b.toInt))]

/-- A and B of R104: the register a, and the register of [39:34] with i = 0 or the sign-extended immediate with i = 1. -/
def Claims.operandA (k : Core) (g : Gen) (x : LayA) : Word := k.readS g x.a.toNat
def Claims.operandB (k : Core) (g : Gen) (x : LayA) : Word :=
  if x.i = 0 then k.readS g (x.b.toNat / 2 ^ 34) else x.b.signExtend 64

/-- A core after a latency-1 scalar result `v` for register d over path S: s(d) holds it unless d is 0, ls0 holds it, ls1 holds what ls0
held (R47, R51, R59), every other scalar register and guard is as before, and nothing else of the core changes. -/
def Claims.wroteS (k k' : Core) (g : Gen) (d : Nat) (v : Word) : Prop :=
  k' = { k with sc := k'.sc, pp := k.pp.settled [] [.s] } ∧ k'.sc.q = k.sc.q ∧
  (∀ r < 32, k'.readS g r = if r = d ∧ r ≠ 0 then v else k.readS g r) ∧
  k'.readS g 32 = v ∧ k'.readS g 33 = k.readS g 32

/-- R104, R59, R40. Every layout-A operation of latency 1, with every operand form, issues from a sequencer that stands ready, writes its
result on each core whose guard reads 1, and leaves everything else of the machine. -/
def Obligations.ScalarQuick : Prop :=
  ∀ (s : State) (q : Nat) (x : LayA) (i : LayA → Instr) (f : Word → Word → Word), (i, f) ∈ Claims.scalarQuick →
    (i x).wf = true → s.ready q = true →
    ∃ t, exec (i x) s = .next t ∧ s.Plain t q ∧ ∀ c ∈ s.gang q,
      let k := s.core c
      let g := s.genOf q
      if s.guarded q c x.grd then Claims.wroteS k (t.core c) g x.d.toNat (f (Claims.operandA k g x) (Claims.operandB k g x))
      else t.core c = k.idled

/-- R104, R105, R59. Every layout-A operation of a longer latency joins the landing queue with its result, addressed to s(d) over path
S, and commits nothing yet. -/
def Obligations.ScalarSlow : Prop :=
  ∀ (s : State) (q : Nat) (x : LayA) (i : LayA → Instr) (L : Nat) (f : Word → Word → Word), (i, L, f) ∈ Claims.scalarSlow →
    (i x).wf = true → s.ready q = true → (∀ c ∈ s.gang q, (s.core c).roomFor .s .s x.d.toNat L = true) →
    ∃ t, exec (i x) s = .next t ∧ s.Plain t q ∧ ∀ c ∈ s.gang q,
      let k := s.core c
      let g := s.genOf q
      if s.guarded q c x.grd then
        t.core c = { k with pp := k.pp.settled [{
          rem := L - 1, path := .s, file := .s, index := x.d.toNat, gen := g, mask := BitVec.allOnes 128,
          value := (f (Claims.operandA k g x) (Claims.operandB k g x)).setWidth 2048, held := false, load := none }] }
      else t.core c = k.idled

/-- The special registers as a core of a gang reads them (R53, R54, R114, R116, R119, R120, R241, R337, R359, R378). -/
def Claims.special (s : State) (q c sr : Nat) : Word :=
  let x := s.seq q
  let k := s.core c
  let g := s.genOf q
  let index (l : Nat) : Nat :=
    if !x.pushed l then 0
    else if x.loopKind l = 1 then x.loopTrip l * max 1 x.gang.length + k.sp.crank
    else if x.loopKind l = 2 then x.loopTrip l * s.ndie q + k.sp.drank
    else x.loopTrip l
  (([(0x000, x.pc), (0x001, x.mpc.read g), (0x002, k.sp.tpc), (0x003, k.sp.tcause), (0x008, k.sp.rrb.read g),
     (0x009, k.sp.lived.read g), (0x010, BitVec.ofNat 64 k.sp.crank), (0x011, BitVec.ofNat 64 k.sp.grank),
     (0x012, BitVec.ofNat 64 k.sp.drank), (0x013, BitVec.ofNat 64 (max 1 x.gang.length)), (0x014, BitVec.ofNat 64 k.sp.skew),
     (0x018, BitVec.ofNat 64 (s.ctxIdOf q)), (0x019, BitVec.ofNat 64 x.asid), (0x01A, BitVec.ofNat 64 g.toNat),
     (0x01B, (s.ctxOf q).elim 3 fun y => BitVec.ofNat 64 y.compat.toNat), (0x01C, k.mx.accown), (0x020, k.sp.waitlim),
     (0x021, if x.sys then (s.ctxOf q).elim 0 Ctx.savectr else 0), (0x022, k.sp.clipped.read g),
     (0x030, BitVec.ofNat 64 (s.tbaseOf q c))] :
     List (Nat × Word)) ++
   (List.range 6).map (fun l => (0x040 + l, x.lstaOf l)) ++ (List.range 6).map (fun l => (0x048 + l, x.lendOf l)) ++
   (List.range 6).map (fun l => (0x050 + l, x.lcntOf l)) ++
   (List.range 6).map (fun l => (0x058 + l, BitVec.ofNat 64 (index l % 2 ^ 32)))).lookup sr |>.getD 0

/-- The scalar operations of latency 1 beside layout A, with their guard, destination and value on a core (R108 to R110, R119): `s.sel`,
`s.li`, `s.lih`, `s.ext`, `s.ins` and `s.rdsr`. -/
def Claims.scalarOther (s : State) (q c : Nat) : Instr → Option (BitVec 3 × Nat × Word)
  | .sSel x =>
    let r (n : BitVec 6) := (s.core c).readS (s.genOf q) n.toNat
    some (x.grd, x.d.toNat, if (s.core c).readQ (s.genOf q) x.qc.toNat then r x.a else r x.sb)
  | .sLi x => some (x.grd, x.d.toNat, BitVec.ofInt 64 x.imm.toInt)
  | .sLih x =>
    some (x.grd, x.d.toNat, BitVec.ofNat 64 (x.imm.toNat * 2 ^ 32 + ((s.core c).readS (s.genOf q) x.d.toNat).toNat % 2 ^ 32))
  | .sExt x =>
    let a := ((s.core c).readS (s.genOf q) x.a.toNat).toNat
    some (x.grd, x.d.toNat, BitVec.ofNat 64 (a / 2 ^ x.lsb.toNat % 2 ^ x.width.toNat))
  | .sIns x =>
    let a := ((s.core c).readS (s.genOf q) x.a.toNat).toNat
    let d := ((s.core c).readS (s.genOf q) x.d.toNat).toNat
    let hi := 2 ^ (x.lsb.toNat + x.width.toNat)
    some (x.grd, x.d.toNat, BitVec.ofNat 64 (d / hi * hi + a % 2 ^ x.width.toNat * 2 ^ x.lsb.toNat + d % 2 ^ x.lsb.toNat))
  | .sRdsr x => some (x.grd, x.r.toNat, Claims.special s q c x.sr.toNat)
  | _ => none

/-- R108, R109, R110, R119. `s.sel`, `s.li`, `s.lih`, `s.ext`, `s.ins` and `s.rdsr` write their value on each core whose guard reads 1
and leave everything else. -/
def Claims.ScalarOther : Prop :=
  ∀ (s : State) (q : Nat) (i : Instr), (Claims.scalarOther s q 0 i).isSome = true → i.wf = true → s.ready q = true →
    ∃ t, exec i s = .next t ∧ s.Plain t q ∧ ∀ c ∈ s.gang q,
      ∀ grd d v, Claims.scalarOther s q c i = some (grd, d, v) →
        if s.guarded q c grd then Claims.wroteS (s.core c) (t.core c) (s.genOf q) d v else t.core c = (s.core c).idled

/-- The condition of R107 that a code names. -/
def Claims.condition (code : Nat) (a b : Word) : Bool :=
  [a == b, a != b, decide (a.toInt < b.toInt), decide (a.toInt ≤ b.toInt), decide (a.toInt > b.toInt), decide (a.toInt ≥ b.toInt),
   decide (a.toNat < b.toNat), decide (a.toNat ≤ b.toNat), decide (a.toNat > b.toNat), decide (a.toNat ≥ b.toNat)].getD code false

/-- R107, R51, R47. `s.cmp` writes its condition to a guard, shifts no last-result file, and discards a result for q0. -/
def Claims.ScalarCompare : Prop :=
  ∀ (s : State) (q : Nat) (x : LayC), (Instr.sCmp x).wf = true → s.ready q = true →
    ∃ t, exec (.sCmp x) s = .next t ∧ s.Plain t q ∧ ∀ c ∈ s.gang q,
      let k := s.core c
      let g := s.genOf q
      let b : Word := if x.i = 0 then k.readS g (x.b.toNat / 2 ^ 33) else BitVec.ofInt 64 x.b.toInt
      if s.guarded q c x.grd then
        t.core c = { k with sc := { k.sc with q := (t.core c).sc.q }, pp := k.pp.settled [] [.s] } ∧
        ∀ n < 8, (t.core c).readQ g n =
          if n = x.qd.toNat ∧ n ≠ 0 then Claims.condition x.cond.toNat (k.readS g x.a.toNat) b else k.readQ g n
      else t.core c = k.idled

/-- R122, R123, R59. `s.fromv` and `s.froma` land in s(d) with latency 2 over path S. -/
def Claims.ScalarCopies : Prop :=
  ∀ (s : State) (q : Nat) (i : Instr) (grd : BitVec 3) (d : Nat) (v : Nat → Word), (match i with
      | .sFromv x => grd = x.grd ∧ d = x.d.toNat ∧ ∀ c,
          let k := s.core c
          let file : SMap (Reg 2048) × Nat :=
            if x.vsel.toNat < 8 then (k.ve.oa, 0) else if x.vsel.toNat < 16 then (k.ve.ob, 8)
            else if x.vsel.toNat < 18 then (k.ve.la, 16) else (k.ve.lb, 18)
          v c = ((SMap.get (Reg.wiped 2048) file.1 (x.vsel.toNat - file.2)).read (s.genOf q)).extractLsb' (64 * x.word.toNat) 64
      | .sFroma x => grd = x.grd ∧ d = x.d.toNat ∧ ∀ c, v c = (s.core c).readA (s.genOf q) x.an.toNat
      | _ => False) → i.wf = true → s.ready q = true → (∀ c ∈ s.gang q, (s.core c).roomFor .s .s d 2 = true) →
    ∃ t, exec i s = .next t ∧ s.Plain t q ∧ ∀ c ∈ s.gang q,
      if s.guarded q c grd then
        t.core c = { s.core c with pp := (s.core c).pp.settled [{
          rem := 1, path := .s, file := .s, index := d, gen := s.genOf q, mask := BitVec.allOnes 128,
          value := (v c).setWidth 2048, held := false, load := none }] }
      else t.core c = (s.core c).idled

/-- The scalar operations of the other layouts: selections, immediates, fields and reads of special registers; comparisons; and copies of operand files,
last-result registers and address registers (R107 to R110, R119, R122, R123). -/
def Obligations.ScalarOthers : Prop := Claims.ScalarOther ∧ Claims.ScalarCompare ∧ Claims.ScalarCopies

/-! ### Transfers and loops (R111 to R118) -/

/-- The branches of R111: guard, whether the lead core's operands take it, and the target. -/
def Claims.branch (s : State) (q : Nat) : Instr → Option (BitVec 3 × Bool × Word)
  | .sBr x => some (x.grd, true, (s.seq q).pc + BitVec.ofInt 64 (64 * x.off.toInt))
  | .sBrc x =>
    let r (n : BitVec 6) := (s.core (s.lead q)).readS (s.genOf q) n.toNat
    some (x.grd, Claims.condition x.cond.toNat (r x.a) (r x.sb), (s.seq q).pc + BitVec.ofInt 64 (64 * x.off.toInt))
  | .sCall x => some (x.grd, true, (s.seq q).pc + BitVec.ofInt 64 (64 * x.off.toInt))
  | .sRet x => some (x.grd, true, (s.core (s.lead q)).readS (s.genOf q) 31)
  | .sJr x => some (x.grd, true, (s.core (s.lead q)).readS (s.genOf q) x.a.toNat)
  | _ => none

/-- `s.call` leaves a link (R111). -/
def Claims.links : Instr → Bool
  | .sCall _ => true
  | _ => false

/-- R111, R102, R112. Each branch is decided on the lead core: taken, it goes to its target with bits [5:0] cleared; otherwise the next
bundle follows. `s.call` also leaves PC + 64 in s31 of every core. Nothing else changes. -/
def Obligations.Branches : Prop :=
  ∀ (s : State) (q : Nat) (i : Instr) (grd : BitVec 3) (cond : Bool) (target : Word),
    Claims.branch s q i = some (grd, cond, target) → i.wf = true → s.ready q = true →
    ∃ t, exec i s = .next t ∧
      t = { s with cores := t.cores, seqs := t.seqs, nextId := t.nextId, free := t.free } ∧
      (∀ c, c ∉ s.gang q → t.core c = s.core c) ∧
      let on := (s.core (s.lead q)).readQ (s.genOf q) grd.toNat
      (if on && cond then s.Taken t q (BitVec.ofNat 64 (target.toNat / 64 * 64)) else s.Onward t q) ∧
      ∀ c ∈ s.gang q,
        if on && Claims.links i then
          Claims.wroteS (s.core c) (t.core c) (s.genOf q) 31 ((s.seq q).pc + 64)
        else t.core c = (s.core c).idled

/-- n of R115: the count of a register, at most 2^32 - 1, or the immediate. -/
def Claims.loopCount (s : State) (q : Nat) (x : LayP) : Nat :=
  if x.i = 0 then min ((s.core (s.lead q)).readS (s.genOf q) (x.cnt.toNat / 2 ^ 15)).toNat (2 ^ 32 - 1) else x.cnt.toNat

/-- The trips of a level by R116: n, or n shared out over the cores of the gang or the dies of the group, rounded up. -/
def Claims.trips (s : State) (q kind n : Nat) : Nat :=
  if kind = 1 then (n + s.gangsz q - 1) / s.gangsz q else if kind = 2 then (n + s.ndie q - 1) / s.ndie q else n

/-- R115. `s.loop` on a level that is not pushed, whose body ends within every level pushed, pushes it: START is the next bundle, V is
set, PRE, KIND and ROT are those of the loop table in force, LEN and DEPTH are as given, TRIP is 0 and COUNT is n. With no trip to make
it pushes nothing, and the bundle after the body follows. -/
def Claims.LoopPush : Prop :=
  ∀ (s : State) (q : Nat) (x : LayP), (Instr.sLoop x).wf = true → s.ready q = true → (s.seq q).pc.toNat % 64 = 0 →
    (s.core (s.lead q)).readQ (s.genOf q) x.grd.toNat = true → (s.seq q).pushed x.lvl.toNat = false →
    (∀ k, (s.seq q).innermost = some k →
      ((s.seq q).pc + BitVec.ofNat 64 (64 * x.len.toNat)).toNat ≤ ((s.seq q).loopEnd k).toNat) →
    ∃ t, exec (.sLoop x) s = .next t ∧
      t = { s with cores := t.cores, seqs := t.seqs, nextId := t.nextId, free := t.free } ∧
      (∀ c, t.core c = if c ∈ s.gang q then (s.core c).idled else s.core c) ∧
      let l := x.lvl.toNat
      let e := (SMap.get 0 (s.seq q).loopTab l).toNat
      let n := Claims.loopCount s q x
      if Claims.trips s q (e / 2 % 4) n = 0 then s.Taken t q ((s.seq q).pc + BitVec.ofNat 64 (64 * (x.len.toNat + 1)))
      else
        let y := t.seq q
        y.pc = (s.seq q).pc + 64 ∧ y.phase = .run ∧ y.pushed l = true ∧ y.loopStart l = (s.seq q).pc + 64 ∧
        y.loopLen l = x.len.toNat ∧ y.loopDepth l = (s.seq q).levels.length ∧ y.loopTrip l = 0 ∧ y.loopCount l = n ∧
        y.loopKind l = (if e / 2 % 4 = 3 then 0 else e / 2 % 4) ∧ y.loopPre l = decide (e / 8 % 2 = 1) ∧
        y.loopRot l = decide (e / 16 % 2 = 1) ∧
        ∀ j, j ≠ l → y.lstaOf j = (s.seq q).lstaOf j ∧ y.lendOf j = (s.seq q).lendOf j ∧ y.lcntOf j = (s.seq q).lcntOf j

/-- R118. `s.lbrk` of a pushed level goes past its end, and the level and every deeper one are no longer pushed. -/
def Claims.LoopBreak : Prop :=
  ∀ (s : State) (q : Nat) (x : LayQ), (Instr.sLbrk x).wf = true → s.ready q = true →
    (s.core (s.lead q)).readQ (s.genOf q) x.grd.toNat = true → (s.seq q).pushed x.lvl.toNat = true →
    ∃ t, exec (.sLbrk x) s = .next t ∧
      t = { s with cores := t.cores, seqs := t.seqs, nextId := t.nextId, free := t.free } ∧
      (∀ c, t.core c = if c ∈ s.gang q then (s.core c).idled else s.core c) ∧
      (t.seq q).pc = BitVec.ofNat 64 (((s.seq q).loopEnd x.lvl.toNat + 64).toNat / 64 * 64) ∧ (t.seq q).phase = .bubble 2 ∧
      ∀ j < 6, (t.seq q).pushed j =
        ((s.seq q).pushed j && !(j == x.lvl.toNat || decide ((s.seq q).loopDepth x.lvl.toNat < (s.seq q).loopDepth j)))

/-- R114 to R118. `s.loop` and `s.loopb` push a level, and a break leaves one. -/
def Obligations.Loops : Prop := Claims.LoopPush ∧ Claims.LoopBreak

/-- R115, R118, R66. A push of a level that is pushed, and a break of one that is not, trap with ILLOP on the lead core: no slot takes
effect, TPC holds the bundle's address, and the handler's vector follows. -/
def Claims.LoopTraps : Prop :=
  ∀ (s : State) (q : Nat) (i : Instr) (grd : BitVec 3), (match i with
      | .sLoop x => grd = x.grd ∧ (s.seq q).pushed x.lvl.toNat = true
      | .sLbrk x => grd = x.grd ∧ (s.seq q).pushed x.lvl.toNat = false
      | _ => False) → i.wf = true → s.ready q = true → (s.core (s.lead q)).readQ (s.genOf q) grd.toNat = true →
    s.fedOut q = false → (s.acting q && tcNest (s.core (s.lead q)).sp.tcause && (s.seq q).sys) = false →
    ∃ t, exec i s = .next t ∧ t.mem = s.mem ∧ (t.seq q).phase = .bubble 2 ∧
      (t.core (s.lead q)).sp.tpc = lineAddr (s.seq q).pc ∧ tcCause (t.core (s.lead q)).sp.tcause = 1 ∧
      (t.core (s.lead q)).sc = (s.core (s.lead q)).sc ∧ (t.seq q).lsta = (s.seq q).lsta

/-! ### Writes of special registers (R119 to R121) -/

/-- A core after a write of a special register that it holds (R53, R54, R121, R175, R241, R359, R378): the fields that are kept, and the
others as they were. -/
def Claims.coreWrites (k : Core) (g : Gen) (sys : Bool) (sr : Nat) (v : Word) : Core :=
  if sr = 0x002 then { k with sp := { k.sp with tpc := v &&& 0xFFFFFFFFFFFFFFC0 } }
  else if sr = 0x003 then
    { k with sp := { k.sp with tcause :=
        if sys then v &&& 0xFFFF00FF000003BF else (v &&& 0xFFFF00FF0000003F) ||| (k.sp.tcause &&& 0x380) } }
  else if sr = 0x008 then
    let k := { k with sp := { k.sp with rrb := Reg.of (v &&& 0x1F) g } }
    { k with ve := { k.ve with v := SMap.keep (fun p => !k.dead g p) k.ve.v } }
  else if sr = 0x009 then
    let k := { k with sp := { k.sp with lived := Reg.of (v &&& 0x1F) g } }
    { k with ve := { k.ve with v := SMap.keep (fun p => !k.dead g p) k.ve.v } }
  else if sr = 0x01C then (if sys then { k with pp := { k.pp with accw := some (v &&& 0x0000FFFF0001FF03) } } else k)
  else if sr = 0x020 then { k with sp := { k.sp with waitlim := v &&& 0xFFFFFFFF } }
  else if sr = 0x022 then
    (if v.getLsbD 0 then { k with sp := { k.sp with clipped := Reg.of (k.sp.clipped.read g &&& 0xFFFFFFFFFFFFFFFE) g } } else k)
  else k

/-- A sequencer after a write of a special register that it holds (R114, R121, R397). -/
def Claims.seqWrites (x : Seq) (g : Gen) (sys : Bool) (sr : Nat) (v : Word) : Seq :=
  if sr = 0x001 then { x with mpc := Reg.of (v &&& 0xFFFFFFFFFFFFFFF8) g }
  else if sr = 0x019 then (if sys then { x with asid := v.toNat % 512 } else x)
  else if 0x040 ≤ sr ∧ sr ≤ 0x045 then
    let w := v &&& 0xFFFFFFFFFFFFFFFE
    { x with lsta := SMap.set 0 x.lsta (sr - 0x040) (if w.toNat / 4 % 4 = 3 then w &&& 0xFFFFFFFFFFFFFFF3 else w) }
  else if 0x048 ≤ sr ∧ sr ≤ 0x04D then
    let w := v &&& 0xFFFFFFFE00000000
    { x with lend := SMap.set 0 x.lend (sr - 0x048) (if w.toNat / 2 ^ 36 = 0 then w ||| 0x1000000000 else w) }
  else if 0x050 ≤ sr ∧ sr ≤ 0x055 then { x with lcnt := SMap.set 0 x.lcnt (sr - 0x050) v }
  else x

/-- R119, R121, R102. `s.wrsr` of any register but SKEW: a register of the sequencer is written by the lead core, PC as a transfer; every
other on each core whose guard reads 1; a register that the mode only reads stays. A tenant-mode write of SAVECTR is not in this statement:
it traps. -/
def Claims.SpecialWrites : Prop :=
  ∀ (s : State) (q : Nat) (x : LayT), (Instr.sWrsr x).wf = true → s.ready q = true → x.sr.toNat ≠ 0x014 →
    (x.sr.toNat = 0x021 → (s.seq q).sys = true) →
    ∃ t, exec (.sWrsr x) s = .next t ∧
      t = { s with cores := t.cores, seqs := t.seqs, nextId := t.nextId, free := t.free } ∧
      (∀ c, c ∉ s.gang q → t.core c = s.core c) ∧
      let sr := x.sr.toNat
      let g := s.genOf q
      let sys := (s.seq q).sys
      let lead := (s.core (s.lead q)).readQ g x.grd.toNat
      let v := (s.core (s.lead q)).readS g x.r.toNat
      if sr = 0 then
        (if lead then s.Taken t q (v &&& 0xFFFFFFFFFFFFFFC0) else s.Onward t q) ∧ ∀ c ∈ s.gang q, t.core c = (s.core c).idled
      else if sr = 1 ∨ sr = 0x19 ∨ 0x40 ≤ sr then
        (∀ c ∈ s.gang q, t.core c = (s.core c).idled) ∧
        let y := if lead then Claims.seqWrites (s.seq q) g sys sr v else s.seq q
        t.seq q = { y with
          pc := (s.seq q).pc + 64, brkSkip := none, lineUp := false, whl := none, released := false, reserved := [], mword := none,
          issued := (s.seq q).issued + 1, runleft := (t.seq q).runleft }
      else
        s.Onward t q ∧ ∀ c ∈ s.gang q, t.core c =
          if s.guarded q c x.grd then Claims.coreWrites (s.core c).idled g sys sr ((s.core c).readS g x.r.toNat) else (s.core c).idled

/-- R119, R76. A tenant-mode write of SAVECTR traps with PRIV: every core holds the bundle's address in TPC, and no slot takes effect. -/
def Claims.SavectrWriteTraps : Prop :=
  ∀ (s : State) (q : Nat) (x : LayT), (Instr.sWrsr x).wf = true → s.ready q = true → x.sr.toNat = 0x021 → (s.seq q).sys = false →
    s.fedOut q = false →
    ∃ t, exec (.sWrsr x) s = .next t ∧ t.mem = s.mem ∧ (t.seq q).phase = .bubble 2 ∧
      ∀ c ∈ s.gang q, (t.core c).sp.tpc = lineAddr (s.seq q).pc ∧ tcCause (t.core c).sp.tcause = 2 ∧ (t.core c).sc = (s.core c).sc

/-- R337, R121. A system-mode write of SKEW by a core of an unpaired gang sets SKEW of that core's CBIND; a tenant-mode write is ignored. -/
def Claims.SkewWrite : Prop :=
  ∀ (s : State) (q c : Nat) (x : LayT), (Instr.sWrsr x).wf = true → s.solo q c → x.sr.toNat = 0x014 → s.guarded q c x.grd = true →
    ∃ t, exec (.sWrsr x) s = .next t ∧ t.core c = (s.core c).idled ∧ s.Onward t q ∧ t.mem = s.mem ∧
      let off := 0x5000 + 0x100 * (c / 16 % 10) + 8 * (c % 16)
      let old := s.dctl (c / 160) off
      t.dctl (c / 160) off =
        if (s.seq q).sys then
          (old &&& 0xFFFFFFFFFFFFFF8F) ||| BitVec.ofNat 64 (((s.core c).readS (s.genOf q) x.r.toNat).toNat % 8 * 16)
        else old

/-- R119, R121, R337. What `s.wrsr` writes. -/
def Obligations.SpecialRegisters : Prop := Claims.SpecialWrites ∧ Claims.SkewWrite

/-! ### Vector results (R128, R129, R133 to R151) -/

/-- Element i of width w of a vector value. -/
def Claims.el (w : Nat) (v : VWord) (i : Nat) : Nat := v.toNat / 2 ^ (w * i) % 2 ^ w

/-- The register file and number that a vector destination names, as a bundle maps it (R48, R52). -/
def Claims.vdest (k : Core) (g : Gen) (side : VSide) (d : BitVec 7) : RFile × Nat :=
  if d.toNat < 64 then (.v, if d.toNat < 32 then d.toNat else 32 + (d.toNat + 32 - k.base g) % 32)
  else (match side with | .va => .oa | .vb => .ob, d.toNat - 64)

/-- The write path of a vector slot (R56). -/
def Claims.vpath : VSide → WPath
  | .va => .va
  | .vb => .vb

/-- `mask(w, guard)` of R128 for a result of width 32, or of 16 or 8; a core that is idle in the trip has an all-zero guard (R116). -/
def Claims.vmask (s : State) (q c : Nat) (grd : BitVec 3) (w : Nat) : Pred :=
  let p := if s.idle q c then 0 else (s.core c).readP (s.genOf q) grd.toNat
  if w = 32 then (p &&& 0x55555555555555555555555555555555) ||| ((p &&& 0x55555555555555555555555555555555) <<< 1) else p

/-- A vector result of latency L joins the landing queue of every core of the gang, whatever the guards: its value and mask are given, its
destination is the one the bundle names, and nothing else changes. -/
def Claims.vlands (s t : State) (q : Nat) (side : VSide) (d : BitVec 7) (L : Nat) (mask : Nat → Pred) (value : Nat → VWord) : Prop :=
  s.Plain t q ∧ ∀ c ∈ s.gang q,
    let f := Claims.vdest (s.core c) (s.genOf q) side d
    t.core c = { s.core c with pp := (s.core c).pp.settled [{
      rem := L - 1, path := Claims.vpath side, file := f.1, index := f.2, gen := s.genOf q, mask := mask c, value := value c,
      held := false, load := none }] }

/-- Every core of the gang has room for a vector result. -/
def Claims.vroom (s : State) (q : Nat) (side : VSide) (d : BitVec 7) (L : Nat) : Prop :=
  ∀ c ∈ s.gang q, let f := Claims.vdest (s.core c) (s.genOf q) side d
    (s.core c).roomFor (Claims.vpath side) f.1 f.2 L = true

/-- The vector operations with a vector result: latency (R57), and the width of the result's elements: the operation's type, or 32 for a
reduction (R144, R148); none where an operation forms a mask of its own (R143, R149). -/
def Claims.vectorOps (x : VFields) : List ((VSide → VFields → Instr) × Nat × Option Nat) :=
  let w := some (tyWidth x.ty.toNat)
  [(.vadd, 4, w), (.vsub, 4, w), (.vmul, 4, w), (.vfma, 5, w), (.vfms, 5, w), (.vfnma, 5, w), (.vmin, 4, w), (.vmax, 4, w),
   (.vabs, 2, w), (.vneg, 2, w), (.vclass, 2, w), (.vrcp, 14, w), (.vrsqrt, 14, w), (.vsqrt, 14, w), (.vdiv, 14, w), (.vexp2, 14, w),
   (.vlog2, 14, w), (.vrnd, 4, w), (.vscale, 4, w), (.vcvt, 4, none), (.vredsum, 8, some 32), (.vredmax, 8, some 32),
   (.vredmin, 8, some 32), (.viadd, 2, w), (.visub, 2, w), (.vimul, 2, w), (.vimulh, 2, w), (.vimad, 2, w), (.vand, 2, w), (.vor, 2, w),
   (.vxor, 2, w), (.vandn, 2, w), (.vshl, 2, w), (.vshr, 2, w), (.vsra, 2, w), (.vimin, 2, w), (.vimax, 2, w), (.vpopc, 2, w),
   (.vclz, 2, w), (.vperm, 3, w), (.vbcast, 3, w), (.vlsh, 3, w), (.vzip, 3, w), (.vunzip, 3, w), (.vrev, 3, w), (.vsel, 2, w),
   (.vcompress, 3, w), (.vexpand, 3, w), (.vqnt, 4, none), (.vgmax, 8, some 32), (.froms, 2, w)]

/-- R57, R59, R128, R129, R52. Every vector operation with a vector result, on either slot, lands exactly one result with its latency under
the mask of its guard, or one of its own (`VectorValues`), and changes nothing else. -/
def Obligations.VectorLands : Prop :=
  ∀ (s : State) (q : Nat) (side : VSide) (x : VFields) (i : VSide → VFields → Instr) (L : Nat) (w : Option Nat),
    (i, L, w) ∈ Claims.vectorOps x → (i side x).wf = true → s.ready q = true → Claims.vroom s q side x.d L →
    ∃ t, exec (i side x) s = .next t ∧ ∃ mask value, Claims.vlands s t q side x.d L mask value ∧
      ∀ c ∈ s.gang q, ∀ n, w = some n → mask c = Claims.vmask s q c x.grd n

/-- The integer that an element is (R145): signed for the types s32, s16 and s8, unsigned for z32, z16 and z8. -/
def Claims.intEl (ty a : Nat) : Int :=
  let w := tyWidth ty
  if ty < 8 ∧ 2 ^ (w - 1) ≤ a then (a : Int) - 2 ^ w else a

/-- An exact integer as a result of a type (R145): clamped to its range with sat, otherwise modulo 2^w. -/
def Claims.fit (ty : Nat) (sat : Bool) (y : Int) : Nat :=
  let w := tyWidth ty
  let lo : Int := if ty < 8 then -2 ^ (w - 1) else 0
  let hi : Int := if ty < 8 then 2 ^ (w - 1) - 1 else 2 ^ w - 1
  ((if sat then max lo (min hi y) else y) % 2 ^ w).toNat

/-- The integer operations of R145, element by element; s is the amount of a shift. -/
def Claims.vectorInts (x : VFields) : List ((VSide → VFields → Instr) × (Nat → Nat → Nat → Nat → Nat)) :=
  let ty := x.ty.toNat
  let w := tyWidth ty
  let n := Claims.intEl ty
  let sat := x.sat == 1
  [(.viadd, fun a b _ _ => Claims.fit ty sat (n a + n b)),
   (.visub, fun a b _ _ => Claims.fit ty sat (n a - n b)),
   (.vimul, fun a b _ _ => Claims.fit ty sat (n a * n b)),
   (.vimulh, fun a b _ _ => (n a * n b / 2 ^ w % 2 ^ w).toNat),
   (.vimad, fun a b c _ => Claims.fit ty sat (n a * n b + n c)),
   (.vand, fun a b _ _ => a &&& b),
   (.vor, fun a b _ _ => a ||| b),
   (.vxor, fun a b _ _ => a ^^^ b),
   (.vandn, fun a b _ _ => a &&& (2 ^ w - 1 - b)),
   (.vshl, fun a _ _ s => if s < w then a * 2 ^ s % 2 ^ w else 0),
   (.vshr, fun a _ _ s => if s < w then a / 2 ^ s else 0),
   (.vsra, fun a _ _ s =>
      let v : Int := if 2 ^ (w - 1) ≤ a then (a : Int) - 2 ^ w else a
      if s < w then (v / 2 ^ s % 2 ^ w).toNat else if 2 ^ (w - 1) ≤ a then 2 ^ w - 1 else 0),
   (.vimin, fun a b _ _ => if n a ≤ n b then a else b),
   (.vimax, fun a b _ _ => if n a ≥ n b then a else b),
   (.vpopc, fun a _ _ _ => (List.range w).countP fun j => a.testBit j),
   (.vclz, fun a _ _ _ => ((List.range w).find? fun j => a.testBit (w - 1 - j)).getD w)]

/-- R145. Every integer operation computes each element of its result from the elements of its sources, and lands it with latency 2 under
the mask of its guard. -/
def Obligations.VectorIntegers : Prop :=
  ∀ (s : State) (q : Nat) (side : VSide) (x : VFields) (i : VSide → VFields → Instr) (f : Nat → Nat → Nat → Nat → Nat),
    (i, f) ∈ Claims.vectorInts x → (i side x).wf = true → s.ready q = true → Claims.vroom s q side x.d 2 →
    ∃ t, exec (i side x) s = .next t ∧ ∃ value, Claims.vlands s t q side x.d 2 (fun c => Claims.vmask s q c x.grd (tyWidth x.ty.toNat)) value ∧
      ∀ c ∈ s.gang q, ∀ e < 2048 / tyWidth x.ty.toNat,
        let el (r : BitVec 7) := Claims.el (tyWidth x.ty.toNat) (s.rv q c side r) e
        Claims.el (tyWidth x.ty.toNat) (value c) e = f (el x.a) (el x.b) (el x.c) (if x.i = 1 then x.k.toNat else el x.b)

/-- Element i of the result of a permute of R146, from the elements of a and b, their number, and k. -/
def Claims.vectorPerms : List ((VSide → VFields → Instr) × ((Nat → Nat) → (Nat → Nat) → (n k i : Nat) → Nat)) :=
  [(.vperm, fun a b n _ i => a (b i % n)),
   (.vbcast, fun a _ _ k _ => a k),
   (.vlsh, fun a b n k i => if i + k < n then a (i + k) else b (i + k - n)),
   (.vzip, fun a b n k i => if i % 2 = 0 then a (k * (n / 2) + i / 2) else b (k * (n / 2) + i / 2)),
   (.vunzip, fun a b n k i => if i < n / 2 then a (2 * i + k) else b (2 * (i - n / 2) + k)),
   (.vrev, fun a _ n _ i => a (n - 1 - i))]

/-- R146. Every permute without a selecting predicate moves the elements that its entry names, with latency 3. -/
def Claims.VectorPermutes : Prop :=
  ∀ (s : State) (q : Nat) (side : VSide) (x : VFields) (i : VSide → VFields → Instr)
    (f : (Nat → Nat) → (Nat → Nat) → (n k i : Nat) → Nat),
    (i, f) ∈ Claims.vectorPerms → (i side x).wf = true → s.ready q = true → Claims.vroom s q side x.d 3 →
    ∃ t, exec (i side x) s = .next t ∧ ∃ value, Claims.vlands s t q side x.d 3 (fun c => Claims.vmask s q c x.grd (tyWidth x.ty.toNat)) value ∧
      ∀ c ∈ s.gang q, ∀ e < 2048 / tyWidth x.ty.toNat,
        let w := tyWidth x.ty.toNat
        Claims.el w (value c) e = f (Claims.el w (s.rv q c side x.a)) (Claims.el w (s.rv q c side x.b)) (2048 / w) x.k.toNat e

/-- The element operations on encodings (R138, R140): the result of `vabs` and `vneg` on a normal number, and of `vclass` on any. -/
def Claims.vectorBits (ty : Nat) : List ((VSide → VFields → Instr) × (Nat → Option Nat)) :=
  let w := tyWidth ty
  let mb := [23, 7, 10].getD ty 0
  let eb := w - 1 - mb
  let neg (a : Nat) := decide (a / 2 ^ (w - 1) % 2 = 1)
  let ex (a : Nat) := a / 2 ^ mb % 2 ^ eb
  let normal (a : Nat) := decide (ex a ≠ 0 ∧ ex a ≠ 2 ^ eb - 1)
  let class_ (a : Nat) : Nat :=
    if ex a = 2 ^ eb - 1 then
      (if a % 2 ^ mb = 0 then (if neg a then 0 else 7) else if a / 2 ^ (mb - 1) % 2 = 1 then 9 else 8)
    else if ex a = 0 then
      (if a % 2 ^ mb = 0 then (if neg a then 3 else 4) else if neg a then 2 else 5)
    else if neg a then 1 else 6
  [(.vabs, fun a => if normal a then some (a % 2 ^ (w - 1)) else none),
   (.vneg, fun a => if normal a then some (a % 2 ^ (w - 1) + if neg a then 0 else 2 ^ (w - 1)) else none),
   (.vclass, fun a => some (2 ^ class_ a))]

/-- R138, R140. `vabs` and `vneg` clear or invert the sign of every normal number, and `vclass` sets the one bit that names the encoding of its
element. -/
def Claims.VectorEncodings : Prop :=
  ∀ (s : State) (q : Nat) (side : VSide) (x : VFields) (i : VSide → VFields → Instr) (f : Nat → Option Nat),
    (i, f) ∈ Claims.vectorBits x.ty.toNat → (i side x).wf = true → s.ready q = true → Claims.vroom s q side x.d 2 →
    ∃ t, exec (i side x) s = .next t ∧ ∃ value, Claims.vlands s t q side x.d 2 (fun c => Claims.vmask s q c x.grd (tyWidth x.ty.toNat)) value ∧
      ∀ c ∈ s.gang q, ∀ e < 2048 / tyWidth x.ty.toNat, ∀ y,
        f (Claims.el (tyWidth x.ty.toNat) (s.rv q c side x.a) e) = some y → Claims.el (tyWidth x.ty.toNat) (value c) e = y

/-- R146, R151. `vsel` takes each element from a or b by its predicate, and `froms` copies the low bits of a last scalar result to every
element. -/
def Claims.VectorSelects : Prop :=
  ∀ (s : State) (q : Nat) (side : VSide) (x : VFields) (i : VSide → VFields → Instr), i ∈ [Instr.vsel, .froms] →
    (i side x).wf = true → s.ready q = true → Claims.vroom s q side x.d 2 →
    ∃ t, exec (i side x) s = .next t ∧ ∃ value, Claims.vlands s t q side x.d 2 (fun c => Claims.vmask s q c x.grd (tyWidth x.ty.toNat)) value ∧
      ∀ c ∈ s.gang q, ∀ e < 2048 / tyWidth x.ty.toNat,
        let w := tyWidth x.ty.toNat
        let g := s.genOf q
        let lane := if w = 32 then 2 * e else if w = 16 then e else e / 2
        Claims.el w (value c) e =
          if i side x = .froms side x then ((s.core c).readS g (32 + x.a.toNat)).toNat % 2 ^ w
          else if ((s.core c).readP g (x.c.toNat % 8)).getLsbD lane then Claims.el w (s.rv q c side x.a) e
          else Claims.el w (s.rv q c side x.b) e

/-- The number that an element is (R78 to R80): an integer, or a floating-point number that is normal; none for other encodings. -/
def Claims.number (ty a : Nat) : Option Rat :=
  let mb := [23, 7, 10, 3, 2].getD ty 0
  let eb := tyWidth ty - 1 - mb
  let ex := a / 2 ^ mb % 2 ^ eb
  if 5 ≤ ty then some (Claims.intEl ty a)
  else if ex = 0 ∨ ex = 2 ^ eb - 1 then none
  else
    let m : Rat := (2 ^ mb + a % 2 ^ mb : Nat)
    let k : Int := (ex : Int) - (2 ^ (eb - 1) - 1 : Nat) - mb
    some ((if a / 2 ^ (tyWidth ty - 1) % 2 = 1 then -m else m) * (2 : Rat) ^ k)

/-- The floating-point operations of R133: latency, the number of floating-point sources, and what the exact value y is of the numbers a, b
and c; s is the second source as an integer (R135, R137, R141, R142). -/
def Claims.vectorFloats : List ((VSide → VFields → Instr) × Nat × Nat × ((a b c : Rat) → (s : Int) → (y : Rat) → Prop)) :=
  [(.vadd, 4, 2, fun a b _ _ y => y = a + b),
   (.vsub, 4, 2, fun a b _ _ y => y = a - b),
   (.vmul, 4, 2, fun a b _ _ y => y = a * b),
   (.vfma, 5, 3, fun a b c _ y => y = a * b + c),
   (.vfms, 5, 3, fun a b c _ y => y = a * b - c),
   (.vfnma, 5, 3, fun a b c _ y => y = c - a * b),
   (.vmin, 4, 2, fun a b _ _ y => y = if a ≤ b then a else b),
   (.vmax, 4, 2, fun a b _ _ y => y = if a ≤ b then b else a),
   (.vrcp, 14, 1, fun a _ _ _ y => y * a = 1),
   (.vrsqrt, 14, 1, fun a _ _ _ y => 0 < y ∧ y * y * a = 1),
   (.vsqrt, 14, 1, fun a _ _ _ y => 0 < y ∧ y * y = a),
   (.vdiv, 14, 2, fun a b _ _ y => y * b = a),
   (.vexp2, 14, 1, fun a _ _ _ y => ∃ n : Int, a = n ∧ y = (2 : Rat) ^ n),
   (.vlog2, 14, 1, fun a _ _ _ y => ∃ n : Int, y = n ∧ a = (2 : Rat) ^ n),
   (.vrnd, 4, 1, fun a _ _ _ y => y = a ∧ ∃ n : Int, a = n),
   (.vscale, 4, 1, fun a _ _ s y => y = a * (2 : Rat) ^ s)]

/-- R133 to R135, R137, R141, R142. Every floating-point operation lands each element of its result: where the sources are normal numbers and
the exact value is a normal number of the type too, that number, in every rounding mode. -/
def Claims.VectorFloats : Prop :=
  ∀ (s : State) (q : Nat) (side : VSide) (x : VFields) (i : VSide → VFields → Instr) (L n : Nat)
    (f : (a b c : Rat) → (s : Int) → (y : Rat) → Prop),
    (i, L, n, f) ∈ Claims.vectorFloats → (i side x).wf = true → s.ready q = true → Claims.vroom s q side x.d L →
    ∃ t, exec (i side x) s = .next t ∧ ∃ value,
      Claims.vlands s t q side x.d L (fun c => Claims.vmask s q c x.grd (tyWidth x.ty.toNat)) value ∧
      ∀ c ∈ s.gang q, ∀ e < 2048 / tyWidth x.ty.toNat,
        let w := tyWidth x.ty.toNat
        let num (r : BitVec 7) := Claims.number x.ty.toNat (Claims.el w (s.rv q c side r) e)
        ∀ (u v z y : Rat) (bits : Nat), num x.a = some u → (2 ≤ n → num x.b = some v) → (3 ≤ n → num x.c = some z) →
          bits < 2 ^ w → Claims.number x.ty.toNat bits = some y →
          f u v z (BitVec.ofNat w (Claims.el w (s.rv q c side x.b) e)).toInt y → Claims.el w (value c) e = bits

/-- The guard of an operation on a core, all zeros where the core is idle in the trip (R116, R128). -/
def Claims.vguard (s : State) (q c : Nat) (grd : BitVec 3) : Pred := if s.idle q c then 0 else (s.core c).readP (s.genOf q) grd.toNat

/-- `sel(p, i, w)` of R128. -/
def Claims.sel (p : Pred) (i w : Nat) : Bool := p.getLsbD (if w = 32 then 2 * i else if w = 16 then i else i / 2)

/-- R143. `vcvt` converts the part that k names, or to it: a number that the target type holds too is that number there, and an integer outside
the range of an integer type is clamped to it. It selects no element outside that part. -/
def Claims.VectorConverts : Prop :=
  ∀ (s : State) (q : Nat) (side : VSide) (x : VFields), (Instr.vcvt side x).wf = true → s.ready q = true →
    Claims.vroom s q side x.d 4 →
    let ty := x.ty.toNat
    let fn := x.fn.toNat
    let ws := tyWidth ty
    let wt := tyWidth fn
    let n := 2048 / max ws wt
    let src (j : Nat) := if wt ≤ ws then j else x.k.toNat * n + j
    let dst (j : Nat) := if wt ≤ ws then x.k.toNat * n + j else j
    ∃ t, exec (.vcvt side x) s = .next t ∧ ∃ mask value, Claims.vlands s t q side x.d 4 mask value ∧ ∀ c ∈ s.gang q,
      (∀ i < 128, (mask c).getLsbD i = ((Claims.vmask s q c x.grd wt).getLsbD i &&
        (decide (ws < wt) || decide (x.k.toNat * n * wt ≤ 16 * i ∧ 16 * i < (x.k.toNat * n + n) * wt)))) ∧
      ∀ j < n, let a := Claims.el ws (s.rv q c side x.a) (src j)
        (∀ y bits, Claims.number ty a = some y → bits < 2 ^ wt → Claims.number fn bits = some y →
          Claims.el wt (value c) (dst j) = bits) ∧
        (5 ≤ ty → 5 ≤ fn → Claims.el wt (value c) (dst j) = Claims.fit fn true (Claims.intEl ty a))

/-- R149. `vqnt` scales each element by the multiplier of its group, to the part of the result that k names: a product that the target type holds
is that number there. It selects no byte outside that part. -/
def Claims.VectorQuantises : Prop :=
  ∀ (s : State) (q : Nat) (side : VSide) (x : VFields), (Instr.vqnt side x).wf = true → s.ready q = true →
    Claims.vroom s q side x.d 4 →
    let w := tyWidth x.ty.toNat
    let n := 2048 / w
    ∃ t, exec (.vqnt side x) s = .next t ∧ ∃ mask value, Claims.vlands s t q side x.d 4 mask value ∧ ∀ c ∈ s.gang q,
      (∀ i < 128, (mask c).getLsbD i = ((Claims.vguard s q c x.grd).getLsbD i &&
        decide (x.k.toNat * n ≤ 2 * i ∧ 2 * i < x.k.toNat * n + n))) ∧
      ∀ j < n, ∀ u v bits,
        Claims.number x.ty.toNat (Claims.el w (s.rv q c side x.a) j) = some u →
        Claims.number 0 (Claims.el 32 (s.rv q c side x.b) (64 * j / n)) = some v →
        bits < 2 ^ 8 → Claims.number x.fn.toNat bits = some (u * v) → Claims.el 8 (value c) (x.k.toNat * n + j) = bits

/-- R144. Reductions over the elements that the guard selects, with the result in every 32-bit element: `vredsum` of integers is their sum,
wrapped or clamped, and of one number alone that number; `vredmax` and `vredmin` give the greatest and the least. -/
def Claims.VectorReduces : Prop :=
  ∀ (s : State) (q : Nat) (side : VSide) (x : VFields) (i : VSide → VFields → Instr), i ∈ [Instr.vredsum, .vredmax, .vredmin] →
    (i side x).wf = true → s.ready q = true → Claims.vroom s q side x.d 8 →
    let ty := x.ty.toNat
    let w := tyWidth ty
    let n := 2048 / w
    ∃ t, exec (i side x) s = .next t ∧ ∃ value,
      Claims.vlands s t q side x.d 8 (fun c => Claims.vmask s q c x.grd 32) value ∧ ∀ c ∈ s.gang q,
      let on (e : Nat) : Bool := Claims.sel (Claims.vguard s q c x.grd) e w
      let a (e : Nat) := Claims.el w (s.rv q c side x.a) e
      let all (r : Nat) : Prop := ∀ e < 64, Claims.el 32 (value c) e = r
      (i side x = .vredsum side x → 5 ≤ ty →
        all (Claims.fit 5 (x.sat == 1) (((List.range n).filter on).map fun e => Claims.intEl 5 (a e)).sum)) ∧
      ∀ e < n, ∀ u r, on e = true → Claims.number ty (a e) = some u → r < 2 ^ 32 →
        Claims.number (if ty < 5 then 0 else ty) r = some u → (∀ j < n, on j = true → (Claims.number ty (a j)).isSome = true) →
        (i side x = .vredsum side x → ty < 5 → (∀ j < n, on j = true → j = e) → all r) ∧
        (i side x = .vredmax side x → (∀ j < n, on j = true → ∀ v, Claims.number ty (a j) = some v → v ≤ u) → all r) ∧
        (i side x = .vredmin side x → (∀ j < n, on j = true → ∀ v, Claims.number ty (a j) = some v → u ≤ v) → all r)

/-- R148. `vgmax` gives each group of 32 elements the greatest magnitude of those that the guard selects, in the FP32 elements of the group; a
group with none selected has +0. -/
def Claims.VectorGroups : Prop :=
  ∀ (s : State) (q : Nat) (side : VSide) (x : VFields), (Instr.vgmax side x).wf = true → s.ready q = true →
    Claims.vroom s q side x.d 8 →
    let ty := x.ty.toNat
    let w := tyWidth ty
    let per := 64 / (2048 / w / 32)
    let mag (v : Rat) : Rat := if v < 0 then -v else v
    ∃ t, exec (.vgmax side x) s = .next t ∧ ∃ value,
      Claims.vlands s t q side x.d 8 (fun c => Claims.vmask s q c x.grd 32) value ∧ ∀ c ∈ s.gang q, ∀ e < 64,
      let of (j : Nat) : Prop := j / 32 = e / per ∧ Claims.sel (Claims.vguard s q c x.grd) j w = true
      let num (j : Nat) := Claims.number ty (Claims.el w (s.rv q c side x.a) j)
      ((∀ j, ¬ of j) → Claims.el 32 (value c) e = 0) ∧
      ∀ j u r, of j → num j = some u → (∀ i, of i → ∃ v, num i = some v ∧ mag v ≤ mag u) → r < 2 ^ 32 →
        Claims.number 0 r = some (mag u) → Claims.el 32 (value c) e = r

/-- R146. `vcompress` packs the selected elements at the bottom with zeros above, and `vexpand` spreads the lowest elements over the selected
places with zeros elsewhere. -/
def Claims.VectorCompacts : Prop :=
  ∀ (s : State) (q : Nat) (side : VSide) (x : VFields) (i : VSide → VFields → Instr), i ∈ [Instr.vcompress, .vexpand] →
    (i side x).wf = true → s.ready q = true → Claims.vroom s q side x.d 3 →
    let w := tyWidth x.ty.toNat
    ∃ t, exec (i side x) s = .next t ∧ ∃ value,
      Claims.vlands s t q side x.d 3 (fun c => Claims.vmask s q c x.grd w) value ∧ ∀ c ∈ s.gang q,
      let on (e : Nat) : Bool := Claims.sel ((s.core c).readP (s.genOf q) (x.c.toNat % 8)) e w
      let below (e : Nat) := (List.range e).countP on
      let a (e : Nat) := Claims.el w (s.rv q c side x.a) e
      let y (e : Nat) := Claims.el w (value c) e
      ∀ e < 2048 / w,
        (i side x = .vexpand side x → y e = if on e then a (below e) else 0) ∧
        (i side x = .vcompress side x → (on e = true → y (below e) = a e) ∧ (below (2048 / w) ≤ e → y e = 0))

/-- The values of permutes, of operations on encodings and of selections, and those of floating-point operations, conversions, reductions and
quantisation. -/
def Obligations.VectorValues : Prop :=
  (Claims.VectorPermutes ∧ Claims.VectorEncodings ∧ Claims.VectorSelects ∧ Claims.VectorCompacts) ∧
  Claims.VectorFloats ∧ Claims.VectorConverts ∧ Claims.VectorQuantises ∧ Claims.VectorReduces ∧ Claims.VectorGroups

/-- The predicate operations of latency 1 (R147): value and mask. -/
def Claims.predicates (s : State) (q c : Nat) (side : VSide) (x : VFields) : List (Instr × Pred × Pred) :=
  let p (n : BitVec 7) := (s.core c).readP (s.genOf q) (n.toNat % 8)
  let own := Claims.vmask s q c x.grd 16
  let w := tyWidth x.ty.toNat
  [(.pand side x, p x.a &&& p x.b, own), (.por side x, p x.a ||| p x.b, own), (.pxor side x, p x.a ^^^ p x.b, own),
   (.pnot side x, ~~~p x.a, own),
   (.pset side x, BitVec.ofNat 128 (2 ^ (x.k.toNat * (w / 16)) - 1), Claims.vmask s q c x.grd w)]

/-- R147, R59, R47. A predicate operation writes its value to p(d) where its mask is 1, and to no other register; p0 keeps its ones. -/
def Claims.PredicateResults : Prop :=
  ∀ (s : State) (q : Nat) (side : VSide) (x : VFields) (i : Instr), i ∈ (Claims.predicates s q 0 side x).map Prod.fst →
    i.wf = true → s.ready q = true →
    ∃ t, exec i s = .next t ∧ s.Plain t q ∧ ∀ c ∈ s.gang q, ∀ v m, (i, v, m) ∈ Claims.predicates s q c side x →
      let k := s.core c
      let g := s.genOf q
      t.core c = { k with ve := { k.ve with p := (t.core c).ve.p }, pp := k.pp.settled [] [Claims.vpath side] } ∧
      ∀ n < 8, (t.core c).readP g n =
        if n = x.d.toNat % 8 ∧ n ≠ 0 then (v &&& m) ||| (k.readP g n &&& ~~~m) else k.readP g n

/-- R139, R145, R147, R150, R116. `vcmp` and `vicmp` land a predicate, and `pcnt`, `pfirst` and `tos` a scalar over path X, with latency 2;
a core that is idle in the trip gets no scalar result. -/
def Claims.VectorToOthers : Prop :=
  ∀ (s : State) (q : Nat) (side : VSide) (x : VFields) (i : VSide → VFields → Instr),
    i ∈ [Instr.vcmp, .vicmp, .pcnt, .pfirst, .tos] → (i side x).wf = true → s.ready q = true →
    let scalar := !(i side x == .vcmp side x || i side x == .vicmp side x)
    let place : WPath × RFile × Nat := if scalar then (.x, .s, x.d.toNat) else (Claims.vpath side, .p, x.d.toNat % 8)
    (∀ c ∈ s.gang q, (s.core c).roomFor place.1 place.2.1 place.2.2 2 = true) →
    ∃ t, exec (i side x) s = .next t ∧ ∃ (value : Nat → VWord), s.Plain t q ∧ ∀ c ∈ s.gang q,
      let p := (s.core c).readP (s.genOf q) (x.a.toNat % 8)
      (t.core c = if scalar && s.idle q c then (s.core c).idled
        else { s.core c with pp := (s.core c).pp.settled [{
          rem := 1, path := place.1, file := place.2.1, index := place.2.2, gen := s.genOf q,
          mask := if scalar then BitVec.allOnes 128 else Claims.vmask s q c x.grd (tyWidth x.ty.toNat), value := value c,
          held := false, load := none }] }) ∧
      (i side x = .pcnt side x → value c = BitVec.ofNat 2048 ((List.range 128).countP fun j => p.getLsbD j)) ∧
      (i side x = .pfirst side x → value c = BitVec.ofNat 2048 (((List.range 128).find? fun j => p.getLsbD j).getD 128)) ∧
      (i side x = .tos side x → value c = ((s.rv q c side x.a).extractLsb' (64 * x.k.toNat) 64).setWidth 2048) ∧
      (i side x = .vicmp side x → ∀ e < 2048 / tyWidth x.ty.toNat,
        let w := tyWidth x.ty.toNat
        let a := Claims.el w (s.rv q c side x.a) e
        let b := Claims.el w (s.rv q c side x.b) e
        ∀ j < w / 16, (value c).getLsbD (e * (w / 16) + j) =
          Claims.condition x.fn.toNat (BitVec.ofInt 64 (BitVec.ofNat w a).toInt) (BitVec.ofInt 64 (BitVec.ofNat w b).toInt))

/-- Operations of the vector slots that write predicates, and those that write other registers. -/
def Obligations.PredicateOps : Prop := Claims.PredicateResults ∧ Claims.VectorToOthers

/-! ### The matrix slot (R153 to R177) -/

/-- No fence of the core, and no host window of its context, holds back an access issued now, which is of class own or not (R183, R228,
R382). -/
abbrev Claims.unheld (s : State) (q c : Nat) (own : Bool) : Prop := s.fenced own c = false ∧ (own = true → s.windowAhead q = false)

/-- A context may use the matrix state of a core (R176). -/
def Claims.mayUse (s : State) (q c : Nat) : Prop :=
  (s.seq q).sys = true ∨ (s.core c).mx.accown.getLsbD 16 = false ∨ (s.core c).mx.accown.toNat / 2 ^ 32 % 2 ^ 16 = s.ctxIdOf q

/-- ACCOWN with one of its marks set, where the context is the owner (R175). -/
def Claims.marked (w : Word) (id bit : Nat) : Word :=
  if w.toNat / 2 ^ 32 % 2 ^ 16 = id then w ||| BitVec.ofNat 64 (2 ^ bit) else w

/-- The operations that write a tile as their bundle issues: guard, tile, and its rows 2j and 2j + 1 (R169, R172). -/
def Claims.tileWrites (s : State) (q c : Nat) : Instr → Option (BitVec 3 × Nat × (Nat → VWord))
  | .mZero x => some (x.grd, x.t.toNat, fun _ => 0)
  | .mWr x => some (x.grd, x.td.toNat, fun j =>
      if j = x.k.toNat then (s.core c).readV (s.genOf q) x.vs.toNat
      else ((s.core c).readT (s.genOf q) x.td.toNat).extractLsb' (2048 * j) 2048)
  | _ => none

/-- R169, R172, R175. `m.zero` and `m.wr` write their tile on each core whose guard reads 1 as the bundle issues, mark it live for its owner,
and change no other tile; `m.zero` also leaves HALF 0, and marks SQ where that changes it. -/
def Obligations.MatrixTiles : Prop :=
  ∀ (s : State) (q : Nat) (i : Instr), (Claims.tileWrites s q 0 i).isSome = true → i.wf = true → s.ready q = true →
    (∀ c ∈ s.gang q, ∀ grd td f, Claims.tileWrites s q c i = some (grd, td, f) → s.guarded q c grd = true →
      Claims.mayUse s q c ∧ (s.core c).mx.busy td = false) →
    ∃ t, exec i s = .next t ∧ s.Plain t q ∧ ∀ c ∈ s.gang q, ∀ grd td f, Claims.tileWrites s q c i = some (grd, td, f) →
      let k := s.core c
      let g := s.genOf q
      if s.guarded q c grd then
        let zero := match i with
          | .mZero _ => true
          | _ => false
        let own := Claims.marked k.mx.accown (s.ctxIdOf q) (8 + td)
        t.core c = { k with
          mx := { k.mx with
            t := (t.core c).mx.t, half := k.mx.half && !zero,
            accown := if zero && k.mx.half then Claims.marked own (s.ctxIdOf q) 1 else own },
          pp := k.pp.settled [] } ∧
        (∀ j < 16, ((t.core c).readT g td).extractLsb' (2048 * j) 2048 = f j) ∧
        ∀ n, n ≠ td → (t.core c).readT g n = k.readT g n
      else t.core c = k.idled

/-- The other operations of the matrix slot: guard, whether the core can take it, and the core with its effect (R159, R168, R170, R171, R173,
R174, R177). -/
def Claims.matrixOps (s : State) (q c : Nat) : Instr → Option (BitVec 3 × Prop × Core) :=
  let k := s.core c
  let g := s.genOf q
  let run (b : Busy TileOp) : Core := { k with mx := { k.mx with tst := some b } }
  fun i => match i with
  | .mAcc x => some (x.grd, k.mx.busy x.td.toNat = false ∧ k.mx.busy x.ts.toNat = false ∧ k.mx.eng = none,
      let r := tileOf fun i j =>
        accElem (s.levelOf q) (tileAt (k.readT g x.td.toNat) i j) (tileAt (k.readT g x.ts.toNat) i j)
      { k with mx := { k.mx with eng := some { left := 2, bnd := s.nextId, op := .acc x.td.toNat x.ts.toNat r g } } })
  | .mRd x => some (x.grd, k.mx.busy x.ts.toNat = false ∧ k.roomFor .lV .v (Claims.vdest k g .va x.d).2 6 = true,
      { k with pp := { k.pp with fresh := [{
          rem := 5, path := .lV, file := .v, index := (Claims.vdest k g .va x.d).2, gen := g, mask := BitVec.allOnes 128,
          value := (k.readT g x.ts.toNat).extractLsb' (2048 * x.k.toNat) 2048, held := false, load := none }] } })
  | .mFmt x => some (x.grd, True,
      { k with mx := { k.mx with
          fbind := BitVec.ofNat 64 (x.fb.toNat * 256 + x.n.toNat * 8 + x.lvl.toNat), fbOf := some (s.ctxIdOf q),
          accown := Claims.marked k.mx.accown (s.ctxIdOf q) 0 } })
  | .mWait x => some (x.grd, k.mx.busy x.t.toNat = false, k)
  | .mSt x =>
    let width := [4, 2, 1, 1].getD (fmtOut (s.fmtSel q c)) 1
    let bytes := (List.range 1024).flatMap fun n =>
      bytesOfWord width (outElem (s.levelOf q) (s.fmtSel q c) (tileAt (k.readT g x.t.toNat) (n / 32) (n % 32)))
    some (x.grd, k.mx.busy x.t.toNat = false ∧ k.mx.tst = none ∧ Claims.unheld s q c true,
      run { left := 4 * width, bnd := s.nextId, op := .write x.t.toNat (256 * x.off.toNat) bytes (Tag.of g) })
  | .mSave x =>
    let r := SMap.get (Reg.wiped 32768) k.mx.t x.t.toNat
    let sys := (s.seq q).sys
    let bytes := (List.range 4096).map fun j => (if sys then r.val else r.read g).extractLsb' (8 * j) 8
    some (x.grd, k.mx.busy x.t.toNat = false ∧ k.mx.tst = none ∧ Claims.unheld s q c true,
      run { left := 16, bnd := s.nextId, op := .write x.t.toNat (256 * x.off.toNat) bytes (if sys then r.tag else Tag.of g) })
  | .mRest x => some (x.grd, k.mx.busy x.t.toNat = false ∧ k.mx.tst = none ∧ Claims.unheld s q c true,
      run { left := 16, bnd := s.nextId, op := .read x.t.toNat (256 * x.off.toNat) g (s.seq q).sys })
  | _ => none

/-- R159, R168, R170, R171, R173, R174, R177. `m.acc`, `m.rd`, `m.fmt`, `m.wait`, `m.st`, `m.save` and `m.rest` issue where their tiles and their
unit are free: they take their unit for its cycles with the result or the bytes, land the rows read, or set FBIND, and change nothing else. -/
def Obligations.MatrixOps : Prop :=
  ∀ (s : State) (q : Nat) (i : Instr), (Claims.matrixOps s q 0 i).isSome = true → i.wf = true → s.ready q = true →
    (∀ c ∈ s.gang q, ∀ grd ok k', Claims.matrixOps s q c i = some (grd, ok, k') → s.guarded q c grd = true →
      Claims.mayUse s q c ∧ ok) →
    ∃ t, exec i s = .next t ∧ s.Plain t q ∧ ∀ c ∈ s.gang q, ∀ grd ok k', Claims.matrixOps s q c i = some (grd, ok, k') →
      t.core c = if s.guarded q c grd then { k' with pp := (s.core c).pp.settled k'.pp.fresh } else (s.core c).idled

/-- Bytes that a step takes from the ring of its activations and from that of its weights (R155); κ is 32, or 64 for `m.mms`. -/
def Claims.stepBytes (e : QWord) (κ : Nat) : Nat × Nat :=
  (if fmtAt e = 0 then 64 * κ else 32 * κ, [2048, 1024, 1024, 512].getD (fmtWt e) 384)

/-- The entries of the scale queue that a step needs (R161). -/
def Claims.stepNeed (e : QWord) (sparse half : Bool) : Nat :=
  if fmtScl e = 1 then (if sparse && half then 2 else 1) else 0

/-- The rings and the format of a step are right on a core, whatever its guard (R161). -/
def Claims.stepShape (s : State) (q c : Nat) (κ : Nat) (x : LayMma) : Prop :=
  let e := s.fmtSel q c
  let size (n : BitVec 4) := bobSize ((s.core c).readB (s.genOf q) n.toNat)
  size x.ba ≠ 0 ∧ size x.bw ≠ 0 ∧ (Claims.stepBytes e κ).1 ≤ 256 * size x.ba ∧ (Claims.stepBytes e κ).2 ≤ 256 * size x.bw ∧
    (fmtScl e = 2 → x.v = 1)

/-- Nothing holds a step back on a core (R160, R161, R176). -/
def Claims.stepReady (s : State) (q c : Nat) (κ : Nat) (x : LayMma) : Prop :=
  let e := s.fmtSel q c
  let k := s.core c
  let need := Claims.stepNeed e (κ == 64) k.mx.half
  let fill (n : BitVec 4) := bobFill (k.readB (s.genOf q) n.toNat)
  Claims.mayUse s q c ∧ k.mx.eng = none ∧ k.mx.busy x.td.toNat = false ∧ (Claims.stepBytes e κ).1 ≤ fill x.ba ∧
    (Claims.stepBytes e κ).2 ≤ fill x.bw ∧ need ≤ k.mx.scq.length ∧ (k.mx.scq.take need).any ScaleEntry.poisoned = false

/-- A core after the issue of a step: the engine holds it for its cycles, each ring claims its bytes, and the scale queue and HALF have moved
as R96 and R166 say. -/
def Claims.stepped (s t : State) (q c : Nat) (κ : Nat) (x : LayMma) : Prop :=
  let e := s.fmtSel q c
  let k := s.core c
  let g := s.genOf q
  let sz := Claims.stepBytes e κ
  let queue := decide (fmtScl e = 1)
  ∃ r : Tile,
    t.core c = { k with
      me := { k.me with b := (t.core c).me.b },
      mx := { k.mx with
        eng := some {
          left := if fmtWt e = 0 ∧ fmtAt e = 0 then 4 else 2, bnd := s.nextId,
          op := .step x.td.toNat r g x.ba.toNat x.bw.toNat sz.1 sz.2 },
        scq := if queue && (decide (κ = 64) || k.mx.half) then k.mx.scq.drop 1 else k.mx.scq,
        half := if queue && decide (κ = 32) then !k.mx.half else k.mx.half,
        accown := if queue then Claims.marked k.mx.accown (s.ctxIdOf q) 1 else k.mx.accown },
      pp := k.pp.settled [] } ∧
    ∀ n, (t.core c).readB g n =
      if n = x.bw.toNat then bobSetClaim (k.readB g n) sz.2
      else if n = x.ba.toNat then bobSetClaim (k.readB g n) sz.1
      else k.readB g n

/-- R155, R159, R161, R166. `m.mma` issues where its rings, its scales, its tile and the engine allow it: the engine holds the step for its
cycles and the operands are claimed. -/
def Claims.MatrixDense : Prop :=
  ∀ (s : State) (q : Nat) (x : LayMma), (Instr.mMma x).wf = true → s.ready q = true →
    (∀ c ∈ s.gang q, Claims.stepShape s q c 32 x ∧ (s.guarded q c x.grd = true → Claims.stepReady s q c 32 x)) →
    ∃ t, exec (.mMma x) s = .next t ∧ s.Plain t q ∧ ∀ c ∈ s.gang q,
      if s.guarded q c x.grd then Claims.stepped s t q c 32 x else t.core c = (s.core c).idled

/-- R155, R161, R165, R166. `m.mms` does the same over 64 positions of K, with a legal metadata word; MPC goes past that word, whatever the
guards. The word's granule meets no uncorrectable error. -/
def Claims.MatrixSparse : Prop :=
  ∀ (s : State) (q : Nat) (x : LayMma) (w : Word), (Instr.mMms x).wf = true → s.ready q = true →
    s.errors = [] → s.metaRead q = .ok w → (∀ n < 16, w.toNat / 16 ^ n % 4 < w.toNat / 16 ^ n / 4 % 4) →
    (∀ c ∈ s.gang q, Claims.stepShape s q c 64 x ∧ (s.guarded q c x.grd = true → Claims.stepReady s q c 64 x)) →
    ∃ t, exec (.mMms x) s = .next t ∧
      t = { s with cores := t.cores, seqs := t.seqs, nextId := t.nextId, free := t.free } ∧
      (∀ c, c ∉ s.gang q → t.core c = s.core c) ∧
      (t.seq q).pc = (s.seq q).pc + 64 ∧ (t.seq q).phase = .run ∧
      (t.seq q).mpc.read (s.genOf q) = (s.seq q).mpc.read (s.genOf q) + 8 ∧
      ∀ c ∈ s.gang q, if s.guarded q c x.grd then Claims.stepped s t q c 64 x else t.core c = (s.core c).idled

/-- The steps of the matrix engine, dense and sparse. -/
def Obligations.MatrixSteps : Prop := Claims.MatrixDense ∧ Claims.MatrixSparse

/-! ### The load slot (R183 to R190) -/

/-- An access of a core at issue, as the access j of a slot (R62, R183, R192). -/
def Claims.access (s : State) (q c slot j : Nat) (op : FlightOp) (l : List (Run × Place)) (data : List Byte) (dest : Option Dest)
    (w : Option Nat) (acked : Bool) : Flight :=
  { id := s.nextId + 64 * slot + j, bnd := s.nextId, core := c, ctx := s.ctxIdOf q, gen := s.genOf q, op := op,
    pieces := l.flatMap (placePieces c), data := data, dest := dest,
    due := if l.any fun x => x.2.isOwn then some (if op.reads then 3 else 4) else none,
    failed := none, window := w, pins := spotPins (s.seq q).asid l, sc := none, acked := acked, sent := none,
    ready := false, written := false }

/-- The address of R185: an address register and a sign-extended offset. -/
def Claims.address (s : State) (q c : Nat) (an : BitVec 4) (off : BitVec 24) : Word :=
  (s.core c).readA (s.genOf q) an.toNat + BitVec.ofInt 64 off.toInt

/-- The alignment of R181: a multiple of `al`, or within one line of 64 bytes where `al` is 0. -/
def Claims.aligned (a : Word) (n al : Nat) : Prop := if al = 0 then a.toNat % 64 + n ≤ 64 else a.toNat % al = 0

/-- The bytes of an access translate to places that no running operation of the tile store touches, and no fence or host window holds it
(R173, R180, R228). -/
def Claims.reaches (s : State) (q c slot : Nat) (use : Use) (runs : List Run) (l : List (Run × Place)) : Prop :=
  s.spots q c slot use runs = .ok l ∧ s.spotsMeetTst c l = false ∧ Claims.unheld s q c (allOwn l)

/-- What a plain load or a gather asks for: its guard, destination file and number, runs, alignment, bytes and form (R185, R186). -/
structure Claims.LoadForm where
  grd : BitVec 3
  file : RFile
  d : BitVec 6
  runs : List Run
  ok : Prop
  bytes : Nat
  form : Machine.LoadForm

def Claims.loadForm (s : State) (q c : Nat) : Instr → Option Claims.LoadForm :=
  let plain (x : LayL) (file : RFile) (n al : Nat) (form : Machine.LoadForm) : Option Claims.LoadForm :=
    let a := Claims.address s q c x.an x.off
    some { grd := x.grd, file := file, d := x.d, runs := runsOf a n, ok := Claims.aligned a n al, bytes := n, form := form }
  fun i => match i with
  | .lS x => plain x .s (2 ^ (x.sz.toNat / 2)) 0 (.scalar (x.sz.toNat % 2 == 0))
  | .lV x => plain x .v 256 64 .vector
  | .lVp x => plain x .v (4 * 2 ^ x.sz.toNat) 0 .vector
  | .lB x => plain x .v (2 ^ x.sz.toNat) 0 .spread
  | .lG x =>
    let idx := s.gatherIdx q c x
    let at_ := (s.core c).readA (s.genOf q) x.ai.toNat
    let runs := (List.range 64).map fun e =>
      { addr := Claims.address s q c x.ab x.off + BitVec.ofNat 64 (4 * (idx[e]?).getD 0), len := 4, off := 4 * e : Run }
    some { grd := x.grd, file := .v, d := x.d, runs := runs, bytes := 256, form := .vector,
           ok := (∀ r ∈ runs, r.addr.toNat % 4 = 0) ∧ at_.toNat % 64 = 0 ∧ s.tstMeets c (at_.toNat % 2 ^ 21) 256 = false ∧
             ∃ l, s.spots q c 4 .read (runsOf at_ 256) = .ok l ∧ allOwn l = true }
  | _ => none

/-- R183, R185, R186. A load that is aligned, translated and not held issues: a load of the own scratchpad takes its place in the landing queue
with latency 6, any other becomes a long result of its register, and nothing else changes. -/
def Obligations.Loads : Prop :=
  ∀ (s : State) (q c : Nat) (i : Instr) (x : Claims.LoadForm) (l : List (Run × Place)),
    Claims.loadForm s q c i = some x → i.wf = true → s.solo q c → s.guarded q c x.grd = true → x.ok →
    Claims.reaches s q c 4 .read x.runs l →
    let k := s.core c
    let index := if x.file = .s then x.d.toNat else physV (k.base (s.genOf q)) x.d.toNat
    let path := if x.file = .s then WPath.lS else .lV
    (allOwn l = true → k.roomFor path x.file index 6 = true) →
    ∃ t, exec i s = .next t ∧
      s.Alone t { s with flights := s.flights ++ [Claims.access s q c 4 0 (.load x.form (allOwn l)) l (List.replicate x.bytes 0)
        (if allOwn l = true ∨ (x.file = .s ∧ x.d = 0) then none else some { file := x.file, index := index })
        (spotWindows l).head? true] } q c ∧
      t.core c = { k with pp := k.pp.settled (if allOwn l then [{
        rem := 5, path := path, file := x.file, index := index, gen := s.genOf q, mask := BitVec.allOnes 128, value := 0,
        held := false, load := some (s.nextId + 256) }] else []) }

/-- The operations on address registers: guard, register, value and latency (R190). -/
def Claims.addressOps (s : State) (q c : Nat) : Instr → Option (BitVec 3 × Nat × Word × Nat)
  | .lAadd x =>
    let k := s.core c
    let b := if x.i = 0 then k.readS (s.genOf q) (x.b.toNat / 2 ^ 38) else BitVec.ofInt 64 x.b.toInt
    some (x.grd, x.ad.toNat, k.readA (s.genOf q) x.an.toNat + b, 1)
  | .lAli x => some (x.grd, x.ad.toNat, BitVec.ofNat 64 x.imm.toNat, 1)
  | .lAmov x => some (x.grd, x.ad.toNat, (s.core c).readS (s.genOf q) x.sa.toNat, 2)
  | _ => none

/-- R190, R59, R47. `l.aadd` and `l.ali` write an address register as their bundle issues, where a0 keeps zero; `l.amov` lands with latency 2. -/
def Claims.AddressOps : Prop :=
  ∀ (s : State) (q : Nat) (i : Instr), (Claims.addressOps s q 0 i).isSome = true → i.wf = true → s.ready q = true →
    (∀ c ∈ s.gang q, ∀ grd d v L, Claims.addressOps s q c i = some (grd, d, v, L) → (s.core c).roomFor .lA .a d L = true) →
    ∃ t, exec i s = .next t ∧ s.Plain t q ∧ ∀ c ∈ s.gang q, ∀ grd d v L, Claims.addressOps s q c i = some (grd, d, v, L) →
      let k := s.core c
      let g := s.genOf q
      if s.guarded q c grd then
        if L = 1 then
          t.core c = { k with me := { k.me with a := (t.core c).me.a }, pp := k.pp.settled [] [.lA] } ∧
          ∀ n, (t.core c).readA g n = if n = d ∧ n ≠ 0 then v else k.readA g n
        else t.core c = { k with pp := k.pp.settled [{
          rem := L - 1, path := .lA, file := .a, index := d, gen := g, mask := BitVec.allOnes 128, value := v.setWidth 2048,
          held := false, load := none }] }
      else t.core c = k.idled

/-- R190, R102. `l.mpc` is decided on the lead core and sets MPC, whose low three bits stay 0. -/
def Claims.MetadataPointer : Prop :=
  ∀ (s : State) (q : Nat) (x : LayLAn), (Instr.lMpc x).wf = true → s.ready q = true →
    ∃ t, exec (.lMpc x) s = .next t ∧
      t = { s with cores := t.cores, seqs := t.seqs, nextId := t.nextId, free := t.free } ∧
      (∀ c, t.core c = if c ∈ s.gang q then (s.core c).idled else s.core c) ∧
      (t.seq q).pc = (s.seq q).pc + 64 ∧ (t.seq q).phase = .run ∧
      (t.seq q).mpc.read (s.genOf q) =
        if (s.core (s.lead q)).readQ (s.genOf q) x.grd.toNat then
          BitVec.ofNat 64 ((Claims.address s q (s.lead q) x.an x.off).toNat / 8 * 8)
        else (s.seq q).mpc.read (s.genOf q)

/-- R187, R194. A full/empty access of an own granule that is in the state it needs issues: the load lands with latency 6, and takes with fq 2;
the store carries its 16 bytes. -/
def Claims.FullEmptyOwn : Prop :=
  ∀ (s : State) (q c off : Nat), s.solo q c →
    (∀ (x : LayL) (r : Run), (Instr.lFe x).wf = true → s.guarded q c x.grd = true →
      let a := Claims.address s q c x.an x.off
      let index := physV ((s.core c).base (s.genOf q)) x.d.toNat
      a.toNat % 16 = 0 → Claims.reaches s q c 4 .read (runsOf a 16) [(r, .own off)] → s.tstMeets c off 16 = false →
      s.fullAhead c (s.genOf q) off = true → (s.core c).roomFor .lV .v index 6 = true →
      ∃ t, exec (.lFe x) s = .next t ∧
        s.Alone t { s with flights := s.flights ++ [Claims.access s q c 4 0 (.fe (x.fq == 2) true) [(r, .own off)]
          (List.replicate 16 0) none none true] } q c ∧
        t.core c = { s.core c with pp := (s.core c).pp.settled [{
          rem := 5, path := .lV, file := .v, index := index, gen := s.genOf q, mask := BitVec.allOnes 128, value := 0, held := false,
          load := some (s.nextId + 256) }] }) ∧
    (∀ (x : LayW) (r : Run), (Instr.wFe x).wf = true → s.guarded q c x.grd = true →
      let a := Claims.address s q c x.an x.off
      let bytes := (List.range 16).map fun j =>
        ((s.core c).readV (s.genOf q) x.src.toNat).extractLsb' (128 * x.k.toNat + 8 * j) 8
      a.toNat % 16 = 0 → Claims.reaches s q c 5 .write (runsOf a 16) [(r, .own off)] → s.tstMeets c off 16 = false →
      s.fullAhead c (s.genOf q) off = false →
      ∃ t, exec (.wFe x) s = .next t ∧
        s.Alone t { s with flights := s.flights ++ [Claims.access s q c 5 0 .wfe [(r, .own off)] bytes none none true] } q c ∧
        t.core c = (s.core c).idled)

/-- R187, R194. A full/empty access of a peer's granule issues once the peer bank has answered its request: the answer of the load becomes the
long result of its register, and the request of the store is done. -/
def Claims.FullEmptyPeer : Prop :=
  ∀ (s : State) (q c p off : Nat) (f : Flight), s.solo q c → f.allDone = true →
    (∀ (x : LayL) (r : Run), (Instr.lFe x).wf = true → s.guarded q c x.grd = true → s.fedAccess c 4 = some f →
      (Claims.address s q c x.an x.off).toNat % 16 = 0 →
      Claims.reaches s q c 4 .read (runsOf (Claims.address s q c x.an x.off) 16) [(r, .peer p off)] →
      ∃ t, exec (.lFe x) s = .next t ∧
        s.Alone t { s with flights := s.flights.map fun e => if e.id = f.id then
          { e with dest := some { file := .v, index := physV ((s.core c).base (s.genOf q)) x.d.toNat } } else e } q c ∧
        t.core c = (s.core c).idled) ∧
    (∀ (x : LayW) (r : Run), (Instr.wFe x).wf = true → s.guarded q c x.grd = true → s.fedAccess c 5 = some f →
      (Claims.address s q c x.an x.off).toNat % 16 = 0 →
      Claims.reaches s q c 5 .write (runsOf (Claims.address s q c x.an x.off) 16) [(r, .peer p off)] →
      ∃ t, exec (.wFe x) s = .next t ∧
        s.Alone t { s with flights := s.flights.filter fun e => e.id ≠ f.id } q c ∧
        t.core c = (s.core c).idled)

/-- R187, R194, R370. Full/empty operations on own granules and on peers. -/
def Obligations.FullEmpty : Prop := Claims.FullEmptyOwn ∧ Claims.FullEmptyPeer

/-- R188. `l.scl` issues while the scale queue has a place for its entry: it is an access under way with no register. -/
def Claims.ScaleLoad : Prop :=
  ∀ (s : State) (q c : Nat) (x : LayLAn) (l : List (Run × Place)), (Instr.lScl x).wf = true → s.solo q c →
    s.guarded q c x.grd = true → Claims.mayUse s q c → s.sclGone q c = false →
    (s.core c).mx.scq.length + (s.flights.filter fun f => f.core == c && decide (f.op = .scl)).length < 8 →
    let a := Claims.address s q c x.an x.off
    a.toNat % 64 = 0 → Claims.reaches s q c 4 .read (runsOf a 64) l →
    ∃ t, exec (.lScl x) s = .next t ∧
      s.Alone t { s with flights := s.flights ++ [Claims.access s q c 4 0 .scl l (List.replicate 64 0) none none true] } q c ∧
      t.core c = { s.core c with pp := { (s.core c).pp.settled [] with sclSent := none } }

/-- The operations of the load slots that compute an address, move the metadata pointer, or read scales. -/
def Obligations.LoadSlotOps : Prop := Claims.AddressOps ∧ Claims.MetadataPointer ∧ Claims.ScaleLoad

/-- The core at a distance of ranks (R342): the GRANK of a core plus LCH [15:0] as a signed distance, modulo NCORE. -/
def Claims.rankAt (s : State) (q c : Nat) (dist : Int) : Option Nat :=
  (s.ctxOf q).bind fun x => if x.ncore = 0 then none
    else allDies.findSome? fun d => x.coreOfRank d ((((s.core c).sp.grank : Int) + dist) % (x.ncore : Int)).toNat

/-- R189, R202, R203, R342. `l.rcv` of a channel that holds an entry takes it: the entry is the long result of its register, and a credit
returns to the core that many ranks back, where its gang runs. `w.snd` with a credit left uses it, and its 256 bytes are on their way. -/
def Obligations.LinkMessages : Prop :=
  ∀ (s : State) (q c : Nat), s.solo q c →
    (∀ (x : LayLRcv) (e : Reg 2048) (rest : List (Reg 2048)), (Instr.lRcv x).wf = true → s.guarded q c x.grd = true →
      let ch := x.ch.toNat
      let from_ := Claims.rankAt s q c (-((s.lch q ch).extractLsb' 0 16).toInt)
      (s.lch q ch).getLsbD 63 = true → ((s.core c).rq ch).entries = e :: rest →
      (∀ b, from_ = some b → s.keptCore (s.ctxIdOf q) b = false) →
      ∃ t, exec (.lRcv x) s = .next t ∧ s.Onward t q ∧
        t = { s with
              cores := t.cores, seqs := t.seqs, nextId := t.nextId, free := t.free,
              flights := s.flights ++ [Claims.access s q c 4 0 .rcv []
                ((List.range 256).map fun j => (e.read (s.genOf q)).extractLsb' (8 * j) 8)
                (some { file := .v, index := physV ((s.core c).base (s.genOf q)) x.d.toNat }) none true] } ∧
        ∀ b, t.core b =
          let k := if b = c then (s.core c).idled.modRq ch fun r => { r with entries := rest } else s.core b
          if from_ = some b then k.modRq ch fun r => { r with credits := r.credits + 1 } else k) ∧
    (∀ (x : LayWSnd) (b : Nat), (Instr.wSnd x).wf = true → s.guarded q c x.grd = true →
      let ch := x.ch.toNat
      (s.lch q ch).getLsbD 63 = true → 0 < ((s.core c).rq ch).credits →
      Claims.rankAt s q c ((s.lch q ch).extractLsb' 0 16).toInt = some b →
      ∃ t, exec (.wSnd x) s = .next t ∧
        s.Alone t { s with flights := s.flights ++ [Claims.access s q c 5 0 (.send b ch) []
          ((List.range 256).map fun j => ((s.core c).readV (s.genOf q) x.vs.toNat).extractLsb' (8 * j) 8) none none false] } q c ∧
        t.core c = (s.core c).idled.modRq ch fun r => { r with credits := r.credits - 1 })

/-! ### The store slot (R192 to R201) -/

/-- What a store, scatter or reduction asks for: guard, runs, alignment, use, what it does and its bytes (R192, R193, R199). -/
structure Claims.StoreForm where
  grd : BitVec 3
  runs : List Run
  ok : Prop
  use : Use
  op : FlightOp
  data : List Byte

/-- Words from an address on, each at four times its index. -/
def Claims.wordRuns (base : Word) (idx : Nat → Nat) : List Run :=
  (List.range 64).map fun e => { addr := base + BitVec.ofNat 64 (4 * idx e), len := 4, off := 4 * e }

def Claims.storeForm (s : State) (q c : Nat) : Instr → Option Claims.StoreForm :=
  let g := s.genOf q
  let v (n : BitVec 7) : VWord := (s.core c).readV g n.toNat
  let part (w : VWord) (from_ n : Nat) : List Byte := (List.range n).map fun j => w.extractLsb' (8 * (from_ + j)) 8
  fun i => match i with
  | .wS x =>
    let a := Claims.address s q c x.an x.off
    let n := 2 ^ x.sz.toNat
    some { grd := x.grd, runs := runsOf a n, ok := Claims.aligned a n 0, use := .write, op := .store,
           data := part (((s.core c).readS g (x.src.toNat % 64)).setWidth 2048) 0 n }
  | .wV x =>
    let a := Claims.address s q c x.an x.off
    some { grd := x.grd, runs := runsOf a 256, ok := Claims.aligned a 256 64, use := .write, op := .store, data := part (v x.src) 0 256 }
  | .wVp x =>
    let a := Claims.address s q c x.an x.off
    let n := 4 * 2 ^ x.sz.toNat
    some { grd := x.grd, runs := runsOf a n, ok := Claims.aligned a n 0, use := .write, op := .store,
           data := part (v x.src) (n * x.k.toNat) n }
  | .wSc x =>
    let runs := Claims.wordRuns (Claims.address s q c x.an x.off) (Claims.el 32 (v x.vi))
    some { grd := x.grd, runs := runs, ok := ∀ r ∈ runs, r.addr.toNat % 4 = 0, use := .write, op := .store, data := part (v x.vs) 0 256 }
  | .wRed x =>
    let a := Claims.address s q c x.an x.off
    let n := if x.ty = 0 then 8 else 4
    if x.vec = 1 then
      some { grd := x.grd, runs := Claims.wordRuns a id, ok := Claims.aligned a 256 256, use := .both,
             op := .redv (aopOf x.aop.toNat) x.ty.toNat (v x.src), data := List.replicate 256 0 }
    else
      some { grd := x.grd, runs := runsOf a n, ok := Claims.aligned a n n, use := .both,
             op := .atom (aopOf x.aop.toNat) x.ty.toNat ((s.core c).readS g (x.src.toNat % 64)) false, data := List.replicate n 0 }
  | _ => none

/-- R192, R193, R199, R201. A store, scatter or reduction outside the aperture that is aligned, translated and not held issues: its bytes are on
their way, in one access for what lies outside windows and one for each window, whose OUT counts one more. -/
def Obligations.Stores : Prop :=
  ∀ (s : State) (q c : Nat) (i : Instr) (x : Claims.StoreForm) (l : List (Run × Place)),
    Claims.storeForm s q c i = some x → i.wf = true → s.solo q c → s.guarded q c x.grd = true → x.ok →
    Claims.reaches s q c 5 x.use x.runs l → apertureOf l = none → s.allowWaits q c (fun _ => spotWindows l) = false →
    ∃ t, exec i s = .next t ∧
      s.Alone t { s with
        flights := s.flights ++ (none :: (spotWindows l).map some).zipIdx.filterMap fun (w, j) =>
          let here := spotsOf w l
          if here.isEmpty then none else some (Claims.access s q c 5 j x.op here x.data none w w.isNone),
        ctxs := t.ctxs } q c ∧
      t.core c = (s.core c).idled ∧
      (∀ y, (t.ctx? y).map (fun e => { e with outs := [] }) = (s.ctx? y).map fun e => { e with outs := [] }) ∧
      ∀ y a b w, s.ctx? y = some a → t.ctx? y = some b →
        b.out w = a.out w + if y = s.ctxIdOf q ∧ w ∈ spotWindows l then 1 else 0

/-- R197, R198. `w.atom` and `w.cas` that are aligned, translated and not held issue: the old value is the long result of s(sd), unless sd
is 0. -/
def Obligations.Atomics : Prop :=
  ∀ (s : State) (q c : Nat) (i : Instr) (grd : BitVec 3) (an : BitVec 4) (off : BitVec 24) (sd : BitVec 6) (ty : BitVec 2)
    (op : FlightOp) (l : List (Run × Place)),
    (match i with
     | .wAtom x => grd = x.grd ∧ an = x.an ∧ off = x.off ∧ sd = x.sd ∧ ty = x.ty ∧
         op = .atom (aopOf x.aop.toNat) x.ty.toNat ((s.core c).readS (s.genOf q) x.sv.toNat) true
     | .wCas x => grd = x.grd ∧ an = x.an ∧ off = x.off ∧ sd = x.sd ∧ ty = x.ty ∧
         op = .cas x.ty.toNat ((s.core c).readS (s.genOf q) x.sc.toNat) ((s.core c).readS (s.genOf q) x.sn.toNat)
     | _ => False) →
    i.wf = true → s.solo q c → s.guarded q c grd = true →
    let a := Claims.address s q c an off
    let n := if ty = 0 then 8 else 4
    a.toNat % n = 0 → Claims.reaches s q c 5 .both (runsOf a n) l → apertureOf l = none →
    ∃ t, exec i s = .next t ∧
      s.Alone t { s with flights := s.flights ++ [Claims.access s q c 5 0 op l (List.replicate n 0)
        (if sd = 0 then none else some { file := .s, index := sd.toNat }) (spotWindows l).head? true] } q c ∧
      t.core c = (s.core c).idled

/-! ### The copy slot (R204 to R218) -/

/-- The copy operations that act on their core alone: guard, what they need, and the core at the end of the bundle (R206, R211, R214). -/
def Claims.copyOps (s : State) (q c : Nat) : Instr → Option (BitVec 3 × Prop × Core) :=
  let k := s.core c
  let g := s.genOf q
  fun i => match i with
  | .cShp x => some (x.grd, True, { k.idled with me := { k.me with shp := [(x.hd.toNat, 2, k.readS g x.sa.toNat, g)] } })
  | .cRing x =>
    let word := BitVec.ofNat 128 (x.base.toNat * 2 ^ 112 + x.size.toNat * 2 ^ 98)
    some (x.grd, bobClaim (k.readB g x.b.toNat) = 0 ∧ ∀ e ∈ k.chan, ∀ r ∈ e.2, r.bobbin ≠ some x.b.toNat,
      { k.idled with me := { k.me with b := SMap.set (Reg.wiped 128) k.me.b x.b.toNat (Reg.of word g) } })
  | .cSeal x =>
    let rest := k.seals.filter fun b => ¬(b.tpl = x.tpl.toNat ∧ b.owner = s.ctxIdOf q)
    if x.mode = 0 then some (x.grd, (s.seq q).sys = true, { k.idled with seals := rest })
    else
      match s.template q c x.tpl.toNat with
      | .ok w =>
        let kctx := (w[2]?.getD 0).toNat / 2 ^ 16 % 2 ^ 16
        match (s.ctx? kctx).bind Ctx.key with
        | some key => some (x.grd,
            (s.seq q).sys = true ∧ ((∃ b ∈ k.seals, b.tpl = x.tpl.toNat ∧ b.owner = s.ctxIdOf q) ∨
              (k.seals.filter fun b => b.owner == s.ctxIdOf q).length < 4),
            { k.idled with seals := rest ++ [{
                owner := s.ctxIdOf q, tpl := x.tpl.toNat, words := w, key := key, kctx := kctx, opening := x.mode == 2 }] })
        | none => some (x.grd, False, k.idled)
      | _ => some (x.grd, False, k.idled)
  | _ => none

/-- R206, R211, R214. `c.shp` writes a shape that later bundles see, `c.ring` binds a bobbin with HEAD, TAIL and CLAIM 0 once nothing uses it,
and `c.seal` keeps or removes a binding, on each core whose guard reads 1. -/
def Claims.CopyLocal : Prop :=
  ∀ (s : State) (q : Nat) (i : Instr), (Claims.copyOps s q 0 i).isSome = true → i.wf = true → s.ready q = true →
    (match i with
     | .cSeal _ => (s.seq q).sys = true
     | _ => True) →
    (∀ c ∈ s.gang q, ∀ grd ok k', Claims.copyOps s q c i = some (grd, ok, k') → s.guarded q c grd = true → ok) →
    ∃ t, exec i s = .next t ∧ s.Plain t q ∧ ∀ c ∈ s.gang q, ∀ grd ok k', Claims.copyOps s q c i = some (grd, ok, k') →
      t.core c = if s.guarded q c grd then k' else (s.core c).idled

/-- A number of a timeline has ended (R224, R368). -/
def Claims.ended (x : Timeline) (n : Nat) : Prop := n ≤ x.done ∨ n ∈ x.ended

/-- One timeline counter of a die has given the number `n`; of the dies nothing else changes. -/
def Claims.numbered (s t : State) (d i n : Nat) : Prop :=
  (∀ e, t.die e = { s.die e with tls := (t.die e).tls }) ∧ (∀ e j, (e ≠ d ∨ j ≠ i) → t.tl e j = s.tl e j) ∧
  (t.tl d i).next = n ∧ (s.tl d i).done ≤ (t.tl d i).done

/-- R205, R207, R208, R209, R211, R223. `c.go` takes the next number of its counter. A copy of at least one byte joins channel 0; one of none
ends at once; one into a bobbin that is not bound fails with ILLOP. -/
def Claims.CopyStart : Prop :=
  ∀ (s : State) (q c i len : Nat) (x : LayCGo) (dims : List (Nat × Int × Int)), (Instr.cGo x).wf = true → s.solo q c →
    s.guarded q c x.grd = true → s.tlOf q x.tl.toNat = some i → (s.core c).shapeAt (s.genOf q) x.hs.toNat = some (len, dims) →
    (s.tl (dieOfSeq q) i).next + 1 < 2 ^ 64 →
    let k := s.core c
    let g := s.genOf q
    let d := dieOfSeq q
    let n := (s.tl d i).next + 1
    let ring := decide (x.dk = 1)
    ∃ t, exec (.cGo x) s = .next t ∧ s.Alone t { s with dies := t.dies } q c ∧ Claims.numbered s t d i n ∧
      if ring = true ∧ bobSize (k.readB g x.dst.toNat) = 0 then
        t.core c = k.idled ∧ ((s.tl d i).fails.length < 8 → (t.tl d i).fails = (s.tl d i).fails ++ [(n, cILLOP)] ∧ Claims.ended (t.tl d i) n)
      else if len = 0 ∨ ∃ e ∈ dims, e.1 = 0 then
        t.core c = k.idled ∧ (t.tl d i).fails = (s.tl d i).fails ∧ Claims.ended (t.tl d i) n
      else
        t.tl d i = { s.tl d i with next := n } ∧
        t.core c = k.idled.setChan 0 (k.chanOf 0 ++ [{
          ctx := s.ctxIdOf q, gone := none, asid := (s.seq q).asid, gen := g, held := g, sys := (s.seq q).sys, tl := i, num := n,
          src := k.readA g x.src.toNat, dst := if ring then 0 else k.readA g x.dst.toNat,
          bobbin := if ring then some x.dst.toNat else none, len := len, dims := dims, idx := List.replicate dims.length 0, off := 0,
          sealed := none, wait := 4, failed := none, finished := false }])

/-- Operations of the copy slot that act in the core, and the start of a copy. -/
def Obligations.Copies : Prop := Claims.CopyLocal ∧ Claims.CopyStart

/-- The cache operations: guard, counter, kind, address and length registers, scope (R216, R217). -/
def Claims.cacheOp : Instr → Option (BitVec 3 × BitVec 12 × Nat × BitVec 4 × BitVec 6 × BitVec 4)
  | .cIcinv x => some (x.grd, x.tl, 0, x.an, x.sl, x.scope)
  | .cL2wb x => some (x.grd, x.tl, 1, x.an, x.sl, 0)
  | .cL2inv x => some (x.grd, x.tl, 2, x.an, x.sl, 0)
  | _ => none

/-- R216, R217, R223. `c.icinv`, `c.l2wb` and `c.l2inv` take the next number of their counter. The lines of the own instruction cache that the
range of `c.icinv` touches leave it at once, and at die scope, or with no other die present, its number ends; every other joins the maintenance under way. -/
def Obligations.CacheMaintenance : Prop :=
  ∀ (s : State) (q c j kind : Nat) (i : Instr) (grd : BitVec 3) (tl : BitVec 12) (an : BitVec 4) (sl : BitVec 6) (scope : BitVec 4),
    Claims.cacheOp i = some (grd, tl, kind, an, sl, scope) → i.wf = true → s.solo q c → s.guarded q c grd = true →
    s.tlOf q tl.toNat = some j → (s.tl (dieOfSeq q) j).next + 1 < 2 ^ 64 →
    let k := s.core c
    let g := s.genOf q
    let d := dieOfSeq q
    let n := (s.tl d j).next + 1
    let lo := k.readA g an.toNat
    let len := k.readS g sl.toNat
    ∃ t, exec i s = .next t ∧ s.Alone t { s with dies := t.dies, maints := t.maints } q c ∧ t.core c = k.idled ∧
      (t.tl d j).next = n ∧ (∀ e m, (e ≠ d ∨ m ≠ j) → t.tl e m = s.tl e m) ∧
      (∀ e, (t.die e).icache = if e = d ∧ kind = 0 then
          (s.die e).icache.filter fun y =>
            !(y.asid == (s.seq q).asid && decide (len ≠ 0 ∧ y.va.toNat < lo.toNat + len.toNat ∧ lo.toNat < y.va.toNat + 64))
        else (s.die e).icache) ∧
      if kind = 0 ∧ (scope ≠ 4 ∨ ((List.range 8).all fun e => !s.present e || e == d) = true) then t.maints = s.maints ∧ Claims.ended (t.tl d j) n
      else
        t.tl d j = { s.tl d j with next := n } ∧
        t.maints = s.maints ++ [{
          id := s.nextId + 64 * 6, die := d, tl := j, num := n, ctx := s.ctxIdOf q, gen := g, kind := kind, asid := (s.seq q).asid,
          lo := lo, len := len, dies := (List.range 8).filter fun e => s.present e && (kind != 0 || e != d) }]

/-- R218, R442, R223. `c.gq` of an aligned packet in the own scratchpad, for a queue bound to the partition with a place, takes the next number
and joins the queue of the socket. -/
def Obligations.PacketPost : Prop :=
  ∀ (s : State) (q c j : Nat) (x : LayCGq) (l : List (Run × Place)), (Instr.cGq x).wf = true → s.solo q c →
    s.guarded q c x.grd = true → s.tlOf q x.tl.toNat = some j → (s.tl (dieOfSeq q) j).next + 1 < 2 ^ 64 →
    let d := dieOfSeq q
    let a := (s.core c).readA (s.genOf q) x.an.toNat
    let n := (s.tl d j).next + 1
    s.spots q c 6 .read (runsOf a 64) = .ok l → allOwn l = true → a.toNat % 64 = 0 → s.gqBound q x.gq.toNat = true →
    (s.die d).sock.phase = .up → ((s.die d).sock.queue x.gq.toNat).length < 8 →
    ∃ t, exec (.cGq x) s = .next t ∧ s.Alone t { s with dies := t.dies } q c ∧ t.core c = (s.core c).idled ∧
      (∀ e, t.die e = { s.die e with tls := (t.die e).tls, sock := { (s.die e).sock with pq := (t.die e).sock.pq } }) ∧
      (∀ e m, t.tl e m = if e = d ∧ m = j then { s.tl e m with next := n } else s.tl e m) ∧
      ∀ e m, (t.die e).sock.queue m = if e = d ∧ m = x.gq.toNat then
          (s.die e).sock.queue m ++ [{
            ctx := s.ctxIdOf q, gen := s.genOf q, asid := (s.seq q).asid, gq := m, tl := j, num := n, pseq := 0, body := [],
            from_ := some (locSpad c (a.toNat % 2 ^ 21)), wait := 4 }]
        else (s.die e).sock.queue m

/-- R213, R214, R215. An 8-byte `w.s` at offset 0 of an aperture channel with a place starts a copy from the template it names: the copy takes
the next number of the template's counter and joins the channel. With a binding it is sealed or opened under the bound key, and a seal counts
SSEQ. -/
def Obligations.ApertureStart : Prop :=
  ∀ (s : State) (q c ch j len : Nat) (x : LayW) (w : List Word) (dims : List (Nat × Int × Int)) (b : Option (SealSlot × Ctx)),
    (Instr.wS x).wf = true → x.sz = 3 → s.solo q c → s.guarded q c x.grd = true → s.fenced false c = false → 1 ≤ ch → ch < 8 →
    Claims.address s q c x.an x.off = BitVec.ofNat 64 (0x800000 + 64 * ch) →
    let k := s.core c
    let g := s.genOf q
    let d := dieOfSeq q
    let n := (s.tl d j).next + 1
    let tpl := (k.readS g (x.src.toNat % 64)).toNat
    let word (i : Nat) : Word := w[i]?.getD 0
    tpl < 32 → s.startWords q c tpl = .ok w → (∀ i < 6, word (10 + i) = 0) →
    shapeOf (word 3) ((List.range 5).map fun i => word (4 + i)) = some (len, dims) →
    s.tlOf q ((word 2).toNat % 2 ^ 12) = some j → n < 2 ^ 64 → (k.chanOf ch).length < 4 →
    (match b with
     | none => s.binding q c tpl = none ∧ len ≠ 0 ∧ ∀ e ∈ dims, e.1 ≠ 0
     | some (a, y) => s.binding q c tpl = some a ∧ s.ctx? a.kctx = some y ∧ y.key = some a.key ∧
         (a.opening = true ∨ y.sseq ≠ 2 ^ 32 - 1)) →
    ∃ t, exec (.wS x) s = .next t ∧ s.Alone t { s with dies := t.dies, ctxs := t.ctxs } q c ∧ Claims.numbered s t d j n ∧
      t.tl d j = { s.tl d j with next := n } ∧
      (∀ z, t.ctx? z = match b with
        | some (a, y) => if z = a.kctx ∧ a.opening = false then some { y with sseq := y.sseq + 1 } else s.ctx? z
        | none => s.ctx? z) ∧
      t.core c = k.idled.setChan ch (k.chanOf ch ++ [{
        ctx := s.ctxIdOf q, gone := none, asid := (s.seq q).asid, gen := b.elim g fun e => e.2.gen, held := g, sys := (s.seq q).sys, tl := j, num := n,
        src := word 0, dst := word 1, bobbin := none, len := len, dims := dims, idx := List.replicate dims.length 0, off := 0,
        sealed := b.map fun e => {
          key := e.1.key, kctx := e.1.kctx, tpl := e.1.tpl, opening := e.1.opening, order := s.accessId q c 5 0, trailer := word 9,
          savectr := e.2.savectr,
          sseq := e.2.sseq, done := [], head := none },
        wait := 4, failed := none, finished := decide (len = 0 ∨ ∃ e ∈ dims, e.1 = 0) }])

/-- R213. Any other access of the store slot that reaches the aperture traps with PERM: no slot takes effect. -/
def Claims.ApertureTraps : Prop :=
  ∀ (s : State) (q c ch off : Nat) (i : Instr) (x : Claims.StoreForm) (l : List (Run × Place)),
    Claims.storeForm s q c i = some x → i.wf = true → s.solo q c → s.guarded q c x.grd = true → x.ok →
    s.spots q c 5 x.use x.runs = .ok l → apertureOf l = some (ch, off) → s.fedOut q = false →
    (s.acting q && tcNest (s.core c).sp.tcause && (s.seq q).sys) = false →
    (match i with
     | .wS y => y.sz ≠ 3 ∨ off ≠ 0 ∨ ch = 0
     | _ => True) →
    ∃ t, exec i s = .next t ∧ t.mem = s.mem ∧ t.flights = s.flights ∧ (t.seq q).phase = .bubble 2 ∧
      (t.core c).sp.tpc = lineAddr (s.seq q).pc ∧ tcCause (t.core c).sp.tcause = 5 ∧ (t.core c).chan = (s.core c).chan

/-! ### The sync slot (R223 to R246) -/

/-- The scope at which an operation performs, and CLIPPED (R377, R378). -/
def Claims.fenced (s : State) (q c : Nat) (scope : Nat) : Core :=
  let k := s.core c
  let sc := s.clippedScope (partOf (s.ctxIdOf q)) scope
  { k with
    sp := { k.sp with clipped := if sc = scope then k.sp.clipped else Reg.of (BitVec.ofNat 64 (16 * scope + 1)) (s.genOf q) },
    pp := { k.pp.settled [] with fences := k.pp.fences ++ [{ scope := sc, upto := s.nextId + 2 ^ 16 }] } }

/-- The per-core sync operations that act on their core alone: guard, what they need, and the core at the end of the bundle (R224, R226, R228,
R229). -/
def Claims.syncOps (s : State) (q c : Nat) : Instr → Option (BitVec 3 × Prop × Core) :=
  let k := s.core c
  let g := s.genOf q
  let d := dieOfSeq q
  fun i => match i with
  | .yFence x => some (x.grd, True, Claims.fenced s q c x.scope.toNat)
  | .yDrain x =>
    let sc := s.clippedScope (partOf (s.ctxIdOf q)) x.scope.toNat
    some (x.grd, s.performed c sc s.nextId = true ∧ s.outsDone q sc = true, Claims.fenced s q c x.scope.toNat)
  | .yTlwait x =>
    match s.tlOf q x.tl.toNat with
    | some j =>
      let n := (k.readS g x.sa.toNat).toNat
      some (x.grd, (s.tl d j).next < 2 ^ 64 ∧ n ≤ (s.tlSeen d j).done,
        { k with pp := { k.pp.settled [] with acquired := SMap.set 0 k.pp.acquired j (max n (SMap.get 0 k.pp.acquired j)) } })
    | none => some (x.grd, False, k.idled)
  | .yTlread x =>
    match s.tlOf q x.tl.toNat with
    | some j => some (x.grd, (s.tl d j).next < 2 ^ 64 ∧ k.roomFor .x .s x.sd.toNat 2 = true,
        { k with pp := k.pp.settled [{
            rem := 1, path := .x, file := .s, index := x.sd.toNat, gen := g, mask := BitVec.allOnes 128,
            value := BitVec.ofNat 2048 ((s.tlSeen d j).done % 2 ^ 64), held := false, load := none }] })
    | none => some (x.grd, False, k.idled)
  | _ => none

/-- R224, R226, R228, R229, R377. `y.fence`, `y.drain`, `y.tlwait` and `y.tlread` issue once their condition holds, and act on each core whose
guard reads 1. A `y.tlwait` meets no failed number at or below the numbers that it waits for. A wait or a read sees a counter as it stood at
the start of its cycle (R368). -/
def Obligations.SyncLocal : Prop :=
  ∀ (s : State) (q : Nat) (i : Instr), (Claims.syncOps s q 0 i).isSome = true → i.wf = true → s.ready q = true →
    (match i with
     | .yTlwait x => ∀ j, s.tlOf q x.tl.toNat = some j → ∀ e ∈ (s.tlSeen (dieOfSeq q) j).fails, (s.tlSeen (dieOfSeq q) j).done < e.1
     | _ => True) →
    (∀ c ∈ s.gang q, ∀ grd ok k', Claims.syncOps s q c i = some (grd, ok, k') → s.guarded q c grd = true → ok) →
    ∃ t, exec i s = .next t ∧ s.Plain t q ∧ ∀ c ∈ s.gang q, ∀ grd ok k', Claims.syncOps s q c i = some (grd, ok, k') →
      t.core c = if s.guarded q c grd then k' else (s.core c).idled

/-- A sync token is left for the partition (R358): none is counted where SRATE is 0. -/
def Claims.token (s : State) (q : Nat) : Prop :=
  (s.quota q 0x18).toNat / 2 ^ 56 = 0 ∨ SMap.get 0 (s.die (dieOfSeq q)).syncSpent (partOf (s.ctxIdOf q)) < 16

/-- R223, R225, R358. `y.tladv` takes its numbers at once. They complete once the core's earlier writes have performed: at once where they have,
so that a counter with nothing outstanding moves DONE past them all. -/
def Claims.TimelineAdvance : Prop :=
  ∀ (s : State) (q c j : Nat) (x : LayYTl), (Instr.yTladv x).wf = true → s.solo q c → s.guarded q c x.grd = true →
    s.tlOf q x.tl.toNat = some j →
    let d := dieOfSeq q
    let y := s.tl d j
    let n := ((s.core c).readS (s.genOf q) x.sa.toNat).toNat
    n < 2 ^ 16 → y.next + n < 2 ^ 64 → Claims.token s q →
    ∃ t, exec (.yTladv x) s = .next t ∧ s.Alone t { s with dies := t.dies } q c ∧ t.core c = (s.core c).idled ∧
      (∀ e, t.die e = { s.die e with tls := (t.die e).tls, syncSpent := (t.die e).syncSpent }) ∧
      (∀ e m, (e ≠ d ∨ m ≠ j) → t.tl e m = s.tl e m) ∧
      (t.tl d j).next = y.next + n ∧ (t.tl d j).fails = y.fails ∧ y.done ≤ (t.tl d j).done ∧
      (y.blocks = [] → y.ended = [] → y.done = y.next →
        if s.wrote c (s.nextId + 2 ^ 16) = true then (t.tl d j).done = y.next + n ∧ (t.tl d j).blocks = []
        else (t.tl d j).done = y.done ∧
          (0 < n → (t.tl d j).blocks = [{ core := c, upto := s.nextId + 2 ^ 16, first := y.next + 1, count := n }]))

/-- R224, R66, R368. A `y.tlwait` at or above a failed number traps on every core with that number's cause, and its record is acquired: the trap
of the lowest failed number, whatever DONE is. -/
def Claims.TimelineFailure : Prop :=
  ∀ (s : State) (q c j n cause : Nat) (x : LayYTl), (Instr.yTlwait x).wf = true → s.solo q c → s.guarded q c x.grd = true →
    s.tlOf q x.tl.toNat = some j → (s.tl (dieOfSeq q) j).fails = [(n, cause)] → (s.tlSeen (dieOfSeq q) j).fails = [(n, cause)] →
    (s.tl (dieOfSeq q) j).heldFails = [] →
    n ≤ ((s.core c).readS (s.genOf q) x.sa.toNat).toNat → 0 < cause → cause < 64 → s.fedOut q = false →
    (s.acting q && tcNest (s.core c).sp.tcause && (s.seq q).sys) = false →
    ∃ t, exec (.yTlwait x) s = .next t ∧ t.mem = s.mem ∧ (t.seq q).phase = .bubble 2 ∧ (t.core c).sp.tpc = lineAddr (s.seq q).pc ∧
      tcCause (t.core c).sp.tcause = cause ∧ (t.core c).sc = (s.core c).sc ∧ (t.tl (dieOfSeq q) j).fails = []

/-- R225, R224. What `y.tladv` takes, and what a failed number does to a `y.tlwait`. -/
def Obligations.Timelines : Prop := Claims.TimelineAdvance ∧ Claims.TimelineFailure

/-- A phaser as its sequencer's operation leaves it, with what the operation needs (R227, R366). -/
def Claims.phaserOp (s : State) (q n : Nat) (p p' : Phaser) : Instr → Prop
  | .yPhreg x => n = x.ph.toNat ∧ p.member q = none ∧
      p' = { p with owner := (s.seq q).ctx, members := p.members ++ [{
                      seq := q, kind := x.mode.toNat, s := p.p + 1, w := p.p + 1, joined := some s.ticks }],
                    counted := SMap.set 0 p.counted q (p.p + 1) }
  | .yPhwait x => n = x.ph.toNat ∧ ∃ m, p.member q = some m ∧ m.kind ≠ 1 ∧ m.w ≤ p.p ∧
      p' = { p with members := p.members.map fun e => if e.seq = q then { e with w := e.w + 1 } else e }
  | .yPhdrop x => n = x.ph.toNat ∧ (∃ m, p.member q = some m) ∧ (∀ e ∈ p.members, e.seq = q) ∧ p' = Phaser.reset
  | .yPhsig x => n = x.ph.toNat ∧ (∃ m, p.members = [m] ∧ m.seq = q ∧ m.kind ≠ 2 ∧ m.s = p.p ∧ m.joined ≠ some s.ticks ∧ p.signals = [] ∧
      (∀ r, SMap.get 0 p.counted r ≤ p.p) ∧
      (∀ c ∈ s.gang q, s.stored c s.nextId = true) ∧
      p' = { p with p := p.p + 1, members := [{ m with s := m.s + 1 }], counted := SMap.set 0 p.counted q (p.p + 1) })
  | _ => False

/-- R227, R358, R366, R367. The phaser operations, on the lead core's guard: `y.phreg` joins from the next phase on; `y.phwait` of a phase that
has completed counts it; `y.phdrop` of the last member leaves the phaser unused; and `y.phsig` of the one member that signals, which joined
in an earlier tick, its writes performed, completes the phase. -/
def Obligations.PhaserOps : Prop :=
  ∀ (s : State) (q n j : Nat) (i : Instr) (grd : BitVec 3) (p' : Phaser), s.phOf q n = some j →
    let d := dieOfSeq q
    let p := s.phaser d j
    Claims.phaserOp s q n p p' i →
    (match i with
     | .yPhreg x => grd = x.grd
     | .yPhwait x => grd = x.grd
     | .yPhdrop x => grd = x.grd
     | .yPhsig x => grd = x.grd
     | _ => False) →
    i.wf = true → s.ready q = true → (s.core (s.lead q)).readQ (s.genOf q) grd.toNat = true →
    (p.owner = none ∨ p.owner = (s.seq q).ctx) → Claims.token s q →
    ∃ t, exec i s = .next t ∧ s.Onward t q ∧
      t = { s with cores := t.cores, seqs := t.seqs, nextId := t.nextId, free := t.free, dies := t.dies } ∧
      (∀ c, t.core c = if c ∈ s.gang q then (s.core c).idled else s.core c) ∧
      (∀ e, t.die e = { s.die e with phasers := (t.die e).phasers, syncSpent := (t.die e).syncSpent }) ∧
      ∀ e m, t.phaser e m = if e = d ∧ m = j then p' else s.phaser e m

/-! ### Claims (R231, R232, R423 to R436) -/

/-- What a handle asks for (R231, R436): its reserved bits are 0, the partition holds its group, whose mode and class are open to the context
and which is not broken. -/
def Claims.handle (s : State) (q : Nat) (h : Word) (gi : Nat) : Prop :=
  let d := dieOfSeq q
  h.toNat < 2 ^ 28 ∧ s.groupOf d (partOf (s.ctxIdOf q)) (h.extractLsb' 0 16) = some gi ∧
    ((s.clgrp d gi).w0.getLsbD 62 = true → (s.seq q).sys = true) ∧ s.clwin d (h.toNat / 2 ^ 24) ≠ 0 ∧ (s.clgrp d gi).w0.getLsbD 61 = false

/-- A key that system mode alone may name (R436). -/
def Claims.keyOpen (s : State) (q : Nat) (k : Word) : Prop :=
  (0x0001000000000000 ≤ k.toNat ∧ k.toNat ≤ 0x00FFFFFFFFFFFFFF) → (s.seq q).sys = true

/-- R232, R426, R430, R431. `y.clm` takes the lowest free slot of the partition's range for its claim, stamped with the time base: Beaten where a
held rival of its group and key comes first in order, Pending otherwise. -/
def Claims.ClaimPropose : Prop :=
  ∀ (s : State) (q gi n : Nat) (x : LayYClm), (Instr.yClm x).wf = true → s.ready q = true →
    let l := s.lead q
    let g := s.genOf q
    let d := dieOfSeq q
    let r (a : BitVec 6) := (s.core l).readS g a.toNat
    (s.core l).readQ g x.grd.toNat = true → Claims.handle s q (r x.sh) gi → Claims.keyOpen s q (r x.sk) →
    s.freeSlot d (partOf (s.ctxIdOf q)) = some n →
    ∃ t, exec (.yClm x) s = .next t ∧ s.Onward t q ∧ t.mem = s.mem ∧ t.flights = s.flights ∧
      (∀ c, t.core c = if c ∈ s.gang q then (s.core c).idled else s.core c) ∧
      let e := s.clgrp d gi
      let bound := [500, 2000, 8000].getD (e.scope - 3) 32000
      let teff := s.tbase d + max (s.clwin d ((r x.sh).toNat / 2 ^ 24)) (2 * bound + 1000)
      let claim : Claim := {
        key := r x.sk, value := r x.sv, tp := BitVec.ofNat 64 (s.tbase d), teff := BitVec.ofNat 64 teff, pfab := s.selfFab d,
        pslot := BitVec.ofNat 12 n, prio := (r x.sh).extractLsb' 16 8, cls := (r x.sh).extractLsb' 24 4, grp := (r x.sh).extractLsb' 0 16 }
      let new : ClaimSlot := {
        phase := .pending, claim := claim, cut := BitVec.ofNat 64 (teff - bound), part := partOf (s.ctxIdOf q) }
      let rivals := (s.claimsOn d new.part claim.grp claim.key).filter fun o => o.2.rival new
      t.claim? d n = some { new with phase := if rivals.any fun o => o.2.claim.before claim then .beaten else .pending }

/-- R232, R433. `y.obj` sends an objection, stamped with the time base, about every claim on its key that the die holds for the group: the die
itself is a member that receives it. -/
def Claims.ClaimObject : Prop :=
  ∀ (s : State) (q gi : Nat) (x : LayYObj), (Instr.yObj x).wf = true → s.ready q = true →
    let l := s.lead q
    let g := s.genOf q
    let d := dieOfSeq q
    let r (a : BitVec 6) := (s.core l).readS g a.toNat
    (s.core l).readQ g x.grd.toNat = true → Claims.handle s q (r x.sh) gi → Claims.keyOpen s q (r x.sk) →
    s.selfFab d ∈ (s.clgrp d gi).members →
    ∃ t, exec (.yObj x) s = .next t ∧ s.Onward t q ∧ t.mem = s.mem ∧ t.flights = s.flights ∧
      (∀ c, t.core c = if c ∈ s.gang q then (s.core c).idled else s.core c) ∧
      ∀ e ∈ s.claimsOn d (partOf (s.ctxIdOf q)) ((r x.sh).extractLsb' 0 16) (r x.sk),
        { src := s.selfFab d, payload := lineOfWords (e.2.claim.words 2 ++ [
            BitVec.ofNat 64 (s.tbase d), BitVec.ofNat 64 (q % 40 * 2 ^ 18 + (s.selfFab d).toNat), BitVec.ofNat 64 (s.ctxIdOf q)]) } ∈
          (t.die d).claimIn

/-- R232. `y.clwait` issues once the die holds no claim on its key of the group, and `y.clread` lands the value in effect, or 0, on every core
with latency 2. -/
def Claims.ClaimRead : Prop :=
  ∀ (s : State) (q gi : Nat) (i : Instr) (grd : BitVec 3) (sk sh : BitVec 6) (sd : Option (BitVec 6)),
    (match i with
     | .yClwait x => grd = x.grd ∧ sk = x.sk ∧ sh = x.sh ∧ sd = none
     | .yClread x => grd = x.grd ∧ sk = x.sk ∧ sh = x.sh ∧ sd = some x.sd
     | _ => False) →
    i.wf = true → s.ready q = true →
    let l := s.lead q
    let g := s.genOf q
    let d := dieOfSeq q
    let r (a : BitVec 6) := (s.core l).readS g a.toNat
    let on := (s.core l).readQ g grd.toNat
    Claims.handle s q (r sh) gi →
    (sd = none → s.claimsOn d (partOf (s.ctxIdOf q)) ((r sh).extractLsb' 0 16) (r sk) = []) →
    (∀ a, sd = some a → ∀ c ∈ s.gang q, (s.core c).roomFor .x .s a.toNat 2 = true) →
    ∃ t, exec i s = .next t ∧ s.Plain t q ∧ ∀ c ∈ s.gang q, t.core c = { s.core c with pp := (s.core c).pp.settled (
      match sd with
      | some a => if on then [{
          rem := 1, path := .x, file := .s, index := a.toNat, gen := g, mask := BitVec.allOnes 128,
          value := ((((s.clgrp d gi).cells.findSome? fun n => match s.cell d n with
            | some (k, v) => if k = r sk then some v else none
            | none => none).getD 0 : Word)).setWidth 2048, held := false, load := none }] else []
      | none => []) }

/-- R230 to R232, R426 to R433. The claim operations. -/
def Obligations.ClaimOperations : Prop := Claims.ClaimPropose ∧ Claims.ClaimObject ∧ Claims.ClaimRead

/-! ### Streams, traps, generations, events and debug (R233 to R246) -/

/-- R233. `y.spawn` of a sibling that is free hands it the cores that the mask names: both gangs keep their order with CRANK from 0, the sibling
starts at the entry in the spawner's context with an empty loop stack, and each donated core keeps s(ab) to s(ab + 7) in s1 to s8. -/
def Claims.Spawn : Prop :=
  ∀ (s : State) (q : Nat) (x : LayYSpawn), (Instr.ySpawn x).wf = true → s.ready q = true →
    let l := s.lead q
    let g := s.genOf q
    let r := q / 4 * 4 + x.sib.toNat
    let m := ((s.core l).readS g x.sm.toNat).toNat
    let picked (b : Bool) := ((List.range (s.gang q).length).filter fun i => m.testBit i == b).filterMap fun i => (s.gang q)[i]?
    (s.core l).readQ g x.grd.toNat = true → r ≠ q → m < 2 ^ (s.gang q).length → m % 2 = 0 →
    (picked true).length ∈ [1, 2, 4, 8] → (picked false).length ∈ [1, 2, 4, 8] → s.spawnBusy q r = none →
    ∃ t, exec (.ySpawn x) s = .next t ∧
      (t.seq q).pc = (s.seq q).pc + 64 ∧ (t.seq q).phase = .run ∧ (t.seq q).gang = picked false ∧
      (t.seq r).gang = picked true ∧ (t.seq r).phase = .run ∧ (t.seq r).parent = some q ∧ (t.seq r).ctx = (s.seq q).ctx ∧
      (t.seq r).sys = (s.seq q).sys ∧ (t.seq r).levels = [] ∧
      (t.seq r).pc = BitVec.ofNat 64 (((s.core l).readS g x.se.toNat).toNat / 64 * 64) ∧
      (∀ b, ∀ j < (picked b).length, ∀ c, (picked b)[j]? = some c →
        (t.core c).sp.crank = j ∧ (t.core c).sp.gangsz = (picked b).length) ∧
      ∀ c ∈ picked true, (∀ n < 8, (t.core c).readS g (n + 1) = (s.core c).readS g (x.ab.toNat + n)) ∧
        ∀ n < 32, 8 < n → (t.core c).readS g n = 0

/-- R234. `y.join` of a sibling that has retired returns its cores: the gang and its CRANKs are those before the spawn, and the sibling is
free. -/
def Claims.Join : Prop :=
  ∀ (s : State) (q : Nat) (x : LayYJoin) (b : Sibling), (Instr.yJoin x).wf = true → s.ready q = true →
    let r := q / 4 * 4 + x.sib.toNat
    (s.core (s.lead q)).readQ (s.genOf q) x.grd.toNat = true → r ≠ q → (s.seq q).sibs = [b] → b.seq = r → (s.seq r).phase = .retired →
    b.gangBefore.Nodup → (∀ c ∈ b.gangBefore, c ∈ (s.seq r).gang ∨ c ∈ s.gang q) →
    ∃ t, exec (.yJoin x) s = .next t ∧ t.mem = s.mem ∧ (t.seq q).pc = (s.seq q).pc + 64 ∧ (t.seq q).phase = .run ∧
      (t.seq q).gang = b.gangBefore ∧ (t.seq q).sibs = [] ∧ (t.seq r).phase = .idle ∧ (t.seq r).ctx = none ∧
      ∀ j c, b.gangBefore[j]? = some c → (t.core c).sp.crank = j ∧ (t.core c).sp.gangsz = b.gangBefore.length

/-- R233, R234. A spawn, and the join that undoes it. -/
def Obligations.SpawnJoin : Prop := Claims.Spawn ∧ Claims.Join

/-- R235. `y.retire` ends the stream. Where nothing of its cores is outstanding and it is the only gang of its group, with no sibling, the
sequencer is retired at once; where something is, it waits; and it issues no further bundle. -/
def Obligations.Retire : Prop :=
  ∀ (s : State) (q : Nat) (x : LayYNone) (y : Ctx), (Instr.yRetire x).wf = true → s.ready q = true →
    (s.core (s.lead q)).readQ (s.genOf q) x.grd.toNat = true → s.ctxOf q = some y →
    ∃ t, exec (.yRetire x) s = .next t ∧ t.mem = s.mem ∧ ((t.seq q).phase = .retired ∨ (t.seq q).phase = .retireWait) ∧
      ((s.seq q).sibs = [] → (s.seq q).parent = none → (s.seq q).gidx = 0 → y.gangs.length ≤ 1 →
        (∀ c ∈ s.gang q, (s.core c).mx.eng = none ∧ (s.core c).mx.tst = none ∧
          ∀ e ∈ (s.core c).pp.lq, e.held = false ∧ e.load = none ∧ e.rem < 16) →
        (t.seq q).phase = .retired ∧ (∀ c ∈ s.gang q, (t.core c).pp.lq = []) ∧
          ∀ z, t.ctxOf q = some z → 0 ∈ z.retired)

/-- R238, R240, R242. `y.trap` is its trap: no slot takes effect, and every core holds the bundle's address in TPC and the trap in TCAUSE, with
INFO and SLOT on the lead core alone. The vector is the tenant handler where the image has one, in tenant mode outside a handler, and that of
the system otherwise; every queued result is held. -/
def Claims.TrapTaken : Prop :=
  ∀ (s : State) (q : Nat) (x : LayYImm), (Instr.yTrap x).wf = true → s.ready q = true → s.fedOut q = false →
    let l := s.lead q
    (s.core l).readQ (s.genOf q) x.grd.toNat = true →
    let was := (s.core l).sp.tcause
    ¬ (was.getLsbD 9 = true ∧ was.getLsbD 8 = true ∧ (s.seq q).sys = true) →
    ∃ t, exec (.yTrap x) s = .next t ∧ t.mem = s.mem ∧ (t.seq q).phase = .bubble 2 ∧
      let handler := (s.ctxOf q).bind fun y => y.image.handler
      let sys := (s.seq q).sys || was.getLsbD 9 || handler.isNone
      (t.seq q).sys = sys ∧
      (t.seq q).pc = (if sys then lineAddr (s.dctl (dieOfSeq q) 0) else lineAddr (handler.getD 0)) ∧
      (∀ c, c ∉ s.gang q → t.core c = s.core c) ∧
      ∀ c ∈ s.gang q,
        (t.core c).sp.tpc = BitVec.ofNat 64 ((s.seq q).pc.toNat / 64 * 64) ∧
        (t.core c).sp.tcause = BitVec.ofNat 64 (
          (if c = l then x.imm.toNat * 2 ^ 48 + 7 * 2 ^ 36 + 19 else 0) + (s.core l).sp.crank * 2 ^ 32 + 512 +
          (if was.getLsbD 9 then 256 else 0) + (if (s.seq q).sys then 128 else 0)) ∧
        (t.core c).pp.lq = (s.core c).pp.lq.map (fun e => { e with held := true }) ∧
        (t.core c).sc = (s.core c).sc ∧ (t.core c).ve = (s.core c).ve ∧ (t.core c).me = (s.core c).me ∧ (t.core c).mx = (s.core c).mx

/-- R240. A trap in a nested handler in system mode halts the sequencer: its registers stay, and the halt is reported on the physical
function's ring. -/
def Claims.NestedTrapHalts : Prop :=
  ∀ (s : State) (q : Nat) (x : LayYImm), (Instr.yTrap x).wf = true → s.ready q = true → s.fedOut q = false →
    (s.core (s.lead q)).readQ (s.genOf q) x.grd.toNat = true → (s.core (s.lead q)).sp.tcause.getLsbD 9 = true →
    (s.core (s.lead q)).sp.tcause.getLsbD 8 = true → (s.seq q).sys = true → s.pfEv.ringFull = false →
    ∃ t, exec (.yTrap x) s = .next t ∧ (t.seq q).phase = .stopped ∧ (∀ c, t.core c = s.core c) ∧ t.pfEv = s.pfEv.posted ∧
      t.raw s.pfEv.ringLoc 16 = eventRecord (s.seq q).pc 0xE001 (s.ctxIdOf q) true

/-- R238, R240. A trap, and a trap in a nested handler. -/
def Obligations.TrapEntry : Prop := Claims.TrapTaken ∧ Claims.NestedTrapHalts

/-- R243. `y.tret` with a handler active returns: the bundle at the lead core's TPC is next, ACT is 0, held results are released, and the mode
becomes PMODE from system mode and stays tenant from tenant mode. Nothing of the handler is left in the landing queue. -/
def Claims.TrapReturn : Prop :=
  ∀ (s : State) (q : Nat) (x : LayYNone), (Instr.yTret x).wf = true → s.ready q = true →
    let l := s.lead q
    (s.core l).readQ (s.genOf q) x.grd.toNat = true → (s.core l).sp.tcause.getLsbD 9 = true →
    (∀ c ∈ s.gang q, ∀ e ∈ (s.core c).pp.lq, e.held = false → e.load = none) →
    ∃ t, exec (.yTret x) s = .next t ∧ t.mem = s.mem ∧ (t.seq q).pc = (s.core l).sp.tpc ∧ (t.seq q).phase = .bubble 2 ∧
      (t.seq q).sys = ((s.seq q).sys && (s.core l).sp.tcause.getLsbD 7) ∧
      (t.seq q).brkSkip = (if (s.core l).sp.tcause.toNat % 64 = 18 ∧ (s.seq q).brkAt = some (s.core l).sp.tpc
        then some (s.core l).sp.tpc else none) ∧
      (∀ c, c ∉ s.gang q → t.core c = s.core c) ∧
      ∀ c ∈ s.gang q, let k := s.core c
        (t.core c).sp = { k.sp with tcause := k.sp.tcause &&& 0xFFFFFFFFFFFFFDFF } ∧
        (t.core c).pp.lq = (k.pp.lq.filter fun e => e.held).map (fun e => { e with held := false }) ∧
        ((∀ e ∈ k.pp.lq, e.held = true) → (t.core c).sc = k.sc ∧ (t.core c).ve = k.ve ∧ (t.core c).me = k.me ∧ (t.core c).mx = k.mx)

/-- R243. `y.tret` with no handler active traps with ILLOP. -/
def Claims.TrapReturnIdle : Prop :=
  ∀ (s : State) (q : Nat) (x : LayYNone), (Instr.yTret x).wf = true → s.ready q = true → s.fedOut q = false →
    let l := s.lead q
    (s.core l).readQ (s.genOf q) x.grd.toNat = true → (s.core l).sp.tcause.getLsbD 9 = false →
    ∃ t, exec (.yTret x) s = .next t ∧ t.mem = s.mem ∧ (t.seq q).phase = .bubble 2 ∧ (t.core l).sp.tpc = lineAddr (s.seq q).pc ∧
      tcCause (t.core l).sp.tcause = 1 ∧ (t.core l).sp.tcause.getLsbD 9 = true

/-- R243. A return from a handler, and one with no handler. -/
def Obligations.TrapReturns : Prop := Claims.TrapReturn ∧ Claims.TrapReturnIdle

/-- R244, R263, R265. `y.geninc` in system mode, with no other sequencer of the context running, takes the next free generation: GEN is that
value, which is now in use, and the old one passes to the carder. -/
def Obligations.GenerationStep : Prop :=
  ∀ (s : State) (q v : Nat) (x : LayYNone) (y : Ctx), (Instr.yGeninc x).wf = true → s.ready q = true →
    (s.core (s.lead q)).readQ (s.genOf q) x.grd.toNat = true → (s.seq q).sys = true → s.othersOf q = false → s.ctxOf q = some y →
    s.nextGen = some v → v < 1024 → s.gvState y.gen.toNat ≠ 0 → s.ctxIdOf q < 2 ^ 16 →
    ∃ t, exec (.yGeninc x) s = .next t ∧ s.Onward t q ∧ t.mem = s.mem ∧
      (∀ c, t.core c = if c ∈ s.gang q then (s.core c).idled else s.core c) ∧
      t.ctxOf q = some { y with gen := BitVec.ofNat 10 v } ∧ t.genOf q = BitVec.ofNat 10 v ∧
      t.gvState v = 1 ∧ t.gvState y.gen.toNat = 2 ∧
      ∀ j, j ≠ v → j ≠ y.gen.toNat → t.gvState j = s.gvState j

/-- R76, R244. `y.geninc` in tenant mode traps with PRIV. -/
def Claims.GenerationStepTraps : Prop :=
  ∀ (s : State) (q : Nat) (x : LayYNone), (Instr.yGeninc x).wf = true → s.ready q = true → s.fedOut q = false →
    (s.seq q).sys = false →
    ∃ t, exec (.yGeninc x) s = .next t ∧ t.mem = s.mem ∧ (t.seq q).phase = .bubble 2 ∧ t.gvstat = s.gvstat ∧
      ∀ c ∈ s.gang q, (t.core c).sp.tpc = lineAddr (s.seq q).pc ∧ tcCause (t.core c).sp.tcause = 2

/-- Where operations trap with none of their effect: loops, writes of SAVECTR, apertures and `y.geninc` in tenant mode. -/
def Obligations.OperationTraps : Prop := Claims.LoopTraps ∧ Claims.SavectrWriteTraps ∧ Claims.ApertureTraps ∧ Claims.GenerationStepTraps

/-- R245. `y.evt` with room in the ring posts its record once the gang's earlier accesses have performed at host scope: at once where they have,
and it is on its way otherwise. -/
def Obligations.EventPost : Prop :=
  ∀ (s : State) (q : Nat) (x : LayYEvt), (Instr.yEvt x).wf = true → s.ready q = true →
    let l := s.lead q
    let p := partOf (s.ctxIdOf q)
    let record := bytesOf ((s.core l).readS (s.genOf q) x.sa.toNat) ++ bytesOfWord 2 x.code.toNat ++ bytesOfWord 2 (s.ctxIdOf q) ++
      [0, 0, 0, 0]
    (s.core l).readQ (s.genOf q) x.grd.toNat = true → (s.vf p).ringFull = false →
    (∀ f ∈ s.flights, ∀ cs, f.op ≠ .event cs) → (∀ f ∈ s.flights, f.id < s.nextId) →
    ∃ t, exec (.yEvt x) s = .next t ∧ s.Onward t q ∧ (∀ c, t.core c = if c ∈ s.gang q then (s.core c).idled else s.core c) ∧
      if (s.gang q).all fun c => s.performedHost c s.nextId then
        t.flights = s.flights ∧ t.vf p = (s.vf p).posted ∧ t.raw (s.vf p).ringLoc 16 = record
      else t.mem = s.mem ∧ t.vf p = s.vf p ∧
        t.flights = s.flights ++ [Claims.access s q l 7 0 (.event (s.gang q)) [] record none none true]

/-- R246. `y.dbg` where the debug port may act halts the sequencer after its bundle, with cause DEBUG, its code and the next bundle in TPC; where
the port may not, it has no effect. -/
def Obligations.DebugHalt : Prop :=
  ∀ (s : State) (q : Nat) (x : LayYImm), (Instr.yDbg x).wf = true → s.ready q = true →
    (s.core (s.lead q)).readQ (s.genOf q) x.grd.toNat = true →
    ∃ t, exec (.yDbg x) s = .next t ∧ t.mem = s.mem ∧ (t.seq q).pc = (s.seq q).pc + 64 ∧
      if s.debugOk (s.ctxIdOf q) (dieOfSeq q) then
        (t.seq q).phase = .halted ∧ ∀ c ∈ s.gang q,
          (t.core c).sp.tpc = (s.seq q).pc + 64 ∧ tcCause (t.core c).sp.tcause = 17 ∧
          (t.core c).sp.tcause.toNat / 2 ^ 48 = x.imm.toNat ∧ (t.core c).sc = (s.core c).sc
      else s.Plain t q ∧ ∀ c ∈ s.gang q, t.core c = (s.core c).idled

/-! ## Events

Each statement of this part covers the events it names: where an event's conditions hold it has its effect, and nothing else changes. -/

/-! ### What a sequencer does beside issuing (R57, R195, R239, R276, R277, R359, R360, R363) -/

/-- A trap taken at the PC of a sequencer: each core of the gang holds the address in TPC and its own cause and slot in TCAUSE, the gang
stands at the vector, and the queued results are held (R238, R241, R242). `vec` says that the cause may go to the tenant handler. -/
structure Claims.Trapped (s t : State) (q frm : Nat) (vec : Bool) (cause slot : Nat → Nat) : Prop where
  rest : t = { s with cores := t.cores, seqs := t.seqs }
  seqs : ∀ r, r ≠ q → t.seq r = s.seq r
  others : ∀ c, c ∉ s.allCores q → t.core c = s.core c
  sys : (t.seq q).sys = ((s.seq q).sys || s.acting q || !vec || ((s.ctxOf q).bind fun y => y.image.handler).isNone)
  seq : t.seq q = { s.seq q with
    sys := (t.seq q).sys, phase := .bubble 2, async := (t.seq q).async, xfer := none, post := [], whl := none, lineUp := false,
    released := false, reserved := [], mword := none,
    pc := if (t.seq q).sys then lineAddr (s.dctl (dieOfSeq q) 0)
      else lineAddr (((s.ctxOf q).bind fun y => y.image.handler).getD 0) }
  cores : ∀ c ∈ s.allCores q, let k := s.core c
    let p := primaryIn (s.gang q) c
    t.core c = { k with
      sp := { k.sp with
        tpc := BitVec.ofNat 64 ((s.seq q).pc.toNat / 64 * 64),
        tcause := BitVec.ofNat 64 (slot p * 2 ^ 36 + (s.core frm).sp.crank * 2 ^ 32 + 512 + (if s.acting q then 256 else 0) +
          (if (s.seq q).sys then 128 else 0) + cause p) },
      pp := { k.pp with lq := k.pp.lq.map (fun e => { e with held := true }), fresh := [], post := [], waitCnt := 0, fed := [] } }

/-- A gang stands at issue with no request at a peer bank. -/
abbrev Claims.stands (s : State) (q : Nat) : Prop :=
  (s.seq q).phase = .run ∧ s.gang q ≠ [] ∧ (s.gang q).Nodup ∧ s.fedOut q = false

/-- R239. ASYNC_TRAP: with no handler active the lowest pending code is taken, on every core, with slot 15. -/
def Claims.evAsyncTrap : Prop :=
  ∀ (s : State) (q k : Nat), Claims.stands s q → s.acting q = false → k ∈ (s.seq q).async → (∀ j ∈ (s.seq q).async, k ≤ j) →
    ∃ t, exec (.asyncTrap q) s = .next t ∧ (t.seq q).async = (s.seq q).async.erase k ∧
      Claims.Trapped s t q (s.lead q) (k ∈ [1, 3, 7, 8, 10, 11, 19]) (fun _ => k) fun _ => 15

/-- R359, R360. WAIT_TIMEOUT: the cores whose counted wait has reached LIMIT (2^32 where LIMIT is 0) raise WAITTO with the slot that waited;
the other cores record no cause. A bundle that its line has released issues instead (R365). -/
def Claims.evWaitTimeout : Prop :=
  ∀ (s : State) (q frm : Nat), Claims.stands s q → (s.seq q).released = false →
    let limit (c : Nat) := if (s.core c).sp.waitlim.toNat % 2 ^ 32 = 0 then 2 ^ 32 else (s.core c).sp.waitlim.toNat % 2 ^ 32
    let late (c : Nat) : Bool := decide (limit c ≤ (s.core c).pp.waitCnt)
    (s.gang q).find? late = some frm → ¬ (s.acting q = true ∧ tcNest (s.core (s.lead q)).sp.tcause = true ∧ (s.seq q).sys = true) →
    ∃ t, exec (.waitTimeout q) s = .next t ∧ (t.seq q).async = (s.seq q).async ∧
      Claims.Trapped s t q frm true (fun c => if late c then 10 else 0) fun c => if late c then (s.core c).pp.waitSlot else 0

/-- R276, R239. RUN_OVERRUN: a tenant-mode bundle with no run left makes OVERRUN pending; in a handler it is taken at once. -/
def Claims.evRunOverrun : Prop :=
  ∀ (s : State) (q : Nat), Claims.stands s q → (s.seq q).sys = false → (s.seq (s.runSeq q)).runleft = 0 →
    ∃ t, exec (.runOverrun q) s = .next t ∧
      if s.acting q then (t.seq q).async = (s.seq q).async.erase 15 ∧ Claims.Trapped s t q (s.lead q) false (fun _ => 15) fun _ => 15
      else s.SeqOnly t q ∧ t.seq q =
        { s.seq q with async := if 15 ∈ (s.seq q).async then (s.seq q).async else (s.seq q).async ++ [15] }

/-- R276, R277. SLICE_EXPIRE: the last cycle that is charged to the slice of a Running gang sets REQ of its context; a gang that has
issued its yield needs none. -/
def Claims.evSliceExpire : Prop :=
  ∀ (s : State) (q x : Nat) (c : Ctx), (s.seq q).ctx = some x → s.ctx? x = some c → s.charged q = true → (s.seq q).sleft = 1 →
    ∃ t, exec (.sliceExpire q) s = .next t ∧ t = { s with seqs := t.seqs, ctxs := t.ctxs } ∧
      (∀ r, t.seq r = if r = q then { s.seq q with sleft := 0 } else s.seq r) ∧ (∀ y, y ≠ x → t.ctx? y = s.ctx? y) ∧
      ∃ c', t.ctx? x = some c' ∧ c' = { c with cctl := c'.cctl } ∧ (∀ o, o ≠ 0x310 → c'.ctl o = c.ctl o) ∧
        if (s.seq q).phase.yielded = true then c'.ctl 0x310 = c.ctl 0x310
        else (c'.ctl 0x310).getLsbD 0 = true ∧ (c'.ctl 0x310).toNat / 2 = (c.ctl 0x310).toNat / 2

/-- R363, R364. LINE_RELEASE: where every participant's input is high in this cycle, and what their bundles need can be reserved for all of
them together, the line is released, the inputs fall, and the participants issue next; where not, nothing changes. -/
def Claims.evLineRelease : Prop :=
  ∀ (s : State) (d n x : Nat), let l := SMap.get AndLine.reset (s.die d).lines n
    l.owner = some x → l.phase = .gathering → s.lineMembers d x ≠ [] → s.evictedOn d x = false →
    (s.reserveAll (s.lineMembers d x) = none → exec (.lineRelease d n) s = .next s) ∧
    ∀ u, s.reserveAll (s.lineMembers d x) = some u →
    (∀ q ∈ s.lineMembers d x, (s.seq q).phase = .run ∧ (s.seq q).lineUp = true ∧ (s.seq q).released = false ∧ (s.seq q).ctx = some x) ∧
    ∃ t, exec (.lineRelease d n) s = .next t ∧ t = { s with seqs := t.seqs, dies := t.dies } ∧
      (∀ q, t.seq q = if q ∈ s.lineMembers d x then
          { s.seq q with lineUp := false, released := true, reserved := (t.seq q).reserved } else s.seq q) ∧
      (∀ e, e ≠ d → t.die e = s.die e) ∧ t.die d = { s.die d with lines := (t.die d).lines, syncSpent := (t.die d).syncSpent } ∧
      ∀ m, SMap.get AndLine.reset (t.die d).lines m =
        if m = n then { l with phase := .released } else SMap.get AndLine.reset (s.die d).lines m

/-- R195. FE_WITHDRAWAL: a bundle at issue that is about to leave it, with requests at peer banks, stands until they have answered. -/
def Claims.evFeWithdrawal : Prop :=
  ∀ (s : State) (q : Nat), (s.seq q).phase = .run → s.fedOut q = true → s.asyncDue q ≠ none ∨ s.timeouts q ≠ [] →
    ∃ t, exec (.feWithdrawal q) s = .next t ∧ s.SeqOnly t q ∧ t.seq q = { s.seq q with phase := .withdraw false }

/-- R195. FE_WITHDRAWAL_ANSWER: where nothing has been applied, the requests are gone and the bundle stands at issue, to leave it as it was
about to. -/
def Claims.evFeWithdrawalAnswer : Prop :=
  ∀ (s : State) (q : Nat), (s.seq q).phase = .withdraw false → s.asyncDue q = none → s.timeouts q = [] → (s.seq q).haltAsk = false →
    (∀ c ∈ s.gang q, ∀ e ∈ (s.core c).pp.fed, ∃ f, s.flight? e.2 = some f ∧ f.allDone = false) →
    ∃ t, exec (.feWithdrawalAnswer q) s = .next t ∧ t = { s with cores := t.cores, seqs := t.seqs, flights := t.flights } ∧
      (∀ r, t.seq r = if r = q then { s.seq q with phase := .run } else s.seq r) ∧
      (∀ c, t.core c = if c ∈ s.gang q then { s.core c with pp := { (s.core c).pp with fed := [] } } else s.core c) ∧
      t.flights = s.flights.filter fun f => !decide (∃ c ∈ s.gang q, ∃ e ∈ (s.core c).pp.fed, e.2 = f.id)

/-- Asynchronous causes, timeouts, overruns, slices, line releases and withdrawals, as each comes about alone. -/
def Obligations.SequencerEvents : Prop :=
  Claims.evAsyncTrap ∧ Claims.evWaitTimeout ∧ Claims.evRunOverrun ∧ Claims.evSliceExpire ∧ Claims.evLineRelease ∧
  Claims.evFeWithdrawal ∧ Claims.evFeWithdrawalAnswer

/-! ### How a gang takes and leaves a context (R21, R280 to R290, R310, R311, R343, R344) -/

/-- The spill record of a core holds no state of a context: MLIVE and MAUX are 0 (R282, R294). -/
def Claims.unspilled (s : State) (x : Nat) (c : Ctx) (k : Nat) : Prop :=
  ∀ loc tagged, s.ctxPlace x (dieOfCore k) (c.spillAddr k + 0x8000) = some (loc, tagged) →
    fieldOf (wordOf (s.readBytes { gen := c.gen, tagged := tagged, part := none } loc 8)) 0 9 = 0

/-- Locations of the scratchpads of some cores. -/
def Claims.inSpads (cs : List Nat) (a : Nat) : Bool := cs.any fun c => decide (locSpad c 0 ≤ a ∧ a < locSpad (c + 1) 0)

/-- R280, R282. YIELD_CLEAR: once the waits of a yield are over, the gang keeps s1 to s8 and its graph position; every other scalar, guard,
vector, predicate, operand, address, shape and bobbin register and the scratchpads are zero, and so is the matrix state that the context
owns. -/
def Claims.evYieldClear : Prop :=
  ∀ (s : State) (q x : Nat) (c : Ctx), (s.seq q).phase = .yieldWait true → s.yieldReady q = true → (s.seq q).ctx = some x →
    s.ctx? x = some c → s.paired q = false →
    (∀ k ∈ s.gang q, k < 1280 ∧ accOwner (s.core k).mx.accown = x ∧ Claims.unspilled s x c k) →
    ∃ t, exec (.yieldClear q) s = .next t ∧
      t = { s with cores := t.cores, seqs := t.seqs, ctxs := t.ctxs, mem := t.mem, metas := t.metas, full := t.full, l2 := t.l2,
                   flights := t.flights } ∧
      (∀ r, t.seq r = if r = q then { s.seq q with phase := .atYield } else s.seq r) ∧
      (∀ y, t.ctx? y = if y = x then some { c with
          yielded := if (s.seq q).gidx ∈ c.yielded then c.yielded else c.yielded ++ [(s.seq q).gidx],
          group := if c.group = .running then .yielding else c.group } else s.ctx? y) ∧
      (∀ k, k ∉ s.gang q → t.core k = s.core k) ∧
      (∀ k ∈ s.gang q,
        t.core k = { s.core k with
          sc := { ScalarRegs.reset with s := (t.core k).sc.s }, ve := .reset, me := .reset,
          mx := { (s.core k).mx with t := [], scq := [], half := false, fbind := 8, fbOf := none },
          sp := { (s.core k).sp with rrb := Reg.wiped 64, lived := Reg.wiped 64 } } ∧
        ∀ g r, (t.core k).readS g r = if 1 ≤ r ∧ r ≤ 8 then (s.core k).readS g r else 0) ∧
      (∀ a, t.rawByte a = if Claims.inSpads (s.gang q) a then 0 else s.rawByte a) ∧
      ∀ a, if Claims.inSpads (s.gang q) a then t.unit a = .wiped ∧ SMap.get false t.full a = false
        else t.unit a = s.unit a ∧ SMap.get false t.full a = SMap.get false s.full a

/-- R281. COPY_CANCEL: a copy whose bobbin has no room, in a gang that waits to land with its engines idle, is dropped, and its number fails
with ILLOP. -/
def Claims.evCopyCancel : Prop :=
  ∀ (s : State) (c ch q b : Nat) (r : CopyRun) (rest : List CopyRun), s.seqOfCore c = some q → (s.core c).chanOf ch = r :: rest →
    ((s.seq q).phase = .landWait ∨ (s.seq q).phase = .held ∨ ∃ b, (s.seq q).phase = .yieldWait b) → (∀ d ∈ s.gang q, (s.core d).mx.eng = none) →
    r.failed = none → r.finished = false → r.bobbin = some b → bobRoom ((s.core c).readB r.gen b) = 0 →
    ∃ t, exec (.copyCancel c ch) s = .next t ∧ t = { s with cores := t.cores, dies := t.dies } ∧
      (∀ d, d ≠ c → t.core d = s.core d) ∧ t.core c = { s.core c with chan := (t.core c).chan } ∧
      (∀ n, (t.core c).chanOf n = if n = ch then rest else (s.core c).chanOf n) ∧
      (∀ e, e ≠ dieOfCore c → t.die e = s.die e) ∧ t.die (dieOfCore c) = { s.die (dieOfCore c) with tls := (t.die (dieOfCore c)).tls } ∧
      ∀ n, t.tl (dieOfCore c) n = if n = r.tl then (s.tlTouched (dieOfCore c) n).fail r.num 1 else s.tl (dieOfCore c) n

/-- R286, R331, R343. PREEMPT_SAVE of a group of one gang whose landing waits are over: the context is Parked with state, SAVECTR counts on
and does not wrap, LANDED is set and REQ clear, the gang's record stays with the context, its scratchpads are wiped and its sequencer is
free, with nothing left that moves in its cores. -/
def Claims.evPreemptSave : Prop :=
  ∀ (s : State) (q x : Nat) (c : Ctx) (p : GangPlace), q < 320 → (s.seq q).phase = .landWait → s.landReady q = true →
    (s.seq q).ctx = some x → s.ctx? x = some c → (s.seq q).parent = none → (s.seq q).gidx = 0 → c.group = .landing → c.gangs = [p] →
    p.seq = q → c.retired = [] → c.evicted = [] → c.landed = [] → c.yielded = [] →
    (∀ r, r ≠ q → (s.seq r).ctx ≠ some x) → (∀ k ∈ s.allCores q, k < 1280) →
    ∃ t, exec (.preemptSave q) s = .next t ∧ (t.seq q).ctx = none ∧ (t.seq q).phase = .idle ∧ t.gang q = s.gang q ∧
      (∀ r, r ≠ q → t.seq r = s.seq r) ∧
      (∀ k ∈ s.allCores q, t.core k = { s.core k with
        me := { (s.core k).me with shp := [] }, pp := .reset, rcvq := [], sp := { (s.core k).sp with grank := 0, drank := 0 } }) ∧
      (∀ a, Claims.inSpads (s.allCores q) a = true → t.rawByte a = 0 ∧ t.unit a = .wiped) ∧
      ∃ c', t.ctx? x = some c' ∧ c'.phase = .parkedState ∧ c'.group = .parked ∧
        c'.savectr = (if c.savectr = 0xFFFFFFFFFFFFFFFF then c.savectr else c.savectr + 1) ∧
        (c'.ctl 0x310).getLsbD 0 = false ∧ (c'.ctl 0x310).getLsbD 1 = true ∧
        ∃ k, c'.parkedAt.find? (fun e => e.1 == 0) = some (0, k) ∧ k.withState = true ∧ k.seq.pc = (s.seq q).pc ∧
          ∀ b ∈ s.gang q, ∃ m, (b, m) ∈ k.cores ∧ m.sc = (s.core b).sc ∧ m.ve = (s.core b).ve ∧ m.me = (s.core b).me

/-- R21, R311, R341. ARBITER_DECISION: a free gang takes the context it chooses. A launch that starts finds its kernel's entry, mode and run,
its arguments in s1 to s8, and every other scalar register zero. -/
def Claims.evArbiterDecision : Prop :=
  ∀ (s : State) (q x : Nat) (c : Ctx) (p : GangPlace) (l : Launch) (k : Kernel), (s.seq q).ctx = none → (s.seq q).phase = .idle →
    (s.seq q).fenced = false → (s.seq q).chosen = none → (s.placedOn q).filter (s.mustTake q) = [] →
    s.choice q ((s.placedOn q).filter (s.mayChoose q)) = some x → s.ctx? x = some c → c.gangs.head? = some p → p.seq = q →
    c.parkedAt = [] → c.launch = some l → c.image.kernels[l.kidx + p.drank]? = some k → s.paired q = false →
    (∀ b ∈ s.boundGang q, Claims.unspilled s x c b) →
    ∃ t, exec (.arbiterDecision q) s = .next t ∧ t.mem = s.mem ∧ (∀ r, r ≠ q → t.seq r = s.seq r) ∧ (∀ y, y ≠ x → t.ctx? y = s.ctx? y) ∧
      (t.seq q).ctx = some x ∧ (t.seq q).phase = .start 64 ∧ (t.seq q).pc = BitVec.ofNat 64 (k.entry.toNat / 64 * 64) ∧
      (t.seq q).sys = c.image.system ∧ (t.seq q).runleft = 256 * k.run ∧
      (t.seq q).sleft = fieldOf (s.pcfg (partOf x)) 48 16 * 1024 ∧ t.gang q = s.boundGang q ∧ (t.seq q).levels = [] ∧
      (∀ b, b ∉ s.boundGang q → t.core b = s.core b) ∧
      (∀ i b, (s.boundGang q)[i]? = some b →
        (t.core b).sp.crank = i ∧ (t.core b).sp.gangsz = (s.boundGang q).length ∧ (t.core b).sp.grank = p.grank + i ∧
        (t.core b).sp.drank = p.drank ∧ (t.core b).ve = .reset ∧ (t.core b).me = .reset ∧ (t.core b).pp = .reset ∧
        ∀ r < 32, (t.core b).readS c.gen r = if 1 ≤ r ∧ r ≤ 8 then l.args.getD (r - 1) 0 else 0) ∧
      ∃ c', t.ctx? x = some c' ∧ c'.phase = .running ∧ c'.group = .starting ∧ 0 ∈ c'.taken ∧ c'.gen = c.gen ∧ c'.image = c.image

/-- A group of one die whose agreement stands and whose one gang there is that of a sequencer. -/
abbrev Claims.agreed (s : State) (q x d : Nat) (c : Ctx) (a : Agreement) : Prop :=
  s.ctx? x = some c ∧ c.agree = some a ∧ c.ndie ≤ 1 ∧ c.dies = [d] ∧ s.gangSeqs x d = [q]

/-- R343. GROUP_START_AGREEMENT: the group runs, and its gang issues, with the slice that it took up. -/
def Claims.evGroupStart : Prop :=
  ∀ (s : State) (q x d : Nat) (c : Ctx), Claims.agreed s q x d c .start → c.group = .starting →
    ∃ t, exec (.groupStartAgreement x) s = .next t ∧ t = { s with seqs := t.seqs, ctxs := t.ctxs } ∧ (∀ r, r ≠ q → t.seq r = s.seq r) ∧
      t.seq q = { s.seq q with phase := if (s.seq q).phase = .held then .run else (s.seq q).phase, snap := (t.seq q).snap } ∧
      ∀ y, t.ctx? y = if y = x then some { c with agree := none, group := .running, taken := [] } else s.ctx? y

/-- R275, R343, R344. GROUP_YIELD_DECISION to park: the gang that stands at its yield leaves the sequencer with what the context keeps of it,
and the context is Parked at yield. -/
def Claims.evGroupYield : Prop :=
  ∀ (s : State) (q x d : Nat) (c : Ctx), Claims.agreed s q x d c .yieldPark → (s.seq q).ctx = some x → (s.seq q).phase = .atYield →
    (s.seq q).thrCyc = 0 →
    ∃ t, exec (.groupYieldDecision x) s = .next t ∧ t.mem = s.mem ∧ (∀ r, r ≠ q → t.seq r = s.seq r) ∧ (t.seq q).ctx = none ∧
      (t.seq q).phase = .idle ∧ t.gang q = s.gang q ∧
      ∃ c', t.ctx? x = some c' ∧ c'.phase = .parkedYield ∧ c'.group = .parked ∧ c'.agree = none ∧ (c'.ctl 0x310).getLsbD 0 = false ∧
        ∃ k, c'.parkedAt.find? (fun e => e.1 == (s.seq q).gidx) = some ((s.seq q).gidx, k) ∧ k.withState = false ∧
          k.seq = s.seq q ∧ ∀ b ∈ s.gang q, (b, s.core b) ∈ k.cores

/-- R343. GROUP_PREEMPT_AGREEMENT: a running group is landing, with REQ set. -/
def Claims.evGroupPreempt : Prop :=
  ∀ (s : State) (q x d : Nat) (c : Ctx), Claims.agreed s q x d c .preempt → c.group = .running →
    ∃ t, exec (.groupPreemptAgreement x) s = .next t ∧ s.CtxOnly t x ∧
      ∃ c', t.ctx? x = some c' ∧ c' = { c with agree := none, group := .landing, cctl := c'.cctl } ∧
        (c'.ctl 0x310).getLsbD 0 = true ∧ ∀ o, o ≠ 0x310 → c'.ctl o = c.ctl o

/-- The clear of a yield, cancelled copies, a landing's save, the arbiter, and the agreements of a group. -/
def Obligations.SwitchEvents : Prop :=
  Claims.evYieldClear ∧ Claims.evCopyCancel ∧ Claims.evPreemptSave ∧ Claims.evArbiterDecision ∧ Claims.evGroupStart ∧
  Claims.evGroupYield ∧ Claims.evGroupPreempt

/-! ### Accesses perform (R56, R62, R166, R183, R192, R196, R201, R370, R380) -/

/-- No host window and no event record of the machine waits for accesses to perform, and no uncorrectable error stands in a memory. -/
abbrev Claims.calm (s : State) (d : Nat) : Prop :=
  (s.die d).hwn = [] ∧ s.errors = [] ∧ ∀ f ∈ s.flights, ∀ cs, f.op ≠ .event cs

/-- Bytes written at a location of a plain unit: the unit holds them, the rest of a unit that held another tag reads zero, and no other byte
of any memory changes (R182, R256). -/
def Claims.stored (s t : State) (g : Gen) (tagged : Bool) (loc : Nat) (bs : List Byte) : Prop :=
  ∀ a, t.rawByte a =
    if loc ≤ a ∧ a < loc + bs.length then bs.getD (a - loc) 0
    else if tagged = true ∧ (s.unit loc).tag.is g = false ∧ unitBase loc ≤ a ∧ a < unitBase loc + unitSize loc then 0
    else s.rawByte a

/-- Part k of access n reaches its unit: the access is of a core, its turn has come, and its bytes lie in one unit of a memory, which is not
poisoned and is not mirrored. -/
abbrev Claims.arrives (s : State) (n k : Nat) (f : Flight) (p : Piece) : Prop :=
  s.flight? n = some f ∧ f.pieces[k]? = some p ∧ s.nearReady f p = true ∧ (s.lineToken f p).isSome = true ∧ p.loc < 2 ^ 66 ∧
  0 < p.len ∧ p.loc + p.len ≤ unitBase p.loc + unitSize p.loc ∧ (s.unit p.loc).poison = false ∧ s.mirrors (some f.core) p.loc = [p.loc] ∧
  p.off + p.len ≤ f.data.length ∧ Claims.calm s (dieOfCore f.core)

/-- What a part of an access may change beside memory: the accesses, and the dies, whose counters follow. -/
abbrev Claims.memoryAndWaits (s t : State) : Prop :=
  t = { s with mem := t.mem, metas := t.metas, full := t.full, l2 := t.l2, flights := t.flights, dies := t.dies, outside := t.outside }

/-- R192. NEAR_STORE_PERFORM: a part of a store writes its bytes, and no other byte of any memory. -/
def Claims.evNearStore : Prop :=
  ∀ (s : State) (n k : Nat) (f : Flight) (p : Piece), Claims.arrives s n k f p → f.op = .store →
    ∃ t, exec (.nearStorePerform none n k false) s = .next t ∧ Claims.memoryAndWaits s t ∧
      Claims.stored s t f.gen p.tagged p.loc ((f.data.drop p.off).take p.len) ∧
      (p.tagged = true → (t.unit p.loc).tag = Tag.of f.gen) ∧ ∀ u, t.flight? n = some u → u.pieces = (f.mark p).pieces

/-- R196 to R198. ATOMIC_APPLY: the location holds f of its old value, the access has the old value, and no other byte changes; a
compare-and-swap that does not match writes nothing. -/
def Claims.evAtomic : Prop :=
  ∀ (s : State) (n : Nat) (f : Flight) (p : Piece), Claims.arrives s n 0 f p → f.pieces = [p] →
    (∃ aop ty v ret, f.op = .atom aop ty v ret) ∨ (∃ ty c v, f.op = .cas ty c v) →
    let old := s.readBytes { gen := f.gen, tagged := p.tagged, part := some (partOf f.ctx) } p.loc p.len
    let m := wordOfBytes old
    let new := match f.op with
      | .atom aop _ v _ => bytesOfWord p.len (atomFn aop (s.ctxLevel f.ctx) (8 * p.len) m (v.toNat % 2 ^ (8 * p.len)))
      | .cas _ _ v => bytesOfWord p.len v.toNat
      | _ => old
    let hit := match f.op with
      | .cas _ c _ => decide (m = c.toNat % 2 ^ (8 * p.len))
      | _ => true
    ∃ t, exec (.atomicApply n 0 false) s = .next t ∧ Claims.memoryAndWaits s t ∧
      (if hit = true then Claims.stored s t f.gen p.tagged p.loc new else t.mem = s.mem ∧ t.metas = s.metas) ∧
      ∀ u, t.flight? n = some u → u.allDone = true ∧ u.failed = f.failed ∧ (u.data.drop p.off).take p.len = old

/-- R56, R62. LONG_RESULT_WRITE past the last part: a finished long result is written over its path, which nothing has used in this cycle,
to a scalar register or to the lanes of a vector register that is not dead. The path is then used. -/
def Claims.evLongResult : Prop :=
  ∀ (s : State) (n r q : Nat) (v : Bool) (f : Flight), s.flight? n = some f → f.allDone = true → f.due = none → f.failed = none →
    f.dest = some { file := if v then .v else .s, index := r } → 0 < r ∨ v = true → r < (if v then 64 else 32) →
    f.ready = false → f.written = false → s.pathBusy f = false → s.seqOfCore f.core = some q → s.paired q = false →
    ∃ t, exec (.longResultWrite n f.pieces.length false) s = .next t ∧
      t = { s with cores := t.cores, flights := s.flights.filter (fun x => x.id ≠ n), free := t.free } ∧
      (∀ c, c ≠ f.core → t.core c = s.core c) ∧
      let k := s.core f.core
      if v then
        t.core f.core = { k with ve := { k.ve with v := (t.core f.core).ve.v }, pp := { k.pp with busy := k.pp.busy ++ [.lV] } } ∧
        ∀ j, SMap.get (Reg.wiped 2048) (t.core f.core).ve.v j =
          if j = r ∧ k.dead (s.genOf q) r = false then Reg.of f.value f.gen else SMap.get (Reg.wiped 2048) k.ve.v j
      else
        t.core f.core = { k with sc := { k.sc with s := (t.core f.core).sc.s }, pp := { k.pp with busy := k.pp.busy ++ [.lS] } } ∧
        ∀ j, SMap.get (Reg.wiped 64) (t.core f.core).sc.s j =
          if j = r then Reg.of (f.value.setWidth 64) f.gen else SMap.get (Reg.wiped 64) k.sc.s j

/-- R183. SPAD_ACCESS of a load of the core's own scratchpad, with no access of its bundle to come first: its landing-queue entry takes the
bytes read, and memory stays. -/
def Claims.evSpadAccess : Prop :=
  ∀ (s : State) (n : Nat) (f : Flight) (p : Piece) (form : Machine.LoadForm), s.flight? n = some f → f.due = some 1 → f.op = .load form true →
    f.pieces = [p] → p.done = false → isSpad p.loc = true → spadCore p.loc = f.core → p.off = 0 → p.len = f.data.length →
    s.beforeOwn f = [] → s.readsPoison { gen := f.gen, tagged := p.tagged, part := none } p.loc p.len = false → Claims.calm s (dieOfCore f.core) →
    ∃ t, exec (.spadAccess n) s = .next t ∧
      t = { s with cores := t.cores, flights := s.flights.filter (fun x => x.id ≠ n), dies := t.dies } ∧
      (∀ c, c ≠ f.core → t.core c = s.core c) ∧
      let k := s.core f.core
      let v := loadValue form (s.readBytes { gen := f.gen, tagged := p.tagged, part := none } p.loc p.len)
      t.core f.core = { k with pp := { k.pp with
        lq := k.pp.lq.map fun e => if e.load = some n then { e with value := v, load := none } else e } }

/-- R166, R175, R188. SCALE_ENTRY_ARRIVE: the 64 bytes read join the scale queue, in the order of the `l.scl` operations, and SQ of the owner
is set. -/
def Claims.evScaleEntry : Prop :=
  ∀ (s : State) (n q : Nat) (f : Flight), s.flight? n = some f → f.op = .scl → f.allDone = true → f.failed = none →
    (∀ e ∈ s.flights, e.core = f.core → e.op = .scl → f.id ≤ e.id) → s.seqOfCore f.core = some q → s.paired q = false →
    ∃ t, exec (.scaleEntryArrive n) s = .next t ∧
      t = { s with cores := t.cores, flights := s.flights.filter (fun x => x.id ≠ n) } ∧
      (∀ c, c ≠ f.core → t.core c = s.core c) ∧
      let k := s.core f.core
      t.core f.core = { k with mx := { k.mx with
        scq := k.mx.scq ++ [{ val := BitVec.ofNat 512 (wordOfBytes f.data), tag := Tag.of f.gen, poisoned := false }],
        accown := Claims.marked k.mx.accown f.ctx 1 } }

/-- R187, R370, R371. FE_REQUEST_APPLY: a near request first reaches its bank. In a later tick a near `l.fe` that the bank may apply, with none
before it that the bank may apply too, finds its granule full and reads it; one that takes leaves it empty. -/
def Claims.evFeApply : Prop :=
  (∀ (s : State) (n : Nat) (f : Flight), s.flight? n = some f → f.op.wants.isSome = true → f.sent = none →
    ∃ t, exec (.feRequestApply n) s = .next t ∧
      t = { s with flights := s.flights.map fun e => if e.id = n then { e with sent := some s.ticks } else e }) ∧
  ∀ (s : State) (n at_ : Nat) (f : Flight) (p : Piece) (take : Bool), s.flight? n = some f → f.op = .fe take false → f.pieces = [p] →
    f.sent = some at_ → s.ticks ≠ at_ → s.isFull f.gen p.loc = true → s.feMeets f = true →
    (∀ e ∈ s.flights, s.feMeets e = true → s.feBefore e f = true → ∀ r ∈ e.pieces, r.loc ≠ p.loc) →
    s.mirrors (some f.core) p.loc = [p.loc] → isSpad p.loc = true → p.off = 0 → p.len = f.data.length →
    s.readsPoison { gen := f.gen, tagged := p.tagged, part := none } p.loc p.len = false →
    ∃ t, exec (.feRequestApply n) s = .next t ∧ t = { s with full := t.full, flights := t.flights } ∧ t.isFull f.gen p.loc = !take ∧
      (∀ a, a / 16 ≠ p.loc / 16 → ∀ g, t.isFull g a = s.isFull g a) ∧
      ∃ u, t.flight? n = some u ∧ u.allDone = true ∧
        u.data = s.readBytes { gen := f.gen, tagged := p.tagged, part := none } p.loc p.len

/-- R380. SC_APPLY: at its tick a sequentially consistent store of the wheel position performs. -/
def Claims.evScApply : Prop :=
  ∀ (s : State) (d r n : Nat) (f : Flight) (p : Piece) (x : ScStamp), s.flights = [f] → f.op = .store → f.pieces = [p] → p.done = false →
    f.sc = some x → x.rev = r → x.pos = n → dieOfCore f.core = d → 4096 * r + 4 * n + 2000 ≤ s.tbase d → p.loc < 2 ^ 66 →
    0 < p.len → p.loc + p.len ≤ unitBase p.loc + unitSize p.loc → (s.unit p.loc).poison = false → s.mirrors (some f.core) p.loc = [p.loc] →
    p.off + p.len ≤ f.data.length → Claims.calm s d →
    ∃ t, exec (.scApply d r n) s = .next t ∧ Claims.memoryAndWaits s t ∧
      Claims.stored s t f.gen p.tagged p.loc ((f.data.drop p.off).take p.len) ∧ ∀ u ∈ t.flights, u.allDone = true

/-- R201. POSTED_WRITE_ACK: with every line acknowledged the write has performed, and OUT of its window falls by 1. -/
def Claims.evPostedAck : Prop :=
  ∀ (s : State) (n w : Nat) (f : Flight) (c : Ctx), s.flight? n = some f → f.window = some w → f.allDone = true → f.acked = false →
    f.sent ≠ none → s.ctx? f.ctx = some c →
    ∃ t, exec (.postedWriteAck n) s = .next t ∧
      t = { s with flights := s.flights.filter (fun x => x.id ≠ n), ctxs := t.ctxs } ∧ (∀ y, y ≠ f.ctx → t.ctx? y = s.ctx? y) ∧
      ∃ c', t.ctx? f.ctx = some c' ∧ c' = { c with outs := c'.outs } ∧
        ∀ j, c'.out j = if j = w then c.out w - 1 else c.out j

/-- Stores, atomics, long results, own-scratchpad loads, scale entries, full/empty requests, the wheel and acknowledgements. -/
def Obligations.AccessEvents : Prop :=
  Claims.evNearStore ∧ Claims.evAtomic ∧ Claims.evLongResult ∧ Claims.evSpadAccess ∧ Claims.evScaleEntry ∧ Claims.evFeApply ∧
  Claims.evScApply ∧ Claims.evPostedAck

/-! ### The matrix units, copies and cache commands (R159, R161, R173, R207 to R209, R216, R217) -/

/-- R159, R161. MATRIX_STEP_RETIRE: a step that has held the engine for its cycles writes its tile, releases its ring operands, and leaves the
engine free. -/
def Claims.evStepRetire : Prop :=
  ∀ (s : State) (c q td ba bw sa sw left bnd : Nat) (v : Tile) (g : Gen), s.seqOfCore c = some q →
    (s.core c).mx.eng = some { left := left, op := .step td v g ba bw sa sw, bnd := bnd } → left ≤ 1 → ba ≠ bw →
    ∃ t, exec (.matrixStepRetire c) s = .next t ∧ s.CoreOnly t c ∧
      let k := s.core c
      let k' := t.core c
      let popped (b : QWord) (n : Nat) := bobPack (bobBase b) (bobSize b) 0 (bobTail b) (bobHead b + n)
      k' = { k with me := { k.me with b := k'.me.b },
                    mx := { k.mx with eng := none, t := k'.mx.t, accown := k'.mx.accown } } ∧
      (∀ j, SMap.get (Reg.wiped 32768) k'.mx.t j = if j = td then Reg.of v g else SMap.get (Reg.wiped 32768) k.mx.t j) ∧
      (∀ j, k'.readB g j = if j = ba then popped (k.readB g ba) sa else if j = bw then popped (k.readB g bw) sw else k.readB g j) ∧
      k'.mx.accown = if accOwner k.mx.accown = s.ctxIdOf q then setField k.mx.accown (8 + td) 1 1 else k.mx.accown

/-- R173. TILE_STORE_COMPLETE: the rows of a tile reach the core's scratchpad, with their tag, and the tile store is free. -/
def Claims.evTileStore : Prop :=
  ∀ (s : State) (c q ts off rows left bnd : Nat) (bs : List Byte) (tag : Tag), s.seqOfCore c = some q →
    (s.core c).mx.tst = some { left := left, op := .write ts off bs tag, bnd := bnd } → left ≤ 1 → bs.length = 256 * rows → off % 256 = 0 →
    off + bs.length ≤ 0x200000 → c < 1280 → Claims.calm s (dieOfCore c) →
    ∃ t, exec (.tileStoreComplete c) s = .next t ∧
      t = { s with mem := t.mem, metas := t.metas, full := t.full, cores := t.cores, dies := t.dies } ∧
      (∀ d, d ≠ c → t.core d = s.core d) ∧ t.core c = { s.core c with mx := { (s.core c).mx with tst := none } } ∧
      (∀ a, t.rawByte a = if locSpad c off ≤ a ∧ a < locSpad c off + bs.length then bs.getD (a - locSpad c off) 0 else s.rawByte a) ∧
      ∀ i < rows, (t.unit (locSpad c (off + 256 * i))).tag = tag

/-- R207. COPY_CHUNK between two places of the issuing core's scratchpad: the chunk moves whole, read before it is written, under the copy's
generation; nothing else of the memory that generation reads changes, and the copy goes on. -/
def Claims.evCopyChunk : Prop :=
  ∀ (s : State) (c ch : Nat) (r : CopyRun) (rest : List CopyRun) (x : Ctx), (s.core c).chanOf ch = r :: rest → c < 1280 →
    s.ctx? r.ctx = some x → r.gone = none → r.finished = false → r.wait = 0 → r.failed = none → r.sealed = none → r.bobbin = none →
    r.srcAt.toNat < 0x200000 → r.dstAt.toNat < 0x200000 → r.off < r.len → (∀ q, s.seqOfCore c = some q → s.paired q = false) →
    Claims.calm s (dieOfCore c) →
    let n := min (r.len - r.off) (min (4096 - r.srcAt.toNat % 4096) (4096 - r.dstAt.toNat % 4096))
    let acc : Acc := { gen := r.gen, tagged := true, part := none }
    let src := locSpad c r.srcAt.toNat
    let dst := locSpad c r.dstAt.toNat
    ∃ t, exec (.copyChunk c ch none) s = .next t ∧
      t = { s with mem := t.mem, metas := t.metas, full := t.full, cores := t.cores, dies := t.dies } ∧
      (∀ d, d ≠ c → t.core d = s.core d) ∧ t.core c = { s.core c with chan := (t.core c).chan } ∧
      (∀ j, (t.core c).chanOf j = if j = ch then r.step n :: rest else (s.core c).chanOf j) ∧
      (∀ a, t.readByte acc a = if dst ≤ a ∧ a < dst + n then s.readByte acc (src + (a - dst)) else s.readByte acc a) ∧
      ∀ a, ¬ (dst / 256 * 256 ≤ a ∧ a < (dst + n + 255) / 256 * 256) → t.rawByte a = s.rawByte a

/-- R209, R376. COPY_COMPLETE: once no guest holds a line that the copy wrote, the copy leaves its channel; its number completes, or fails with
the copy's cause. -/
def Claims.evCopyComplete : Prop :=
  ∀ (s : State) (c ch : Nat) (r : CopyRun) (rest : List CopyRun), (s.core c).chanOf ch = r :: rest → r.finished = true → r.sealed = none →
    s.copySnooped r = true → ∃ t, exec (.copyComplete c ch) s = .next t ∧ t = { s with cores := t.cores, dies := t.dies } ∧
      (∀ d, d ≠ c → t.core d = s.core d) ∧ t.core c = { s.core c with chan := (t.core c).chan } ∧
      (∀ j, (t.core c).chanOf j = if j = ch then rest else (s.core c).chanOf j) ∧
      (∀ e, e ≠ dieOfCore c → t.die e = s.die e) ∧ t.die (dieOfCore c) = { s.die (dieOfCore c) with tls := (t.die (dieOfCore c)).tls } ∧
      ∀ n, t.tl (dieOfCore c) n =
        if n = r.tl then (match r.failed with
          | none => (s.tlTouched (dieOfCore c) n).finish r.num 1
          | some cause => (s.tlTouched (dieOfCore c) n).fail r.num cause)
        else s.tl (dieOfCore c) n

/-- R216, R217. CACHE_MAINTENANCE_COMPLETE on the last die: `c.icinv` drops the instruction-cache lines of its range; `c.l2wb` and
`c.l2inv` leave no dirty line of the context's generation in it, and memory stays. The number completes. -/
def Claims.evMaintDone : Prop :=
  ∀ (s : State) (n d : Nat) (m : Maint), s.maints.find? (fun m => m.id == n && m.dies.contains d) = some m → m.dies = [d] →
    let lines := s.linesOfRange d m
    (∀ u ∈ lines, (s.unit u).tag.is m.gen = true) →
    ∃ t, exec (.cacheMaintenanceComplete n d) s = .next t ∧
      t = { s with dies := t.dies, l2 := t.l2, maints := s.maints.filter (fun k => k.id ≠ n), free := t.free } ∧
      (∀ j, t.tl m.die j = if j = m.tl then (s.tlTouched m.die j).finish m.num 1 else s.tl m.die j) ∧
      (∀ u, SMap.get none t.l2 u = if m.kind ≠ 0 ∧ u ∈ lines then none else SMap.get none s.l2 u) ∧
      (t.die d).icache = (s.die d).icache.filter fun l => m.kind ≠ 0 || l.asid ≠ m.asid ||
        !decide (m.len ≠ 0 ∧ l.va.toNat < m.lo.toNat + m.len.toNat ∧ m.lo.toNat < l.va.toNat + 64)

/-- Steps, tile stores, copies and cache commands as they finish. -/
def Obligations.UnitEvents : Prop :=
  Claims.evStepRetire ∧ Claims.evTileStore ∧ Claims.evCopyChunk ∧ Claims.evCopyComplete ∧ Claims.evMaintDone

/-! ### Registers, partitions and bandwidth (R248 to R251, R264, R271, R273, R274, R305, R356 to R358, R427, R476) -/

/-- R237, R476. REGISTER_WRITE of SYSVEC: an aligned write of 8 bytes stores a bundle address; one that is not naturally aligned changes
nothing. -/
def Claims.evRegisterWrite : Prop :=
  (∀ (s : State) (d : Nat) (v : Word), d < 8 →
    ∃ t, exec (.registerWrite (.die d) 0 8 v) s = .next t ∧ s.RegOnly t d 0 (BitVec.ofNat 64 (v.toNat / 64 * 64))) ∧
  ∀ (s : State) (p : RegPage) (off n : Nat) (v : Word), off % 8 + n > 8 → exec (.registerWrite p off n v) s = .next s

/-- The partitions that are not Off may take their L2 shares and one more partition's (R249). -/
abbrev Claims.sharesFit (s : State) (p : Nat) : Prop :=
  ∀ d ∈ s.presentDies, (((List.range 64).filter fun k => k = p ∨ s.partState k ≠ 0).map fun k => fieldOf (s.pblock d k 8) 0 5).sum ≤ 16

/-- R249, R250, R357. PARTITION_ENABLE: an Off partition whose conditions hold is Enabled, with the slice, class and limit written; its
lines, phasers and counters on every die in service are as after reset. -/
def Claims.evPartitionEnable : Prop :=
  ∀ (s : State) (p : Nat) (v : Word), p < 64 → v.getLsbD 0 = true → s.partState p = 0 → fieldOf v 48 16 ≠ 0 → Claims.sharesFit s p →
    ∃ t, exec (.partitionEnable p v) s = .next t ∧ t = { s with parts := t.parts, dies := t.dies } ∧ t.partState p = 1 ∧
      (t.pcfg p).getLsbD 0 = true ∧ (t.pcfg p).getLsbD 1 = v.getLsbD 1 ∧ fieldOf (t.pcfg p) 12 4 = fieldOf v 12 4 ∧
      fieldOf (t.pcfg p) 48 16 = fieldOf v 48 16 ∧ (∀ k, k ≠ p → t.pcfg k = s.pcfg k) ∧ (∀ d o, t.dctl d o = s.dctl d o) ∧
      ∀ d ∈ s.presentDies, ∀ i < fieldOf (s.pblock d p 0x20) 32 13, i < 4096 →
        t.tl d ((fieldOf (s.pblock d p 0x20) 0 12 + i) % 4096) = .reset

/-- R249. PARTITION_DISABLE: with contexts loaded an Enabled partition drains; with none it is Off. -/
def Claims.evPartitionDisable : Prop :=
  ∀ (s : State) (p : Nat) (v : Word), p < 64 → v.getLsbD 0 = false → s.partState p = 1 → s.l2 = [] →
    ∃ t, exec (.partitionDisable p v) s = .next t ∧ t.ctxs = s.ctxs ∧ t.cores = s.cores ∧ (t.pcfg p).getLsbD 0 = false ∧
      t.partState p = (if s.ctxsOf p = [] then 0 else 2) ∧ (∀ k, k ≠ p → t.pcfg k = s.pcfg k) ∧
      ∀ a, a < 2 ^ 52 ∨ 2 ^ 56 ≤ a → t.rawByte a = s.rawByte a

/-- R251. PL2_WRITE: SHARE changes in an Off partition, up to 16, and DIRECT up to SHARE. Where DIRECT grows, dirty lines of the ways that leave
the cache are written back: no byte of memory reads otherwise. -/
def Claims.evPl2Write : Prop :=
  ∀ (s : State) (d p : Nat) (v : Word), p < 64 → s.partState p = 0 → fieldOf v 0 5 ≤ 16 → fieldOf v 8 5 < fieldOf v 0 5 →
    fieldOf (s.pblock d p 8) 8 5 ≤ fieldOf v 8 5 →
    ∃ t, exec (.pl2Write d p v) s = .next t ∧
      t = { s with dies := t.dies, l2 := t.l2, free := t.free } ∧
      (∀ e, t.die e = { s.die e with dctl := (t.die e).dctl }) ∧
      (∀ e o, t.dctl e o = if e = d ∧ o = 0x4000 + 0x40 * p + 8
        then setField (setField (s.pblock d p 8) 0 5 (fieldOf v 0 5)) 8 5 (fieldOf v 8 5) else s.dctl e o) ∧
      (∀ u, SMap.get none t.l2 u = none ∨ SMap.get none t.l2 u = SMap.get none s.l2 u) ∧
      (fieldOf v 8 5 = fieldOf (s.pblock d p 8) 8 5 → t.l2 = s.l2 ∧ t.free = s.free)

/-- R305. L2DIR_WRITE: DIRECT of the partition takes the value on every die in service, where it fits SHARE on each. -/
def Claims.evL2dirWrite : Prop :=
  ∀ (s : State) (p : Nat) (v : Word), p < 64 → (∀ d ∈ s.presentDies, fieldOf (s.pblock d p 8) 8 5 ≤ fieldOf v 8 5 ∧
      fieldOf v 8 5 < fieldOf (s.pblock d p 8) 0 5) →
    ∃ t, exec (.l2dirWrite p v) s = .next t ∧ t = { s with dies := t.dies, l2 := t.l2, free := t.free } ∧
      (∀ d, t.die d = { s.die d with dctl := (t.die d).dctl }) ∧
      (∀ u, SMap.get none t.l2 u = none ∨ SMap.get none t.l2 u = SMap.get none s.l2 u) ∧
      ∀ d o, t.dctl d o = if d ∈ s.presentDies ∧ o = 0x4000 + 0x40 * p + 8 then setField (s.pblock d p 8) 8 5 (fieldOf v 8 5)
        else s.dctl d o

/-- R356. QUOTA_WRITE: PQSYNC or PQTL of an Off partition takes ranges that fit, while no other partition is on. -/
def Claims.evQuotaWrite : Prop :=
  ∀ (s : State) (d p : Nat) (tl : Bool) (v : Word), (∀ k < 64, s.partState k = 0) → s.partState p = 0 →
    (if tl then fieldOf v 0 12 + fieldOf v 32 13 ≤ 4096
      else fieldOf v 0 5 + fieldOf v 8 6 ≤ 32 ∧ fieldOf v 16 10 + fieldOf v 32 11 ≤ 1024) →
    ∃ t, exec (.quotaWrite d p tl v) s = .next t ∧ ∃ w, s.RegOnly t d (0x4000 + 0x40 * p + if tl then 0x20 else 0x18) w ∧
      if tl then w.toNat = fieldOf v 0 12 + fieldOf v 32 13 * 2 ^ 32
      else w.toNat = fieldOf v 0 5 + fieldOf v 8 6 * 2 ^ 8 + fieldOf v 16 10 * 2 ^ 16 + fieldOf v 32 11 * 2 ^ 32 + fieldOf v 56 8 * 2 ^ 56

/-- R427. PQCLM_WRITE: the claim slots of an Off partition, while no other partition is on. -/
def Claims.evPqclmWrite : Prop :=
  ∀ (s : State) (d p : Nat) (v : Word), (∀ k < 64, s.partState k = 0) → s.partState p = 0 → fieldOf v 0 12 + fieldOf v 32 13 ≤ 4096 →
    ∃ t, exec (.pqclmWrite d p v) s = .next t ∧ ∃ w, s.RegOnly t d (0x4000 + 0x40 * p + 0x28) w ∧
      w.toNat = fieldOf v 0 12 + fieldOf v 32 13 * 2 ^ 32

/-- R264. GPOOL_WRITE: SIZE takes a value between 4 and 1,024 when every value above it is Free; FREE counts the Free values below it. -/
def Claims.evGpoolWrite : Prop :=
  ∀ (s : State) (v : Word), let n := fieldOf v 32 16
    4 ≤ n → n ≤ 1024 → (∀ k < 1024, n ≤ k → s.gvState k = 0) →
    ∃ t, exec (.gpoolWrite v) s = .next t ∧ t = { s with gpool := t.gpool } ∧ t.poolSize = n ∧
      fieldOf t.gpool 16 10 = fieldOf s.gpool 16 10 ∧ fieldOf t.gpool 0 11 = (List.range n).countP fun k => s.gvState k == 0

/-- R358. SYNC_BUCKET_REFILL: once in each 256 cycles the partition's bucket gains SRATE tokens, up to its depth. -/
def Claims.evSyncRefill : Prop :=
  ∀ (s : State) (d p : Nat),
    (s.refillTime d ≤ SMap.get 0 (s.die d).syncAt p → exec (.syncBucketRefill d p) s = .next s) ∧
    (SMap.get 0 (s.die d).syncAt p < s.refillTime d → ∃ t, exec (.syncBucketRefill d p) s = .next t ∧ s.DieOnly t d ∧
      t.die d = { s.die d with syncSpent := (t.die d).syncSpent, syncAt := (t.die d).syncAt } ∧
      ∀ k, if k = p then SMap.get 0 (t.die d).syncSpent p = SMap.get 0 (s.die d).syncSpent p - fieldOf (s.pblock d p 0x18) 56 8 ∧
          SMap.get 0 (t.die d).syncAt p = s.time / (256 * s.cycleUnits d) * (256 * s.cycleUnits d)
        else SMap.get 0 (t.die d).syncSpent k = SMap.get 0 (s.die d).syncSpent k ∧
          SMap.get 0 (t.die d).syncAt k = SMap.get 0 (s.die d).syncAt k)

/-- R271. L2_BUCKET_REFILL: once in each 256 cycles a loaded context's bucket at a slice gains RATE tokens, up to its depth. -/
def Claims.evL2Refill : Prop :=
  ∀ (s : State) (d slice x : Nat) (c : Ctx), s.ctx? x = some c → let m := slice * 65536 + x
    (s.refillTime d ≤ SMap.get 0 (s.die d).l2At m → exec (.l2BucketRefill d slice x) s = .next s) ∧
    (SMap.get 0 (s.die d).l2At m < s.refillTime d → ∃ t, exec (.l2BucketRefill d slice x) s = .next t ∧ s.DieOnly t d ∧
      t.die d = { s.die d with l2Spent := (t.die d).l2Spent, l2At := (t.die d).l2At } ∧
      ∀ k, if k = m then SMap.get 0 (t.die d).l2Spent k = SMap.get 0 (s.die d).l2Spent k - fieldOf (c.ctl 0x200) 24 12 ∧
          SMap.get 0 (t.die d).l2At k = s.time / (256 * s.cycleUnits d) * (256 * s.cycleUnits d)
        else SMap.get 0 (t.die d).l2Spent k = SMap.get 0 (s.die d).l2Spent k ∧ SMap.get 0 (t.die d).l2At k = SMap.get 0 (s.die d).l2At k)

/-- R273, R274. CRITICAL_WINDOW_END of the one critical partition that is on: P99 and MISS are set, and every best-effort partition's rate is
halved after a miss, down to 1, or grows by 8, up to 256. -/
def Claims.evCriticalEnd : Prop :=
  ∀ (s : State) (d p p99 : Nat), p < 64 → s.partState p ≠ 0 → (s.pcfg p).getLsbD 1 = true → (∀ k, k ≠ p → (s.pcfg k).getLsbD 1 = false) →
    let miss := decide (fieldOf (s.pblock d p 0x10) 32 16 < p99)
    ∃ t, exec (.criticalWindowEnd d p p99) s = .next t ∧ s.DieOnly t d ∧ t.die d = { s.die d with dctl := (t.die d).dctl } ∧
      fieldOf (t.pblock d p 0x10) 16 16 = min 0xFFFF p99 ∧ (t.pblock d p 0x10).getLsbD 15 = miss ∧
      fieldOf (t.pblock d p 0x10) 32 16 = fieldOf (s.pblock d p 0x10) 32 16 ∧
      (∀ k < 64, k ≠ p → t.pblock d k 0x10 =
        let w := s.pblock d k 0x10
        if s.partState k = 0 then w else setField w 0 9 (if miss then max 1 (fieldOf w 0 9 / 2) else min 256 (fieldOf w 0 9 + 8))) ∧
      ∀ o, (∀ k < 64, o ≠ 0x4000 + 0x40 * k + 0x10) → t.dctl d o = s.dctl d o

/-- Register writes, and what changes partitions, their shares and quotas, the pool, and the buckets. -/
def Obligations.PartitionEvents : Prop :=
  Claims.evRegisterWrite ∧ Claims.evPartitionEnable ∧ Claims.evPartitionDisable ∧ Claims.evPl2Write ∧ Claims.evL2dirWrite ∧
  Claims.evQuotaWrite ∧ Claims.evPqclmWrite ∧ Claims.evGpoolWrite ∧ Claims.evSyncRefill ∧ Claims.evL2Refill ∧ Claims.evCriticalEnd

/-! ### Generations and the carder (R256, R265, R267, R269) -/

/-- R265. GEN_QUIET: a Draining value with nothing in flight under it is Quiet. -/
def Claims.evGenQuiet : Prop :=
  ∀ (s : State) (g : Nat), s.gvState g = 2 → s.inflt (BitVec.ofNat 10 g) = 0 →
    ∃ t, exec (.genQuiet g) s = .next t ∧ t = { s with gvstat := t.gvstat } ∧ t.gvState g = 3 ∧ ∀ k, k ≠ g → t.gvState k = s.gvState k

/-- R265, R267. CARDER_PASS_START: the Quiet values are those of the pass, and every die still has its storage to sweep. -/
def Claims.evCarderStart : Prop :=
  ∀ (s : State), s.carder.active = false → (∃ g < 1024, s.gvState g = 3) → s.l2 = [] →
    ∃ t, exec .carderPassStart s = .next t ∧ t.carder.active = true ∧ (∀ g, g ∈ t.carder.set ↔ g < 1024 ∧ s.gvState g = 3) ∧
      t.carder.todo = allDies ∧ t.carder.passes = s.carder.passes ∧
      (∀ g, t.gvState g = if g < 1024 ∧ s.gvState g = 3 then 4 else s.gvState g) ∧ t.cores = s.cores ∧
      ∀ a, a < 2 ^ 52 ∨ 2 ^ 57 ≤ a → t.rawByte a = s.rawByte a

/-- R256, R267. CARDER_STORAGE_SWEEP: no unit of the die that the carder visits is left with a tag of the pass, and neither is a register of
its cores; such a unit's bytes read zero, and units of other tags and other dies stay. -/
def Claims.evCarderSweep : Prop :=
  ∀ (s : State) (d : Nat), s.carder.active = true → d ∈ s.carder.todo → SMap.wf TagUnit.wiped s.metas = true →
    (∀ e ∈ s.metas, e.1 = unitBase e.1) → SMap.wf Core.reset s.cores = true → (∀ c, SMap.wf (Reg.wiped 64) (s.core c).sc.s = true) →
    let gone (m : Tag) : Bool := !m.z && s.carder.set.contains m.gen.toNat
    let swept (a : Nat) : Bool := onDie d a && s.carderSees (unitBase a) && gone (s.unit a).tag
    ∃ t, exec (.carderStorageSweep d) s = .next t ∧ t.carder = { s.carder with todo := s.carder.todo.erase d } ∧
      (∀ a, if swept a then t.unit a = .wiped ∧ t.rawByte a = 0 else t.unit a = s.unit a ∧ t.rawByte a = s.rawByte a) ∧
      (∀ c, dieOfCore c ≠ d → t.core c = s.core c) ∧
      ∀ c, dieOfCore c = d → ∀ r,
        SMap.get (Reg.wiped 64) (t.core c).sc.s r =
          if gone (SMap.get (Reg.wiped 64) (s.core c).sc.s r).tag then Reg.wiped 64 else SMap.get (Reg.wiped 64) (s.core c).sc.s r

/-- R265, R267, R269. CARDER_PASS_END: with every die swept, the values of the pass are Free, and PASSES counts it. -/
def Claims.evCarderEnd : Prop :=
  ∀ (s : State), s.carder.active = true → s.carder.todo = [] → s.carder.set.Nodup → (∀ g ∈ s.carder.set, s.gvState g = 4) →
    ∃ t, exec .carderPassEnd s = .next t ∧ t = { s with gvstat := t.gvstat, gpool := t.gpool, carder := t.carder } ∧
      t.carder = { passes := s.carder.passes + 1, active := false, set := [], todo := [] } ∧
      (∀ g, t.gvState g = if g ∈ s.carder.set then 0 else s.gvState g) ∧ t.poolSize = s.poolSize ∧
      fieldOf t.gpool 0 11 = (fieldOf s.gpool 0 11 + s.carder.set.countP fun g => decide (g < s.poolSize)) % 2 ^ 11

/-- The life of a generation value after it has left its context. -/
def Obligations.GenerationEvents : Prop :=
  Claims.evGenQuiet ∧ Claims.evCarderStart ∧ Claims.evCarderSweep ∧ Claims.evCarderEnd

/-! ### Host writes, loading and unloading (R253, R260, R314 to R327, R382) -/

/-- R260, R382. HOST_WRITE of bytes of one line: at once, under the context's generation, where the context runs no gang on the die, and into
the die's ingress buffer where it does. -/
def Claims.evHostWrite : Prop :=
  ∀ (s : State) (x d loc : Nat) (va : Word) (bs : List Byte) (c : Ctx) (tagged : Bool), s.ctx? x = some c → bs ≠ [] →
    va.toNat % 64 + bs.length ≤ 64 → (∀ e ∈ allDies, s.ingressOf e (partOf x) < 4096) → s.ingressOf d (partOf x) < 4096 →
    s.ctxPlace x d va.toNat = some (loc, tagged) → loc < 2 ^ 84 → loc % 64 = va.toNat % 64 → (s.unit loc).poison = false →
    s.errors = [] →
    ∃ t, exec (.hostWrite x d va bs) s = .next t ∧ t.cores = s.cores ∧ t.ctxs = s.ctxs ∧
      if c.phase = .running ∧ s.gangSeqs x d ≠ [] then
        s.DieOnly t d ∧ t.die d = { s.die d with ingress := (s.die d).ingress ++
          [{ part := partOf x, ctx := x, addr := va, gen := c.gen, loc := loc, tagged := tagged, bytes := bs }] }
      else Claims.stored s t c.gen tagged loc bs

/-- R314, R323, R327. LOAD of an image that passes every check creates its context: Loaded, with a generation from the pool, its image and a
key of its own, and reports its CTXID; a check that fails is reported by its code, and nothing is loaded. -/
def Claims.evLoad : Prop :=
  (∀ (s : State) (d : Nat) (p : LoadPlan), let w := s.dctl d 0x208
    fieldOf w 0 4 = 1 → s.present d = true →
    let r := s.loadCode (s.imageAt d) (s.imagePlaced d) (fieldOf w 10 6) p
    r ≠ 0 → r < 256 →
    ∃ t, exec (.load d p) s = .next t ∧ ∃ w', s.RegOnly t d 0x208 w' ∧ fieldOf w' 32 8 = r ∧ fieldOf w' 0 4 = 0 ∧ fieldOf w' 48 16 = fieldOf w 48 16) ∧
  ∀ (s u : State) (d g : Nat) (p : LoadPlan) (rd : ImgRead), let w := s.dctl d 0x208
    let part := fieldOf w 10 6
    let x := part * 1024 + p.index
    let raw := s.imageAt d
    let made := { newCtx p (rd.image p.code) (raw.num 8 1) g (Config.drawKey s.free) with queue := s.boundQueue x }
    fieldOf w 0 4 = 1 → s.present d = true → s.loadCode raw (s.imagePlaced d) part p = 0 → raw.relocated p.code p.data = some rd →
    s.takeGen x = some (g, u) → s.planFree part p = true →
    ({ ((p.tables.foldl (fun t e => t.putRaw (locDram e.1 e.2.1) (bytesOf e.2.2)) u).setCtx x (some made)) with
      free := s.free + 1 } : State).planMaps raw p (rd.image p.code) = true →
    ∃ t, exec (.load d p) s = .next t ∧ t.ctx? x = some made ∧ made.phase = .loaded ∧ made.gen = BitVec.ofNat 10 g ∧
      (∀ y, y ≠ x → t.ctx? y = s.ctx? y) ∧ t.gvState g = 1 ∧ (∀ k, k ≠ g → t.gvState k = s.gvState k) ∧ t.cores = s.cores ∧
      t.seqs = s.seqs ∧ fieldOf (t.dctl d 0x208) 48 16 = x % 2 ^ 16 ∧ fieldOf (t.dctl d 0x208) 32 8 = 0 ∧ fieldOf (t.dctl d 0x208) 0 4 = 0

/-- R214, R253, R265, R314. UNLOAD of a context that is neither Running nor Halted: it is gone with its key and its bindings, its generation is
Draining, and no other context changes. -/
def Claims.evUnload : Prop :=
  ∀ (s : State) (d x : Nat) (c : Ctx), fieldOf (s.dctl d 0x208) 0 4 = 2 → s.present d = true → (s.dctl d 0x200).toNat = x → x < 2 ^ 16 →
    s.ctx? x = some c → c.phase ≠ .running → c.phase ≠ .halted →
    ∃ t, exec (.unload d) s = .next t ∧ t.ctx? x = none ∧ (∀ y, y ≠ x → t.ctx? y = s.ctx? y) ∧ t.gvState c.gen.toNat = 2 ∧
      (∀ k, k ≠ c.gen.toNat → t.gvState k = s.gvState k) ∧
      (∀ k, t.core k = { s.core k with chan := (t.core k).chan, seals := (s.core k).seals.filter fun b => b.owner != x }) ∧
      fieldOf (t.dctl d 0x208) 32 8 = 0 ∧ fieldOf (t.dctl d 0x208) 0 4 = 0

/-- Host writes, loads and unloads. -/
def Obligations.LoadEvents : Prop := Claims.evHostWrite ∧ Claims.evLoad ∧ Claims.evUnload

/-! ### Queues (R299 to R309) -/

/-- R302. BIND of an Unbound queue: a block that passes is copied onto the chip, the lowest free polling slot is taken, and the queue is
Stopped; any other sets ERR. Each granule of the block is read between the command and the end of BIND. -/
def Claims.evBind : Prop :=
  ∀ (s : State) (n slot : Nat) (c : Ctx), let x := s.queue n
    let b := s.bindBlock n
    (∀ i < 8, (b.drop (16 * i)).take 16 = ((s.raw (blockLoc x.block) 128).drop (16 * i)).take 16 ∨
      (b.drop (16 * i)).take 16 = (x.seen.drop (16 * i)).take 16) ∧
    (x.cmd = 1 → x.phase = .unbound → s.pollingSlot x.die = some slot → s.blockOk n b = true → s.ctx? (fieldAt b 8 2) = some c →
    ∃ t, exec (.bind n) s = .next t ∧ t = { s with queues := t.queues, ctxs := t.ctxs, free := t.free } ∧
      (∀ m, m ≠ n → t.queue m = s.queue m) ∧ (∀ y, y ≠ fieldAt b 8 2 → t.ctx? y = s.ctx? y) ∧
      if hostRange x.block 127 then
        t.queue n = { x with
          phase := .stopped, cmd := 0, dirty := true, slot := slot, rbase := BitVec.ofNat 64 (fieldAt b 0 8), ctx := fieldAt b 8 2,
          rank := fieldAt b 0x0A 1, logn := fieldAt b 0x0B 1, prod := BitVec.ofNat 32 (fieldAt b 0x40 4),
          cons := BitVec.ofNat 32 (fieldAt b 0x44 4), lastck := BitVec.ofNat 64 (fieldAt b 0x48 8), stopPending := false,
          seen := [] } ∧
        t.ctx? (fieldAt b 8 2) = some { c with queue := some n }
      else t.queue n = { x with cmd := 0, err := true, seen := [] } ∧ t.ctxs = s.ctxs)

/-- R304. STOP: an Idle or Pending queue is Stopped; in Launched the stop is pending. -/
def Claims.evStop : Prop :=
  ∀ (s : State) (n : Nat), let x := s.queue n
    x.cmd = 2 → x.phase ∈ [.idle, .pending, .launched] →
    ∃ t, exec (.stop n) s = .next t ∧ s.QueueOnly t n ∧
      t.queue n = if x.phase = .launched then { x with stopPending := true } else { x with phase := .stopped, cmd := 0, dirty := true, seen := [] }

/-- R304. START: a Stopped queue is Idle with nothing to serve, and Pending otherwise. -/
def Claims.evStart : Prop :=
  ∀ (s : State) (n : Nat), let x := s.queue n
    x.cmd = 3 → x.phase = .stopped →
    ∃ t, exec (.start n) s = .next t ∧ s.QueueOnly t n ∧
      t.queue n = { x with phase := if x.prod = x.cons then .idle else .pending, cmd := 0, dirty := true, seen := [] }

/-- R303. EXPORT: the block holds the on-chip state, MISMATCH is set where its privileged half differed, and DIRTY is clear; no other byte
changes. -/
def Claims.evExport : Prop :=
  ∀ (s : State) (n : Nat), let x := s.queue n
    let a := blockLoc (x.qcba.toNat / 128 * 128)
    let half := bytesOf x.rbase ++ bytesOfWord 2 x.ctx ++ bytesOfWord 1 x.rank ++ bytesOfWord 1 x.logn ++ bytesOfWord 2 n ++ List.replicate 50 0
    let block := half ++ bytesOfWord 4 x.prod.toNat ++ bytesOfWord 4 x.cons.toNat ++ bytesOf x.lastck ++ List.replicate 48 0
    x.cmd = 4 → x.phase = .stopped →
    ∃ t, exec (.exportQueue n) s = .next t ∧ t = { s with queues := t.queues, mem := t.mem } ∧ (∀ m, m ≠ n → t.queue m = s.queue m) ∧
      if hostRange x.block 127 then
        t.queue n = { x with cmd := 0, dirty := false, mismatch := x.mismatch || s.raw a 64 != half, seen := [] } ∧
        ∀ b, t.rawByte b = if a ≤ b ∧ b < a + 128 then block.getD (b - a) 0 else s.rawByte b
      else t.queue n = { x with cmd := 0, err := true, seen := [] } ∧ t.mem = s.mem

/-- R304. UNBIND of a Stopped or Fenced queue releases it and its context. -/
def Claims.evUnbind : Prop :=
  ∀ (s : State) (n : Nat) (c : Ctx), let x := s.queue n
    x.cmd = 5 → x.phase = .stopped ∨ x.phase = .fenced → s.ctx? x.ctx = some c → c.queue = some n →
    ∃ t, exec (.unbind n) s = .next t ∧ t = { s with queues := t.queues, ctxs := t.ctxs } ∧ (∀ m, m ≠ n → t.queue m = s.queue m) ∧
      t.queue n = { x with phase := .unbound, cmd := 0, dirty := true, seen := [] } ∧
      ∀ y, t.ctx? y = if y = x.ctx then some { c with queue := none } else s.ctx? y

/-- R304, R305. QUEUE_DOORBELL: an index between PROD and CONS + 2^LOGN is taken, and an Idle queue with packets is Pending, with DIRTY set
where something changes; any other is recorded and dropped. -/
def Claims.evDoorbell : Prop :=
  ∀ (s : State) (p q : Nat) (v : BitVec 32), let n := 16 * p + q
    let x := s.queue n
    x.phase ≠ .unbound → x.phase ≠ .fenced →
    ∃ t, exec (.queueDoorbell p q v) s = .next t ∧
      if (x.prod - x.cons).toNat ≤ (v - x.cons).toNat ∧ (v - x.cons).toNat ≤ 2 ^ x.logn then
        s.QueueOnly t n ∧ t.queue n = { x with
          prod := v, dirty := x.dirty || decide (v ≠ x.prod ∨ (x.phase = .idle ∧ v ≠ x.cons)),
          phase := if x.phase = .idle ∧ v ≠ x.cons then .pending else x.phase }
      else t = { s with mem := t.mem, vfs := t.vfs } ∧
        ((s.vf p).ringFull = false → t.vf p = (s.vf p).posted ∧
          t.raw (s.vf p).ringLoc 16 = eventRecord (v.setWidth 64) 0xF003 x.ctx true)

/-- R305. EVCFG_WRITE: the ring's base and size are set, and its indices are 0; device records that waited for room (log entry 21) follow. -/
def Claims.evEvcfg : Prop :=
  ∀ (s : State) (p : Nat) (v : Word), ∃ t, exec (.evcfgWrite p v) s = .next t ∧ ∃ w, t = { s with vfs := t.vfs, mem := t.mem } ∧
    (∀ k, k ≠ p → t.vf k = s.vf k) ∧ (t.vf p).evcfg = w ∧ (t.vf p).evhead = 0 ∧
    ((s.vf p).waiting = [] → t.mem = s.mem ∧ t.vf p = { s.vf p with evcfg := w, evhead := 0, evtail := 0 }) ∧
    w.toNat = v.toNat % 16 + v.toNat / 4096 * 4096

/-- R306, R307. QUEUE_SERVE of a launch packet: the context is Ready with the packet's kernel, arguments and cookie, and the queue is
Launched. -/
def Claims.evQueueServe : Prop :=
  ∀ (s : State) (n : Nat) (c : Ctx), let x := s.queue n
    let a := x.rbase.toNat + 128 * (x.cons.toNat % 2 ^ x.logn)
    let b := s.raw (locHost a) 128
    x.phase = .pending → s.ctx? x.ctx = some c → c.phase = .loaded → c.launch = none → (s.vf (n / 16)).ringFull = false →
    s.present x.die = true → fieldAt b 0 2 = 1 → fieldAt b 4 4 < 2 → zeroAt b 0x10 48 = true → c.group = .placed →
    0 < c.ndie → fieldAt b 2 2 + c.ndie ≤ c.image.kernels.length →
    ∃ t, exec (.queueServe n) s = .next t ∧ t = { s with queues := t.queues, ctxs := t.ctxs, mem := t.mem, vfs := t.vfs } ∧
      (∀ m, m ≠ n → t.queue m = s.queue m) ∧
      if hostRange a 127 then
        t.mem = s.mem ∧ t.vfs = s.vfs ∧ t.queue n = { x with phase := .launched, dirty := true } ∧
        ∀ y, t.ctx? y = if y = x.ctx then some { c with
            phase := .ready, group := .starting,
            launch := some { queue := n, kidx := fieldAt b 2 2, cookie := BitVec.ofNat 64 (fieldAt b 8 8), cevt := fieldAt b 4 4 == 1,
                             args := (List.range 8).map fun i => BitVec.ofNat 64 (fieldAt b (0x40 + 8 * i) 8) } }
          else s.ctx? y
      else t.ctxs = s.ctxs ∧ (t.queue n).cons = x.cons + 1

/-- R308. LAUNCH_COMPLETE: once every copy and write of the context has ended, CONS advances and the cookie is kept; the completion record is
posted where the packet asked for it, and the queue goes on, or stops where a stop was pending. -/
def Claims.evLaunchComplete : Prop :=
  ∀ (s : State) (n : Nat) (c : Ctx) (l : Launch), let x := s.queue n
    s.ctx? x.ctx = some c → c.phase = .loaded → x.phase = .launched → c.launch = some l → s.launchQuiet x.ctx = true →
    (s.vf (n / 16)).ringFull = false →
    ∃ t, exec (.launchComplete n) s = .next t ∧ t = { s with queues := t.queues, ctxs := t.ctxs, mem := t.mem, vfs := t.vfs } ∧
      (∀ m, m ≠ n → t.queue m = s.queue m) ∧
      (∀ y, t.ctx? y = if y = x.ctx then some { c with launch := none } else s.ctx? y) ∧
      t.vf (n / 16) = (if l.cevt then (s.vf (n / 16)).posted else s.vf (n / 16)) ∧
      t.queue n = { x with
        cons := x.cons + 1, dirty := true, lastck := l.cookie, stopPending := false, cmd := if x.stopPending then 0 else x.cmd,
        seen := if x.stopPending then [] else x.seen,
        phase := if x.stopPending then .stopped else if x.prod = x.cons + 1 then .idle else .pending }

/-- Queue commands, doorbells, packets and completions. -/
def Obligations.QueueEvents : Prop :=
  Claims.evBind ∧ Claims.evStop ∧ Claims.evStart ∧ Claims.evExport ∧ Claims.evUnbind ∧ Claims.evDoorbell ∧ Claims.evEvcfg ∧
  Claims.evQueueServe ∧ Claims.evLaunchComplete

/-! ### Placement, bindings and pairs (R335 to R340, R347, R349, R352) -/

/-- A GRPCTL word with a command finished. -/
abbrev Claims.grpDone (c c' : Ctx) (result : Nat) : Prop :=
  fieldOf (c'.ctl 0x348) 0 4 = 0 ∧ fieldOf (c'.ctl 0x348) 32 8 = result ∧ ∀ o, o ≠ 0x348 → c'.ctl o = c.ctl o

/-- R339, R340. PLACE: a Loaded context whose table names present sequencers with the gangs their bindings give, in ascending dies, is Placed on
them, with DRANK by die, GRANK counting cores through the gangs, and NDIE and NCORE; a table that fails a check is refused by its code. -/
def Claims.evPlace : Prop :=
  ∀ (s : State) (x : Nat) (c : Ctx), s.ctx? x = some c → fieldOf (c.ctl 0x348) 0 4 = 0 → c.entriesOk = true →
    let l := c.entries
    let seqOf (w : Word) := fieldOf w 56 3 * 40 + fieldOf w 52 4 * 4 + fieldOf w 50 2
    let width (w : Word) := ((List.range 16).filter fun i => (fieldOf w 0 16).testBit i).length
    ∃ t, exec (.place x) s = .next t ∧ ∃ (c' : Ctx), s.CtxOnly t x ∧ t.ctx? x = some c' ∧
      if (l.all fun w => decide (fieldOf w 52 4 ≤ 9 ∧ fieldOf w 0 16 = posMask (s.boundGang (seqOf w)) ∧
            (s.boundGang (seqOf w)).length ∈ [1, 2, 4, 8, 16]) && s.present (fieldOf w 56 3) && !s.isShadow (seqOf w)) = true ∧
          (l.map seqOf).Nodup ∧
          (l.map fun w => fieldOf w 56 3).eraseDups.length ≤ 1 ∧ c.phase = .loaded then
        Claims.grpDone c c' 0 ∧ c'.group = .placed ∧ c'.ndie = 1 ∧ c'.ncore = (l.map width).sum ∧ c'.gangs.length = l.length ∧
        ∀ i w, l[i]? = some w → 
          c'.gangs[i]? = some ({ seq := seqOf w, mask := w.setWidth 16, drank := 0, grank := ((l.take i).map width).sum } : GangPlace)
      else 1 < (l.map fun w => fieldOf w 56 3).eraseDups.length ∨
        (fieldOf (c'.ctl 0x348) 32 8 ≠ 0 ∧ c'.gangs = c.gangs ∧ c'.group = c.group)

/-- R339. RELEASE: a Loaded context's placement is cleared; of any other it is refused with 0x06. -/
def Claims.evRelease : Prop :=
  ∀ (s : State) (x : Nat) (c : Ctx), s.ctx? x = some c → fieldOf (c.ctl 0x348) 0 4 = 0 →
    ∃ t, exec (.release x) s = .next t ∧ ∃ (c' : Ctx), s.CtxOnly t x ∧ t.ctx? x = some c' ∧
      if c.phase = .loaded then Claims.grpDone c c' 0 ∧ c'.gangs = [] ∧ c'.group = .unplaced
      else Claims.grpDone c c' 6 ∧ c'.gangs = c.gangs ∧ c'.group = c.group

/-- R347. EVICT of a gang that stands at a bundle boundary in a system-mode handler: the gang waits to land, and the group is Split. -/
def Claims.evEvict : Prop :=
  ∀ (s : State) (x g : Nat) (c : Ctx) (p : GangPlace), s.ctx? x = some c → fieldOf (c.ctl 0x348) 0 4 = 0 → g < 512 →
    c.gangs[g]? = some p → c.group = .running ∨ c.group = .yielding → (s.seq p.seq).ctx = some x → (s.seq p.seq).sys = true →
    s.acting p.seq = true → (s.seq p.seq).phase = .run → s.fedOut p.seq = false →
    ∃ t, exec (.evict x g) s = .next t ∧ ∃ (c' : Ctx), t = { s with seqs := t.seqs, ctxs := t.ctxs } ∧
      (∀ r, t.seq r = if r = p.seq then { s.seq r with phase := .landWait, mword := none, lineUp := false } else s.seq r) ∧ (∀ y, y ≠ x → t.ctx? y = s.ctx? y) ∧
      t.ctx? x = some c' ∧ c' = { c with group := .split, evicted := c.evicted ++ [g], cctl := c'.cctl } ∧
      fieldOf (c'.ctl 0x348) 0 4 = 3 ∧ fieldOf (c'.ctl 0x348) 12 9 = g

/-- R290, R347. READMIT of an evicted gang on its free sequencer: the gang has its context again, at its PC, with a full slice, and the group
runs. -/
def Claims.evReadmit : Prop :=
  ∀ (s : State) (x g : Nat) (c : Ctx) (p : GangPlace) (k : Parked), s.ctx? x = some c → fieldOf (c.ctl 0x348) 0 4 = 0 → g < 512 →
    c.gangs[g]? = some p → c.group = .split → g ∈ c.evicted → c.parkedAt.find? (fun e => e.1 == g) = some (g, k) →
    k.withState = false → (s.seq p.seq).ctx = none → (s.seq p.seq).phase = .idle → (s.seq p.seq).fenced = false →
    c.gangAt p.seq = some g → s.paired p.seq = false →
    ∃ t, exec (.readmit x g) s = .next t ∧ ∃ (c' : Ctx), t.mem = s.mem ∧ (∀ r, r ≠ p.seq → t.seq r = s.seq r) ∧ (t.seq p.seq).ctx = some x ∧
      (t.seq p.seq).pc = k.seq.pc ∧ (t.seq p.seq).phase = .start 64 ∧ t.gang p.seq = s.boundGang p.seq ∧
      (t.seq p.seq).sleft = fieldOf (s.pcfg (partOf x)) 48 16 * 1024 ∧
      (∀ b ∈ s.boundGang p.seq, (t.core b).sc = (k.core b).sc ∧ (t.core b).ve = (k.core b).ve ∧ (t.core b).me = (k.core b).me) ∧
      t.ctx? x = some c' ∧ Claims.grpDone c c' 0 ∧ c'.group = .running ∧ c'.evicted = c.evicted.erase g

/-- R335, R337. CBIND_WRITE of a position whose sequencers have no placed context and are in no pair: the binding is written, and the free
sequencer it names has the gang and the ranks that its bindings give. -/
def Claims.evCbind : Prop :=
  ∀ (s : State) (c : Nat) (v : Word), c < 1280 → (s.cbind c).getLsbD 7 = false → v.getLsbD 7 = true →
    let q := c / 16 * 4 + fieldOf v 0 2
    s.pairTouches q = false → s.hasPlaced q = false → (s.seq q).phase = .idle → (s.seq q).ctx = none →
    ∃ t, exec (.cbindWrite c v) s = .next t ∧ t.mem = s.mem ∧
      (∀ d o, t.dctl d o = if d = dieOfCore c ∧ o = 0x5000 + 0x100 * (c / 16 % 10) + 8 * (c % 16)
        then BitVec.ofNat 64 (v.toNat % 4 + v.toNat / 16 % 16 * 16) else s.dctl d o) ∧
      (∀ r, t.seq r = if r = q then { s.seq q with gang := t.gang q } else s.seq r) ∧ c ∈ t.gang q ∧
      ∀ i b, (t.gang q)[i]? = some b → (t.core b).sp.crank = i ∧ (t.core b).sp.gangsz = (t.gang q).length ∧ (t.core b).sc = (s.core b).sc

/-- R349. PAIR_WRITE: EN bits that are set stay or come where the two creels have the same bindings, gangs that can run and nothing placed;
MIS bits clear where 1 is written. -/
def Claims.evPair : Prop :=
  ∀ (s : State) (d j : Nat) (v : Word), let old := s.dctl d (0x5A00 + 8 * j)
    (∀ i < 4, v.getLsbD i = true → old.getLsbD i = false →
      let q := d * 40 + j * 8 + i
      (∀ k < 16, s.cbind (q / 4 * 16 + k) = s.cbind (q / 4 * 16 + k + 16)) ∧ (s.boundGang q).length ∈ [1, 2, 4, 8, 16] ∧
      s.hasPlaced q = false ∧ s.hasPlaced (q + 4) = false) →
    ∃ t, exec (.pairWrite d j v) s = .next t ∧ ∃ w, s.RegOnly t d (0x5A00 + 8 * j) w ∧ w.toNat < 256 ∧
      (∀ i < 4, w.getLsbD i = v.getLsbD i) ∧ ∀ i < 4, w.getLsbD (4 + i) = (old.getLsbD (4 + i) && !v.getLsbD (4 + i))

/-- R352. PAIR_SELFTEST_END of a lasting error in a creel with no spare: the pair ends and the group is Faulted, with GRPFLT pending at every
gang that runs; what was in the landing queues of the cores of both creels is discarded, and their registers are cleared as at a yield. -/
def Claims.evPairSelftest : Prop :=
  ∀ (s : State) (q x creel p : Nat) (c : Ctx), (s.seq q).ctx = some x → s.ctx? x = some c → c.group = .checking → s.paired q = true →
    (s.streams x).all s.gangQuiet = true → fieldOf (s.dctl (creel / 10) (0x5000 + 0x100 * (creel % 10) + 0x80)) 24 5 ≠ 0x1F →
    (s.seq q).phase = .held → (s.seq q).parent = none →
    ∃ t, exec (.pairSelftestEnd q 1 creel p) s = .next t ∧ ∃ (c' : Ctx), t.paired q = false ∧
      (∀ b ∈ s.boundGang q, ∀ k, k = b ∨ k = b + 16 →
        (t.core k).pp.lq = [] ∧ (t.core k).ve = .reset ∧ (t.core k).me = .reset ∧ ∀ g r, 8 < r → r < 32 → (t.core k).readS g r = 0) ∧
      t.ctx? x = some c' ∧ c'.group = .faulted ∧ (∀ y, y ≠ x → t.ctx? y = s.ctx? y) ∧
      ∀ r ∈ s.streams x, (s.seq r).parent = none → 13 ∈ (t.seq r).async ∧ ((s.seq r).phase = .held → (t.seq r).phase = .run)

/-- Placements, evictions, bindings and pairs. -/
def Obligations.PlacementEvents : Prop :=
  Claims.evPlace ∧ Claims.evRelease ∧ Claims.evEvict ∧ Claims.evReadmit ∧ Claims.evCbind ∧ Claims.evPair ∧ Claims.evPairSelftest

/-! ### Requests, matrix ownership and the debug port (R61, R284, R295, R297) -/

/-- R284. PREEMPT_REQUEST: REQ is set; LANDED keeps its value. -/
def Claims.evPreemptRequest : Prop :=
  ∀ (s : State) (x : Nat) (c : Ctx), s.ctx? x = some c → ∃ t, exec (.preemptRequest x) s = .next t ∧ ∃ (c' : Ctx), s.CtxOnly t x ∧
    t.ctx? x = some c' ∧ c' = { c with cctl := c'.cctl } ∧ (∀ o, o ≠ 0x310 → c'.ctl o = c.ctl o) ∧
    (c'.ctl 0x310).toNat = if (c.ctl 0x310).getLsbD 1 then 3 else 1

/-- R295. ACCOWN_WRITE with idle units: to the same owner, the value is stored and nothing else changes; between owners that are not loaded, or
with nothing to spill and an owner that is not loaded, the tiles, the queue and FBIND are reset as well. No tile moves, so no cycle is added. -/
def Claims.evAccown : Prop :=
  ∀ (s : State) (c : Nat) (v : Word), let o := (s.core c).mx.accown
    (s.core c).pp.accw = some v → s.unitsIdle (s.withShadow c) = true → (s.seqOfCore c).isSome = true →
    accOwner v = accOwner o ∨ (s.ctx? (accOwner v) = none ∧
      (s.ctx? (accOwner o) = none ∨ (fieldOf o 8 8 = 0 ∧ accSq o = false ∧ accFb o = false))) →
    ∃ t, exec (.accownWrite c) s = .next t ∧ t = { s with cores := t.cores } ∧
      ∀ b, t.core b = if b ∈ s.withShadow c then
          { s.core b with
            mx := if accOwner v = accOwner o then { (s.core b).mx with accown := v }
              else { (s.core b).mx with t := [], scq := [], half := false, fbind := 8, fbOf := none, accown := v }
            pp := { (s.core b).pp with accw := none, accLeft := if accOwner v = accOwner o then (s.core b).pp.accLeft else 0 } }
        else s.core b

/-- R297. DEBUG_HALT at a bundle boundary: the gang halts with DEBUG and slot 15, TPC at its next bundle; its context is Halted. -/
def Claims.evDebugHalt : Prop :=
  ∀ (s : State) (q x : Nat) (c : Ctx), (s.seq q).ctx = some x → s.ctx? x = some c → c.group ≠ .starting → s.debugOk x (dieOfSeq q) = true →
    ((s.seq q).phase = .run ∧ s.fedOut q = false ∧ (s.seq q).released = false) ∨
      (∃ k, (s.seq q).phase = .bubble k ∨ (s.seq q).phase = .start k ∨ (s.seq q).phase = .restore k) →
    ∃ t, exec (.debugHalt q) s = .next t ∧ t = { s with cores := t.cores, seqs := t.seqs, ctxs := t.ctxs } ∧
      (∀ r, t.seq r = if r = q then { s.seq q with phase := .halted, mword := none, haltAsk := false, lineUp := false } else s.seq r) ∧
      (∀ y, t.ctx? y = if y = x then some { c with phase := .halted } else s.ctx? y) ∧
      ∀ k, t.core k = if k ∈ s.allCores q then
          { s.core k with
            sp := { (s.core k).sp with
              tpc := (s.seq q).pc
              tcause := BitVec.ofNat 64 (15 * 2 ^ 36 + (if tcAct (s.core k).sp.tcause then 512 else 0) +
                (if tcNest (s.core k).sp.tcause then 256 else 0) + (if (s.seq q).sys then 128 else 0) + 17) } }
        else s.core k

/-- R297, R360. DEBUG_RESUME: the gang runs on at its PC, counting its waits from 0; its context is Running once none of its sequencers is
halted. -/
def Claims.evDebugResume : Prop :=
  ∀ (s : State) (q x : Nat) (c : Ctx), (s.seq q).ctx = some x → s.ctx? x = some c → (s.seq q).phase = .halted →
    s.debugOk x (dieOfSeq q) = true →
    ∃ t, exec (.debugResume q) s = .next t ∧ t = { s with cores := t.cores, seqs := t.seqs, ctxs := t.ctxs } ∧
      (∀ k, t.core k = if k ∈ s.gang q then { s.core k with pp := { (s.core k).pp with waitCnt := 0 } } else s.core k) ∧
      (∀ r, t.seq r = if r = q then { s.seq q with phase := .run } else s.seq r) ∧
      (∀ y, y ≠ x → t.ctx? y = s.ctx? y) ∧
      t.ctx? x = if allSeqs.any fun r => decide (r ≠ q ∧ (s.seq r).ctx = some x ∧ (s.seq r).phase = .halted) then some c else some { c with phase := .running }

/-- A file of registers after the debugger has written one. -/
abbrev Claims.wrote {n : Nat} (old new : SMap (Reg n)) (i : Nat) (v : BitVec n) (g : Gen) : Prop :=
  ∀ r, SMap.get (Reg.wiped n) new r = if r = i then Reg.of v g else SMap.get (Reg.wiped n) old r

/-- R297. DEBUG_STATE_WRITE of a core of a halted gang: the register takes the value with the context's GEN; a constant register and a dead one
keep theirs; the operand files keep their copies of the main file. A tile that a protected context owns is not reached (R329). -/
def Claims.evDebugWrite : Prop :=
  ∀ (s : State) (q c i : Nat) (v : Tile), s.debugMay q c = true → let g := s.genOf q
    let k := s.core c
    (i < 32 → ∃ t, exec (.debugStateWrite q c (.s i) v) s = .next t ∧ s.CoreOnly t c ∧
      t.core c = { k with sc := { k.sc with s := (t.core c).sc.s } } ∧
      if i = 0 then (t.core c).sc.s = k.sc.s else Claims.wrote k.sc.s (t.core c).sc.s i (v.setWidth 64) g) ∧
    (i < 8 → ∃ t, exec (.debugStateWrite q c (.q i) v) s = .next t ∧ s.CoreOnly t c ∧
      t.core c = { k with sc := { k.sc with q := (t.core c).sc.q } } ∧
      if i = 0 then (t.core c).sc.q = k.sc.q else Claims.wrote k.sc.q (t.core c).sc.q i (v.setWidth 1) g) ∧
    (i < 64 → ∃ t, exec (.debugStateWrite q c (.v i) v) s = .next t ∧ s.CoreOnly t c ∧
      t.core c = { k with ve := { k.ve with v := (t.core c).ve.v } } ∧
      if k.dead g i then (t.core c).ve.v = k.ve.v else Claims.wrote k.ve.v (t.core c).ve.v i (v.setWidth 2048) g) ∧
    (i < 8 → ∃ t, exec (.debugStateWrite q c (.oa i) v) s = .next t ∧ s.CoreOnly t c ∧
      t.core c = { k with ve := { k.ve with oa := (t.core c).ve.oa } } ∧ Claims.wrote k.ve.oa (t.core c).ve.oa i (v.setWidth 2048) g) ∧
    (i < 16 → ∃ t, exec (.debugStateWrite q c (.a i) v) s = .next t ∧ s.CoreOnly t c ∧
      t.core c = { k with me := { k.me with a := (t.core c).me.a } } ∧
      if i = 0 then (t.core c).me.a = k.me.a else Claims.wrote k.me.a (t.core c).me.a i (v.setWidth 64) g) ∧
    (s.guardedMatrix c = true → exec (.debugStateWrite q c (.t i) v) s = .next s) ∧
    (i < 8 → s.guardedMatrix c = false → ∃ t, exec (.debugStateWrite q c (.t i) v) s = .next t ∧ s.CoreOnly t c ∧
      t.core c = { k with mx := { k.mx with t := (t.core c).mx.t } } ∧ Claims.wrote k.mx.t (t.core c).mx.t i v g) ∧
    ∃ t, exec (.debugStateWrite q c (.sr 0) v) s = .next t ∧ s.SeqOnly t q ∧
      t.seq q = { s.seq q with pc := BitVec.ofNat 64 (v.toNat % 2 ^ 64 / 64 * 64) }

/-- R61. DEBUG_LQ_WRITE of a core of a halted gang: VALID = 0 cancels the entry; an edit replaces it; a reserved PATH or FILE changes
nothing. -/
def Claims.evDebugLq : Prop :=
  ∀ (s : State) (q c i : Nat) (d : Word) (mask : Pred) (value : VWord), s.debugMay q c = true → i < 32 →
    let k := s.core c
    (fieldOf d 56 3 = 7 ∨ fieldOf d 53 3 = 7 → exec (.debugLqWrite q c i d mask value) s = .next s) ∧
    (d.getLsbD 63 = false → fieldOf d 56 3 ≠ 7 → fieldOf d 53 3 ≠ 7 → ∃ t, exec (.debugLqWrite q c i d mask value) s = .next t ∧ s.CoreOnly t c ∧
      t.core c = { k with pp := { k.pp with lq := k.pp.lq.eraseIdx i } }) ∧
    (d.getLsbD 63 = true → fieldOf d 56 3 ≠ 7 → fieldOf d 53 3 ≠ 7 → i < k.pp.lq.length →
      ∃ t, exec (.debugLqWrite q c i d mask value) s = .next t ∧ ∃ e, s.CoreOnly t c ∧
        t.core c = { k with pp := { k.pp with lq := k.pp.lq.set i e } } ∧ e.value = value ∧
        e.mask = (if d.getLsbD 36 then mask else BitVec.allOnes 128) ∧
        e.rem = fieldOf d 59 4 ∧ e.path.code = fieldOf d 56 3 ∧ e.index = fieldOf d 47 6 ∧ e.gen.toNat = fieldOf d 37 10)

/-- Pre-emption requests, writes of ACCOWN, and the debug port. -/
def Obligations.DebugEvents : Prop :=
  Claims.evPreemptRequest ∧ Claims.evAccown ∧ Claims.evDebugHalt ∧ Claims.evDebugResume ∧ Claims.evDebugWrite ∧ Claims.evDebugLq

/-! ### Translation commands (R395, R398 to R400, R405) -/

/-- A mapping of some bytes at an address meets the range of an invalidation; NPAGE 0 takes every address (R399). -/
abbrev Claims.meets (lo npage va bytes : Nat) : Prop := npage = 0 ∨ (va < lo + npage * 65536 ∧ lo < va + bytes)

/-- R399, R400. TLB_INVALIDATE with CMD: every TLB entry and instruction-cache line of the ASID in the range leaves each die of the scope, the
command waits for the accesses whose pins tie the range, and DONE is clear; while CMD reads 1 a write is ignored. -/
def Claims.evTlbInvalidate : Prop :=
  ∀ (s : State) (d : Nat) (v : Word), let asid := fieldOf v 14 9
    let lo := (s.dctl d 0x300).toNat
    let n := fieldOf v 32 32
    let scope := if v.getLsbD 5 then s.presentDies else [d]
    ((s.dctl d 0x308).getLsbD 0 = true → exec (.tlbInvalidate d v) s = .next s) ∧
    ((s.dctl d 0x308).getLsbD 0 = false → v.getLsbD 0 = true →
      ∃ t, exec (.tlbInvalidate d v) s = .next t ∧ t = { s with dies := t.dies, outside := t.outside } ∧
        (∀ e ∈ scope, ∀ x, x ∈ (t.die e).tlb ↔ x ∈ (s.die e).tlb ∧ ¬ (x.asid = asid ∧ Claims.meets lo n x.va.toNat (pageSize x.level))) ∧
        (∀ e ∈ scope, ∀ x, x ∈ (t.die e).icache ↔ x ∈ (s.die e).icache ∧ ¬ (x.asid = asid ∧ Claims.meets lo n x.va.toNat 64)) ∧
        (∀ e, e ∉ scope → (t.die e).tlb = (s.die e).tlb ∧ (t.die e).icache = (s.die e).icache) ∧
        (∀ e o, t.dctl e o = if e = d ∧ o = 0x308 then BitVec.ofNat 64 (n * 2 ^ 32 + asid * 2 ^ 14 + (if v.getLsbD 5 then 32 else 0) + 1)
          else s.dctl e o) ∧
        ∃ w, (t.die d).inval = (s.die d).inval ++ [w] ∧ w.asid = asid ∧ w.forUnload = none ∧
          ∀ k, k ∈ w.flights ↔ ∃ f ∈ s.flights, f.id = k ∧ dieOfCore f.core ∈ scope ∧ f.allDone = false ∧
            ∃ p ∈ f.pins, p.1 = asid ∧ Claims.meets lo n (p.2 * 65536) 65536)

/-- R400, R406. TLB_INVALIDATE_DONE: the invalidations whose pins are released and whose guests have answered, and for an unload whose copies
have drained, are over, and DONE is set for a command. -/
def Claims.evTlbDone : Prop :=
  ∀ (s : State) (d : Nat),
    let finished (v : Inval) : Prop := (∀ n ∈ v.flights, ∀ f, s.flight? n = some f → f.allDone = true) ∧
      (∀ g ∈ v.guests, (∀ w ∈ (s.die g.1).sock.writes, w.id ≠ g.2) ∧ ∀ w ∈ (s.die g.1).sock.invs, w.id ≠ g.2) ∧
      ∀ a, v.forUnload = some a → ∀ k ∈ s.cores, ∀ ch ∈ k.2.chan, ∀ r ∈ ch.2, r.gone ≠ some a
    (∃ v ∈ (s.die d).inval, v.forUnload = none ∧ finished v) →
    ∃ t, exec (.tlbInvalidateDone d) s = .next t ∧ t = { s with dies := t.dies, leaving := t.leaving } ∧ (∀ e, e ≠ d → t.die e = s.die e) ∧
      (∀ c, c ∈ t.leaving ↔ c ∈ s.leaving ∧ ¬ ∃ v ∈ (s.die d).inval, finished v ∧ v.forUnload = some c.asid) ∧
      t.die d = { s.die d with dctl := (t.die d).dctl, inval := (t.die d).inval } ∧
      (∀ v, v ∈ (t.die d).inval ↔ v ∈ (s.die d).inval ∧ ¬ finished v) ∧
      ∀ o, t.dctl d o = if o = 0x308 then setField (setField (s.dctl d 0x308) 4 1 1) 0 1 0 else s.dctl d o

/-- R395, R398. MIG_REWALK: the walk is made again; a leaf it finds goes into the TLB, where it replaces an entry of a full one, and one that
still has MIG set does not. -/
def Claims.evMigRewalk : Prop :=
  ∀ (s : State) (q : Nat), (s.seq q).ctx ≠ none → let d := dieOfSeq q
    let pc := (s.seq q).pc.toNat
    (s.walk (s.seq q).asid d pc = .hold → exec (.migRewalk q) s = .next s) ∧
    ∀ e lvl, s.walk (s.seq q).asid d pc = .leaf e lvl →
      ∃ t, exec (.migRewalk q) s = .next t ∧ s.DieOnly t d ∧ t.die d = { s.die d with tlb := (t.die d).tlb } ∧
        let new : TlbEntry := { asid := (s.seq q).asid, va := BitVec.ofNat 64 (pc / pageSize lvl * pageSize lvl), level := lvl, leaf := e }
        new ∈ (t.die d).tlb ∧ (∀ x ∈ (t.die d).tlb, x ∈ (s.die d).tlb ∨ x = new) ∧
        ((s.die d).tlb.length < 4096 → ∀ x ∈ (s.die d).tlb, x ∈ (t.die d).tlb) ∧
        ((s.die d).tlb.length ≤ 4096 → (t.die d).tlb.length ≤ 4096)

/-- A 64-byte granule as a migration leaves it: a copy with its metadata where the source's tag names a Live value, and wiped elsewhere
(R405). -/
def Claims.migrated (s t : State) (a b : Nat) : Prop :=
  let m := s.unit a
  if m.tag.z = false ∧ s.gvState m.tag.gen.toNat = 1 then
    t.unit b = { m with pend := false } ∧ ∀ j < 64, t.rawByte (b + j) = s.rawByte (a + j)
  else t.unit b = .wiped ∧ ∀ j < 64, t.rawByte (b + j) = 0

/-- R405. MIGRATE clears DONE and starts the copy of NFRAME frames; MIGRATE_DONE ends it, with every granule of the destination copied or wiped,
and sets DONE. No other byte changes. No granule is pending, and no uncorrectable error stands in one (R402). -/
def Claims.evMigrate : Prop :=
  ∀ (s : State) (d : Nat) (v : Word), let n := fieldOf v 32 32
    let src := (s.dctl d 0x320).toNat / 2 ^ 16 * 2 ^ 16
    let dst := (s.dctl d 0x328).toNat / 2 ^ 16 * 2 ^ 16
    d < 8 → v.getLsbD 0 = true → (s.dctl d 0x330).getLsbD 0 = false → src + n * 65536 ≤ dramBytes → dst + n * 65536 ≤ dramBytes →
    src + n * 65536 ≤ dst ∨ dst + n * 65536 ≤ src → s.errors = [] → (∀ i < n * 1024, s.migWaits d src dst i = false) →
    ∃ u, exec (.migrate d v) s = .next u ∧ ∃ t, exec (.migrateDone d) u = .next t ∧
      (∀ o, u.dctl d o = if o = 0x330 then BitVec.ofNat 64 (n * 2 ^ 32 + 1) else s.dctl d o) ∧
      (∀ o, t.dctl d o = if o = 0x330 then BitVec.ofNat 64 (n * 2 ^ 32 + 2) else s.dctl d o) ∧
      t = { s with mem := t.mem, metas := t.metas, full := t.full, l2 := t.l2, dies := t.dies, free := t.free } ∧
      (∀ e, e ≠ d → t.die e = s.die e) ∧
      (∀ i < n * 1024, Claims.migrated s t (locDram d (src + 64 * i)) (locDram d (dst + 64 * i))) ∧
      ∀ a, a < locDram d dst ∨ locDram d (dst + n * 65536) ≤ a → t.rawByte a = s.rawByte a ∧ t.unit a = s.unit a ∧
        u.rawByte a = s.rawByte a ∧ u.unit a = s.unit a

/-- R402, R405. MIGRATE_DONE of a migration under way: once no granule that it has still to move is pending, it is over, and DONE is set. -/
def Claims.evMigrateDone : Prop :=
  ∀ (s : State) (d src dst n : Nat) (left : List Nat), (s.die d).mig = some (src, dst, n, left) →
    ((∃ i ∈ left, s.migWaits d src dst i = true) → exec (.migrateDone d) s = .next s) ∧
    ((∀ i ∈ left, s.migWaits d src dst i = false) → ∃ t, exec (.migrateDone d) s = .next t ∧
      t = { s with mem := t.mem, metas := t.metas, full := t.full, l2 := t.l2, dies := t.dies, errors := t.errors } ∧
      (∀ e, e ≠ d → t.die e = s.die e) ∧ t.die d = { s.die d with mig := none, dctl := (t.die d).dctl } ∧
      ∀ o, t.dctl d o = if o = 0x330 then setField (setField (s.dctl d 0x330) 1 1 1) 0 1 0 else s.dctl d o)

/-- Invalidations, walks made again, and migrations. -/
def Obligations.TranslationEvents : Prop :=
  Claims.evTlbInvalidate ∧ Claims.evTlbDone ∧ Claims.evMigRewalk ∧ Claims.evMigrate ∧ Claims.evMigrateDone

/-! ### Ports (R407, R413 to R420) -/

/-- Nothing changes but one port of a die; its time base goes on, on the die's own clock or on the port's (R421). -/
structure Claims.PortOnly (s t : State) (d p : Nat) (x : Port) : Prop where
  rest : s.DieOnly t d
  die : t.die d = { s.die d with ports := (t.die d).ports, tbAdj := (t.die d).tbAdj, freeAt := (t.die d).freeAt }
  time : t.tbase d = s.tbase d
  port : ∀ r, t.port d r = if r = p then x else s.port d r

/-- The other end of a ring link of the package (R407). -/
abbrev Claims.farEnd (d p : Nat) : Option (Nat × Nat) :=
  if p = 0 then some ((d + 1) % 8, 1) else if p = 1 then some ((d + 7) % 8, 0) else none

/-- The two ends of a link that this package holds. -/
abbrev Claims.ends (d p : Nat) : List (Nat × Nat) := (d, p) :: (Claims.farEnd d p).toList

/-- R414, R415. TRAIN of a Down port with a next key whose self-test was not lasting: it is Training; any other is refused with ERR. -/
def Claims.evTrain : Prop :=
  ∀ (s : State) (d p : Nat), let x := s.port d p
    x.cmd = 1 → x.phase ≠ .training → ∃ t, exec (.train d p) s = .next t ∧
      Claims.PortOnly s t d p (if x.phase = .down ∧ x.nxt ≠ none ∧ x.stest ≠ 2 then { x with phase := .training, since := s.ticks }
        else { x with err := true, cmd := 0 })

/-- R414, R415. INSTALL: the staged key is the next key, or at once the current one in Held, and the staging words are zero; it is refused with
ERR while a next key stands or EPOCH is 0xFFFF. -/
def Claims.evInstall : Prop :=
  ∀ (s : State) (d p : Nat), let x := s.port d p
    x.cmd = 2 → x.phase ≠ .held ∨ x.open_ = 0 → ∃ t, exec (.install d p) s = .next t ∧
      Claims.PortOnly s t d p (
        if x.nxt ≠ none ∨ x.epoch = 0xFFFF then { x with err := true, cmd := 0 }
        else if x.phase = .held then
          { x with cur := some x.staged, nxt := none, epoch := x.epoch + 1, count := 0, phase := .up, staged := 0, cmd := 0 }
        else { x with nxt := some x.staged, staged := 0, cmd := 0 })

/-- R414, R421. LINK_TRAIN_COMPLETE with every end Training and with its key: each end is Up under it, EPOCH is one more and COUNT 0. -/
def Claims.evTrainComplete : Prop :=
  ∀ (s : State) (d p delay : Nat), d < 8 → s.portPresent d p = true →
    (∀ e ∈ Claims.ends d p, (s.port e.1 e.2).phase = .training ∧ (s.port e.1 e.2).nxt ≠ none ∧
      s.ticks ≤ (s.port e.1 e.2).since + 1000000) →
    ∃ t, exec (.linkTrainComplete d p delay) s = .next t ∧ t = { s with dies := t.dies } ∧
      ∀ e r, t.port e r = if (e, r) ∈ Claims.ends d p then
          let x := s.port e r
          { x with phase := .up, cur := x.nxt, nxt := none, epoch := x.epoch + 1, count := 0, open_ := 0, delay := delay,
                   cmd := if x.cmd = 1 then 0 else x.cmd, wire := [], recv := [] }
        else s.port e r

/-- R414. LINK_TRAIN_TIMEOUT, 1 ms after training began: each end that is Training is Down with ERR. -/
def Claims.evTrainTimeout : Prop :=
  ∀ (s : State) (d p : Nat), d < 8 → (s.port d p).phase = .training → (s.port d p).since + 1000000 < s.ticks →
    ∃ t, exec (.linkTrainTimeout d p) s = .next t ∧ t = { s with dies := t.dies } ∧
      ∀ e r, t.port e r = if (e, r) ∈ Claims.ends d p ∧ (s.port e r).phase = .training then
          { s.port e r with phase := .down, err := true, cmd := if (s.port e r).cmd = 1 then 0 else (s.port e r).cmd }
        else s.port e r

/-- R414, R417. KEY_SWITCH at a group boundary, from the tick of LSWT or in Held: the next key is the current one, EPOCH is one more and COUNT
0. -/
def Claims.evKeySwitch : Prop :=
  ∀ (s : State) (d p : Nat), let x := s.port d p
    x.nxt ≠ none → x.open_ = 0 → (x.phase = .up ∧ x.lswt.toNat ≤ s.tbase d) ∨ x.phase = .held →
    ∃ t, exec (.keySwitch d p) s = .next t ∧
      Claims.PortOnly s t d p { x with phase := .up, cur := x.nxt, nxt := none, epoch := x.epoch + 1, count := 0 }

/-- R414, R419. LINK_SELFTEST_END of a Contained port: it is Down, with the result in STEST. -/
def Claims.evLinkSelftest : Prop :=
  ∀ (s : State) (d p r : Nat), (s.port d p).phase = .contained → r = 1 ∨ r = 2 →
    ∃ t, exec (.linkSelftestEnd d p r) s = .next t ∧ Claims.PortOnly s t d p { s.port d p with phase := .down, stest := r }

/-- R414, R419. A link that was in service is Contained: at each of its ends that was in service no key and no flit is left. -/
def Claims.contained (s t : State) (d p : Nat) : Prop :=
  t.cores = s.cores ∧ t.seqs = s.seqs ∧ t.ctxs = s.ctxs ∧
  ∀ e ∈ Claims.ends d p, (s.port e.1 e.2).phase = .up ∨ (s.port e.1 e.2).phase = .held →
    let x := t.port e.1 e.2
    x.phase = .contained ∧ x.cur = none ∧ x.nxt = none ∧ x.sendq = [] ∧ x.wire = [] ∧ x.recv = [] ∧ x.count = (s.port e.1 e.2).count

/-- R413, R420. LINK_WATCHDOG_EXPIRE: a send-credit stall that has lasted LWDOG faults its group; a flit not accepted is refused with reason 1; a flit that the next
hop has not acknowledged contains the link and sets WDOG; a load of a full window to which no answer can come fails with LINKFLT and reads
zero. -/
def Claims.evWatchdog : Prop :=
  (∀ (s : State) (q x n : Nat) (c : Ctx), (s.seq q).ctx = some x → s.ctx? x = some c → c.group = .running → s.creditStall q = true →
    (s.seq q).creditAt = some ((s.seq q).issued, n) → n + 1024 * max 1 (fieldOf (s.dctl (dieOfSeq q) 0xB308) 0 32) ≤ s.ticks →
    (s.streams x).contains q = true →
    ∃ t, exec (.linkWatchdogExpire 0 (dieOfSeq q) q) s = .next t ∧ ∃ (c' : Ctx), t = { s with seqs := t.seqs, ctxs := t.ctxs } ∧
      t.ctx? x = some c' ∧ c'.group = .faulted ∧ (∀ y, y ≠ x → t.ctx? y = s.ctx? y) ∧ ∀ r ∈ s.streams x, 13 ∈ (t.seq r).async) ∧
  (∀ (s : State) (d p : Nat) (f : Flit) (rest : List Flit), (s.port d p).sendq = f :: rest → 0 < f.note.tries →
    f.note.since.elim false (fun n => decide (n + 1024 * max 1 (fieldOf (s.dctl d 0xB308) 0 32) ≤ s.ticks)) = true →
    f.src = s.selfFab d → f.kind.toNat ∈ [0, 1, 3, 4, 7, 8] →
    ∃ t, exec (.linkWatchdogExpire 1 d p) s = .next t ∧ s.DieOnly t d ∧
      t.die d = { s.die d with ports := (t.die d).ports, refused := (s.die d).refused ++ [(f, 1)] } ∧
      ∀ r, t.port d r = if r = p then { s.port d p with sendq := rest } else s.port d r) ∧
  (∀ (s : State) (d p : Nat), d < 8 → p < 6 → (s.port d p).phase = .up ∨ (s.port d p).phase = .held →
    (match Claims.farEnd d p with
      | some (e, r) => ∃ f ∈ (s.port e r).wire, ∃ n, f.note.tries = 0 ∧ f.note.since = some n ∧ n + 1024 * max 1 (fieldOf (s.dctl d 0xB308) 0 32) ≤ s.ticks
      | none => s.portPresent d p = true ∧ (s.port d p).phase = .up) →
    ∃ t, exec (.linkWatchdogExpire 2 d p) s = .next t ∧ Claims.contained s t d p ∧ (t.port d p).wdog = true) ∧
  ∀ (s : State) (n w k : Nat) (f : Flight) (p : Piece) (c : Ctx), s.flight? n = some f → f.window = some w → f.acked = true →
    (∀ a b, f.op ≠ .send a b) → s.ctx? f.ctx = some c → f.pieces = [p] → p.done = false → isFabric p.loc = true → f.sent = some k →
    k + 1024 * max 1 (fieldOf (s.dctl (dieOfCore f.core) 0xB308) 0 32) ≤ s.ticks →
    ∃ t, exec (.linkWatchdogExpire 3 (dieOfCore f.core) n) s = .next t ∧ t = { s with flights := t.flights, ctxs := t.ctxs } ∧
      t.flight? n = some { f with pieces := [{ p with done := true }], data := f.data.map fun _ => 0, failed := some 12 } ∧
      ∃ c', t.ctx? f.ctx = some c' ∧ (∀ o, o ≠ 0x358 → c'.ctl o = c.ctl o) ∧ fieldOf (c'.ctl 0x358) 0 4 = 6

/-- Training, keys, self-tests and the watchdog. -/
def Obligations.PortEvents : Prop :=
  Claims.evTrain ∧ Claims.evInstall ∧ Claims.evTrainComplete ∧ Claims.evTrainTimeout ∧ Claims.evKeySwitch ∧ Claims.evLinkSelftest ∧
  Claims.evWatchdog

/-! ### Flits (R201, R402, R403, R410 to R413, R416 to R418, R421, R429) -/

/-- No access of the machine waits to leave as flits. -/
abbrev Claims.noneToLaunch (s : State) : Prop := ∀ f ∈ s.flights, f.sent ≠ none ∨ f.sc ≠ none ∨ s.flitsOf f = []

/-- A flit has left a port of a die under the port's EPOCH bit: it is on the way to the far end of a ring link, or has left the package. -/
def Claims.left (s t : State) (d p : Nat) (f : Flit) : Prop :=
  let g := { f with
    epoch := BitVec.ofNat 1 (s.port d p).epoch.toNat, note := { f.note with since := some (f.note.since.getD s.ticks) } }
  match Claims.farEnd d p with
  | some (e, r) => t.port e r = { s.port e r with wire := (s.port e r).wire ++ [g] } ∧ t.outside = s.outside
  | none => t.outside = s.outside ++ [.flit d p g]

/-- R416, R418, R429. FLIT_SEND of an Up port with counters left: in an open group the first waiting flit leaves, a claim flit ahead of the
others, under the next SEQ; after sixteen, or with no flit waiting, the tag flit leaves. Each takes the next COUNT. From the tick of LSWT on, the port
with no group open is under its next key. -/
def Claims.evFlitSend : Prop :=
  ∀ (s : State) (d p : Nat), let x := s.port d p
    d < 8 → Claims.noneToLaunch s → x.phase = .up →
    (x.nxt ≠ none → x.open_ = 0 → x.lswt.toNat ≤ s.tbase d → x.sendq = [] → ∃ t, exec (.flitSend d p) s = .next t ∧
      Claims.PortOnly s t d p { x with cur := x.nxt, nxt := none, epoch := x.epoch + 1, count := 0 }) ∧
    ((x.open_ = 0 → x.nxt = none ∨ s.tbase d < x.lswt.toNat) → x.count.toNat < 2 ^ 48 - 3 → x.open_ ≤ 16 →
    let sent (y : Port) : Port := { y with count := x.count + 1, kdue := x.kdue || decide (2 ^ 47 ≤ x.count.toNat) }
    (∀ f, x.open_ < 16 → (x.sendq.find? fun f => f.kind == 8) = some f ∨ (x.sendq.head? = some f ∧ ∀ g ∈ x.sendq, g.kind ≠ 8) →
      ∃ t, exec (.flitSend d p) s = .next t ∧ t = { s with dies := t.dies, outside := t.outside } ∧
        t.port d p = sent { x with sendq := x.sendq.erase f, open_ := x.open_ + 1 } ∧
        Claims.left s t d p { f with seq := BitVec.ofNat 4 x.open_ }) ∧
    (x.open_ = 16 ∨ (0 < x.open_ ∧ x.sendq = []) →
      ∃ t, exec (.flitSend d p) s = .next t ∧ ∃ g, t = { s with dies := t.dies, outside := t.outside } ∧
        t.port d p = sent { x with open_ := 0 } ∧ g.kind = 10 ∧ g.src = s.selfFab d ∧ Claims.left s t d p g) ∧
    (x.open_ = 0 → x.sendq = [] → exec (.flitSend d p) s = .next s))

/-- R414, R416. FLIT_SEND with no counter left for a group of its own and no next key: the port is Held with KEXH. -/
def Claims.evHeld : Prop :=
  ∀ (s : State) (d p : Nat), let x := s.port d p
    Claims.noneToLaunch s → x.phase = .up → x.count.toNat = 2 ^ 48 - 2 → x.open_ = 0 → x.sendq ≠ [] → x.nxt = none → 2 ≤ p →
    ∃ t, exec (.flitSend d p) s = .next t ∧ (t.port d p).phase = .held ∧ (t.port d p).kexh = true ∧ (t.port d p).count.toNat = 2 ^ 48 - 1

/-- R412, R418. FLIT_RECEIVE at a ring port: with no buffer free a request circulates once more, and is then with its sender again; a flit that
is taken joins the group under way; a write that an import entry of this die takes is in its granule at once, which is pending, or
waits for a granule that is pending already (R402). -/
def Claims.evFlitReceive : Prop :=
  ∀ (s : State) (d p e r : Nat) (f : Flit) (rest : List Flit) (ext : Option (BitVec 704 × Nat)), let x := s.port d p
    d < 8 → s.errors = [] → Claims.farEnd d p = some (e, r) → x.phase = .up ∨ x.phase = .held → x.wire = f :: rest →
    (f.kind.toNat < 7 →
      let g := { f with note := { f.note with tries := f.note.tries + 1 } }
      ∃ t, exec (.flitReceive d p ext true) s = .next t ∧ t = { s with dies := t.dies } ∧
        if f.note.tries % 2 = 0 then t.port d p = { x with wire := rest ++ [g] } ∧ t.port e r = s.port e r
        else t.port d p = { x with wire := rest } ∧
          let home := ((s.dieOfFab f.src).filter fun k => k ≠ d).getD e
          t.port home r = { s.port home r with sendq := g :: (s.port home r).sendq }) ∧
    (f.kind ≠ 0 ∨ s.route d f ≠ .here ∨ s.meetsPend (locDram d (f.addr.toNat / 64 * 64)) 64 = true →
      ∃ t, exec (.flitReceive d p ext false) s = .next t ∧
      Claims.PortOnly s t d p { x with wire := rest, recv := x.recv ++ [f] }) ∧
    ∀ a, let u := locDram d (f.addr.toNat / 64 * 64)
      f.kind = 0 → s.route d f = .here → s.admitted d f true = .ok a → s.meetsPend u 64 = false → (s.unit u).poison = false → f.mask ≠ 0 →
      ∃ t, exec (.flitReceive d p ext false) s = .next t ∧ t.cores = s.cores ∧ t.flights = s.flights ∧
        t.port d p = { x with wire := rest, recv := x.recv ++ [{ f with note := { f.note with landed := true } }] } ∧
        (t.unit u).pend = true ∧ (a.tagged = true → (t.unit u).tag = Tag.of a.gen) ∧
        ∀ b, t.rawByte b =
          if u ≤ b ∧ b < u + 64 ∧ f.mask.getLsbD (b - u) = true then BitVec.ofNat 8 (f.payload.toNat / 2 ^ (8 * (b - u)))
          else if u ≤ b ∧ b < u + 64 ∧ a.tagged = true ∧ (s.unit u).tag.is a.gen = false then 0 else s.rawByte b

/-- R403, R410, R411, R418. FLIT_RECEIVE of the die's own queue: a claim flit joins the claim messages of the die; a read request is answered
with its line, read under the generation of its import entry. -/
def Claims.evOwnQueue : Prop :=
  ∀ (s : State) (d : Nat) (f : Flit) (rest : List Flit) (ext : Option (BitVec 704 × Nat)) (busy : Bool), (s.port d 6).recv = f :: rest →
    s.route d f = .here → s.errors = [] →
    (f.kind = 8 → f.note.told = false → ∃ t, exec (.flitReceive d 6 ext busy) s = .next t ∧ s.DieOnly t d ∧
      t.die d = { s.die d with ports := (t.die d).ports, claimIn := (s.die d).claimIn ++ [{ src := f.src, payload := f.payload }] } ∧
      ∀ r, t.port d r = if r = 6 then { s.port d 6 with recv := rest } else s.port d r) ∧
    ∀ a, let u := locDram d (f.addr.toNat / 64 * 64)
      f.kind = 1 → f.src = s.selfFab d → f.src.toNat % 8 = d → s.meetsPend u 64 = false → s.admitted d f false = .ok a →
      ∃ t, exec (.flitReceive d 6 ext busy) s = .next t ∧ ∃ g, Claims.PortOnly s t d 6 { s.port d 6 with recv := rest ++ [g] } ∧ g.kind = 2 ∧
        g.dst = f.src ∧ g.note.fid = f.note.fid ∧ g.payload = BitVec.ofNat 512 (wordOfBytes (s.readBytes a u 64))

/-- R201, R418, R419. TAG_GROUP_VERIFY of a group of one flit: a write that has landed is no longer pending, and where the check fails it is
poisoned, IFAIL counts, the link is Contained and its keys are gone; an answer reaches its access only from a group that verifies. -/
def Claims.evTagVerify : Prop :=
  ∀ (s : State) (d p : Nat) (f tag : Flit) (rest : List Flit), let x := s.port d p
    let good (g : Flit) : Prop := g.kind.toNat ≤ 10 ∧ g.rsv = 0
    let u := locDram d (f.addr.toNat / 64 * 64)
    d < 8 → p < 6 → x.recv = f :: tag :: rest → f.kind ≠ 10 → tag.kind = 10 → x.phase = .up → x.cur ≠ none →
    (good f → good tag → tag.epoch = BitVec.ofNat 1 x.epoch.toNat → s.route d f = .here →
      (f.kind = 0 → f.note.landed = true → (∀ r, ∀ g ∈ (if r = p then rest else (s.port d r).recv), g.note.landed = false) →
        ∃ t, exec (.tagGroupVerify d p true) s = .next t ∧ t.mem = s.mem ∧ t.unit u = { s.unit u with pend := false } ∧
          (t.port d p).ifail = x.ifail ∧ (t.port d p).phase = .up) ∧
      ∀ n g b, f.kind = 2 → f.note.fid = some n → f.note.poison = false → s.flight? n = some g → g.pieces = [b] → b.done = false →
        isFabric b.loc = true → (b.loc - locFabric 0) % 2 ^ 46 / 64 = f.addr.toNat / 64 → g.op = .load .vector false →
        g.data.length = b.len → b.off = 0 → b.loc % 64 + b.len ≤ 64 →
        ∃ t, exec (.tagGroupVerify d p true) s = .next t ∧ t.mem = s.mem ∧ t.cores = s.cores ∧
          t.flight? n = some { g with
            pieces := [{ b with done := true }], data := ((bytesOfWord 64 f.payload.toNat).drop (b.loc % 64)).take b.len }) ∧
    (f.kind = 0 → f.note.landed = true → (s.port d p).ifail < 0xFFFF →
      ∃ t, exec (.tagGroupVerify d p false) s = .next t ∧ Claims.contained s t d p ∧ (t.port d p).ifail = x.ifail + 1 ∧
        (t.unit u).poison = true ∧ (t.unit u).tag = (s.unit u).tag)

/-- R201, R413. REFUSAL_RECEIVE: a posted write is over, OUT of its window falls, LINKFLT is pending at its sequencer, and LFAULT tells the
address, the kind and the reason; a read is finished as zero and faulted. -/
def Claims.evRefusalReceive : Prop :=
  ∀ (s : State) (d reason n w q : Nat) (f : Flit) (rest : List (Flit × Nat)) (g : Flight) (c : Ctx), (s.die d).refused = (f, reason) :: rest →
    f.note.lost = false → f.kind ≠ 6 → f.kind ≠ 8 → f.note.fid = some n → s.flight? n = some g → g.window = some w → (∀ a b, g.op ≠ .send a b) →
    s.ctx? g.ctx = some c → s.seqOfCore g.core = some q → (s.seq q).ctx = some g.ctx → (s.seq q).phase = .run → reason < 16 →
    ∃ t, exec (.refusalReceive d) s = .next t ∧ ∃ (c' : Ctx), t = { s with dies := t.dies, flights := t.flights, ctxs := t.ctxs, seqs := t.seqs } ∧
      t.ctx? g.ctx = some c' ∧ (∀ o, c'.ctl o = if o = 0x358
        then BitVec.ofNat 64 ((f.dst.toNat * 2 ^ 46 + f.addr.toNat) / 2 ^ 16 * 2 ^ 16 + f.kind.toNat * 2 ^ 4 + reason) else c.ctl o) ∧
      (t.die d).refused = rest ∧ (∀ r, r ≠ q → t.seq r = s.seq r) ∧
      if g.acked then
        t.seq q = s.seq q ∧ c' = { c with cctl := c'.cctl } ∧
        t.flight? n = some { g with
          pieces := g.pieces.map fun b => { b with done := true }, data := g.data.map fun _ => 0, failed := some 12 }
      else
        12 ∈ (t.seq q).async ∧ t.flights = s.flights.filter (fun b => b.id ≠ n) ∧ c' = { c with cctl := c'.cctl, outs := c'.outs } ∧
        ∀ j, c'.out j = if j = w then c.out w - 1 else c.out j

/-- R421. TIME_FLIT_SEND: the next flit of an Up port holds the count of its die. -/
def Claims.evTimeFlit : Prop :=
  ∀ (s : State) (d p : Nat), let x := s.port d p
    x.phase = .up → ∃ t, exec (.timeFlitSend d p) s = .next t ∧ ∃ f, Claims.PortOnly s t d p { x with sendq := f :: x.sendq } ∧
      f.kind = 9 ∧ f.src = s.selfFab d ∧ f.payload = BitVec.ofNat 512 (s.tbase d)

/-- Flits as they are sent, received and verified. -/
def Obligations.FlitEvents : Prop :=
  Claims.evFlitSend ∧ Claims.evHeld ∧ Claims.evFlitReceive ∧ Claims.evOwnQueue ∧ Claims.evTagVerify ∧ Claims.evRefusalReceive ∧
  Claims.evTimeFlit

/-! ### Claims as they arrive and take effect (R423, R424, R428, R430 to R435, R437) -/

/-- Nothing changes but one group entry of a die. -/
structure Claims.GroupOnly (s t : State) (d i : Nat) (g : ClaimGroup) : Prop where
  rest : s.DieOnly t d
  die : t.die d = { s.die d with clgrp := (t.die d).clgrp, cells := (t.die d).cells }
  entry : ∀ j, t.clgrp d j = if j = i then g else s.clgrp d j

/-- R424. CLGRP_WRITE of word 0 with V = 1 reads the member list and holds it on chip; it is refused, and nothing changes, while a slot holds a
claim of the group, and for a list, a SCOPE, a reserved bit or cells that the rule forbids. With V = 0 it clears the group's cells, its
members and BROKEN, unless a slot holds a claim of the group. -/
def Claims.evClgrp : Prop :=
  ∀ (s : State) (d i : Nat) (v : Word), let g := s.clgrp d i
    let base := g.w1.toNat / 4096 * 4096
    let l := (List.range (fieldOf g.w1 0 11)).map fun k => BitVec.ofNat 18 (wordOfBytes (s.raw (locDram d (base + 4 * k)) 4))
    let self := s.selfFab d
    let w := setField v 61 1 (if g.broken then 1 else 0)
    let scope := fieldOf v 44 4
    let bad : Prop := (g.valid = true ∧ s.claimsOf d g.part g.gid = true) ∨ s.claimsOf d (fieldOf v 48 6) (BitVec.ofNat 16 v.toNat) = true ∨
      self ∉ l ∨ (∃ f ∈ l, withinScope scope self f = false) ∨ scope < 3 ∨ 6 < scope ∨ fieldOf v 54 7 ≠ 0 ∨ fieldOf v 16 28 ≠ 0 ∨
      16384 < g.vbase + g.vcnt ∨
      ∃ j < 128, j ≠ i ∧ (s.clgrp d j).valid = true ∧ 0 < (s.clgrp d j).vcnt ∧ 0 < g.vcnt ∧
        (s.clgrp d j).vbase < g.vbase + g.vcnt ∧ g.vbase < (s.clgrp d j).vbase + (s.clgrp d j).vcnt
    (v.getLsbD 63 = true → bad → exec (.clgrpWrite d i 0 v) s = .next s) ∧
    (v.getLsbD 63 = true → ¬ bad → ∃ t, exec (.clgrpWrite d i 0 v) s = .next t ∧
      Claims.GroupOnly s t d i { g with w0 := w, members := l } ∧ (t.die d).cells = (s.die d).cells) ∧
    (v.getLsbD 63 = false → g.valid = true → s.claimsOf d g.part g.gid = true → exec (.clgrpWrite d i 0 v) s = .next s) ∧
    (v.getLsbD 63 = false → g.valid = false ∨ s.claimsOf d g.part g.gid = false → ∃ t, exec (.clgrpWrite d i 0 v) s = .next t ∧ ∃ (w0 : Word), Claims.GroupOnly s t d i { g with w0 := w0, members := [] } ∧ w0.getLsbD 63 = false ∧
      w0.getLsbD 61 = false ∧ ∀ n, t.cell d n = if g.valid = true ∧ g.vbase ≤ n ∧ n < g.vbase + g.vcnt then none else s.cell d n) ∧
    (∃ t, exec (.clgrpWrite d i 1 v) s = .next t ∧ Claims.GroupOnly s t d i { g with w1 := setField v 11 1 0 }) ∧
    ∃ t, exec (.clgrpWrite d i 2 v) s = .next t ∧ ∃ w2, Claims.GroupOnly s t d i { g with w2 := w2 } ∧
      w2.toNat = fieldOf v 16 14 * 2 ^ 16 + fieldOf v 0 15

/-- R437. CLSIDX_WRITE latches the words of the slot it names; a Free slot gives zeros. -/
def Claims.evClsidx : Prop :=
  ∀ (s : State) (d : Nat) (v : Word), let n := v.toNat % 4096
    ∃ t, exec (.clsidxWrite d v) s = .next t ∧ s.DieOnly t d ∧
      t.die d = { s.die d with clsidx := BitVec.ofNat 12 n, clsrec := (t.die d).clsrec } ∧
      match s.claim? d n with
      | none => ∀ i, (t.die d).clsrec.getD i 0 = 0
      | some h => (t.die d).clsrec = [h.claim.key, h.claim.value, h.claim.tp, h.claim.teff,
          BitVec.ofNat 64 (h.claim.descriptor (match h.phase with | .pending => 1 | .beaten => 2 | .objected => 3))]

/-- The group entry that a message names: the lowest valid one with its handle. -/
abbrev Claims.groupFor (s : State) (d gi : Nat) (gid : BitVec 16) : Prop :=
  gi < 128 ∧ (s.clgrp d gi).valid = true ∧ (s.clgrp d gi).gid = gid ∧ ∀ j < gi, ¬ ((s.clgrp d j).valid = true ∧ (s.clgrp d j).gid = gid)

/-- The cut-off of a claim in a scope (R426). -/
abbrev Claims.cutOf (c : Claim) (scope : Nat) : Word :=
  c.teff - BitVec.ofNat 64 (if scope = 3 then 500 else if scope = 4 then 2000 else if scope = 5 then 8000 else 32000)

/-- A message of a type is on its way to a die. -/
abbrev Claims.onWay (s : State) (d : Nat) (src : BitVec 18) (m : Line) (type : Nat) : Prop :=
  { src := src, payload := m } ∈ (s.die d).claimIn ∧ claimType m = type
/-- The state once a message has left those on their way to a die. -/
abbrev Claims.arrived (s : State) (d : Nat) (src : BitVec 18) (m : Line) : State :=
  s.modDie d fun y => { y with claimIn := y.claimIn.erase { src := src, payload := m } }

/-- No claim of a die has an effect tick that has passed: one that had would take effect before a message that arrives now (R434). -/
abbrev Claims.nonePast (s : State) (d : Nat) : Prop :=
  ∀ e ∈ (s.die d).claims, ∀ h, e.2 = some h → s.tbase d ≤ h.claim.teff.toNat
/-- No proposal and no objection for a die has come to its delivery bound, neither on the claim plane nor on its way there (R429). -/
abbrev Claims.noneDue (s : State) (d : Nat) : Prop :=
  (∀ e p, ∀ f ∈ (s.port e p).sendq ++ (s.port e p).wire ++ (s.port e p).recv, s.claimOverdue d f = false) ∧
  ∀ m ∈ (s.die d).claimIn, ∀ n, s.arrivesBy d m.payload = some n → s.tbase d < n

/-- R430, R431, R435. CLAIM_PROPOSAL_ARRIVE of a proposal on its way: the claim takes the lowest free slot of the group's partition; of it and each rival that the die
holds the one of higher order is Beaten. With no free slot, and from a die that is no member, the group breaks instead. -/
def Claims.evProposal : Prop :=
  ∀ (s : State) (d gi : Nat) (src : BitVec 18) (m : Line), let c := claimOf m
    let g := s.clgrp d gi
    Claims.onWay s d src m 1 → Claims.nonePast s d → Claims.groupFor s d gi c.grp →
    (src ∉ g.members ∨ s.freeSlot d g.part = none →
      ∃ t, exec (.claimProposalArrive d src m) s = .next t ∧ (t.clgrp d gi).broken = true ∧ (t.die d).claims = (s.die d).claims) ∧
    ∀ n, src ∈ g.members → s.freeSlot d g.part = some n → SMap.wf none (s.die d).claims = true →
      let mine (o : ClaimSlot) : Bool := o.part == g.part && o.claim.grp == c.grp && o.claim.key == c.key &&
        decide (c.tp.toNat < o.cut.toNat) && decide (o.claim.tp.toNat < (Claims.cutOf c g.scope).toNat)
      ∃ t, exec (.claimProposalArrive d src m) s = .next t ∧ s.DieOnly t d ∧
        t.die d = { s.die d with claims := (t.die d).claims, claimIn := (s.die d).claimIn.erase { src := src, payload := m } } ∧
        ∀ k, if k = n then ∃ h, t.claim? d n = some h ∧ h.claim = c ∧ h.part = g.part ∧ h.cut = Claims.cutOf c g.scope ∧
            ((h.phase = .beaten ∧ ∃ j o, s.claim? d j = some o ∧ mine o = true ∧ o.claim.before c = true) ∨
             (h.phase = .pending ∧ ∀ j o, s.claim? d j = some o → mine o = true → o.claim.before c = false))
          else t.claim? d k = (s.claim? d k).map fun o =>
            if mine o && c.before o.claim && o.phase == .pending then { o with phase := .beaten } else o

/-- R430, R433, R435. CLAIM_OBJECTION_ARRIVE: with a stamp below the cut-off the claim is Objected; a later one changes no claim, and the
proposer's die answers it with a late notice for the objector's die. -/
def Claims.evObjection : Prop :=
  ∀ (s : State) (d gi : Nat) (src : BitVec 18) (m : Line), let c := claimOf m
    let g := s.clgrp d gi
    let stamp := m.extractLsb' 320 64
    let cut := (Claims.cutOf c g.scope).toNat
    let ofab := m.extractLsb' 384 18
    Claims.onWay s d src m 2 → Claims.nonePast s d → Claims.groupFor s d gi c.grp →
    (src ∉ g.members → ∃ t, exec (.claimObjectionArrive d src m) s = .next t ∧ (t.clgrp d gi).broken = true) ∧
    (src ∈ g.members → stamp.toNat < cut → ∀ n h, s.claim? d n = some h → h.claim = c → h.part = g.part →
      SMap.wf none (s.die d).claims = true → (∀ k o, s.claim? d k = some o → o.claim = c → k = n) →
      ∃ t, exec (.claimObjectionArrive d src m) s = .next t ∧ s.DieOnly t d ∧
        t.die d = { s.die d with claims := (t.die d).claims, claimIn := (s.die d).claimIn.erase { src := src, payload := m } } ∧
        ∀ k, t.claim? d k = if k = n then some { h with phase := .objected } else s.claim? d k) ∧
    (src ∈ g.members → cut ≤ stamp.toNat → c.pfab ≠ s.selfFab d → exec (.claimObjectionArrive d src m) s = .next (Claims.arrived s d src m)) ∧
    (src ∈ g.members → cut ≤ stamp.toNat → c.pfab = s.selfFab d → ∃ l : Line, claimType l = 3 ∧ claimOf l = c ∧
      l.extractLsb' 320 192 = m.extractLsb' 320 192 ∧
      if ofab = s.selfFab d then ∃ t, exec (.claimObjectionArrive d src m) s = .next t ∧ s.DieOnly t d ∧
        t.die d = { s.die d with claimIn := (s.die d).claimIn.erase { src := src, payload := m } ++ [{ src := ofab, payload := l }] }
      else ∃ f, exec (.claimObjectionArrive d src m) s = .next ((Claims.arrived s d src m).sendFlit d f) ∧ f.kind = 8 ∧ f.dst = ofab ∧ f.src = s.selfFab d ∧
        f.payload = l)

/-- R430, R432, R434. CLAIM_EFFECT with one claim due: its slot is free; a Pending one gives its key its value in the group's cells, with 0
clearing the cell, and one that is Beaten or Objected has no effect. -/
def Claims.evClaimEffect : Prop :=
  ∀ (s : State) (d n gi : Nat) (h : ClaimSlot), s.claim? d n = some h → SMap.wf none (s.die d).claims = true →
    Claims.noneDue s d → h.claim.teff.toNat ≤ s.tbase d → (∀ k o, k ≠ n → s.claim? d k = some o → s.tbase d < o.claim.teff.toNat) →
    deviceKey h.claim.key = false → s.groupOf d h.part h.claim.grp = some gi →
    let key := h.claim.key
    let value := h.claim.value
    let cells := upFrom (s.clgrp d gi).vbase (s.clgrp d gi).vcnt
    let holder := cells.find? fun k => (s.cell d k).elim false fun e => e.1 == key
    let place := if holder.isSome then holder else if value = 0 then none else cells.find? fun k => (s.cell d k).isNone
    ∃ t, exec (.claimEffect d) s = .next t ∧ s.DieOnly t d ∧
      t.die d = { s.die d with claims := (t.die d).claims, cells := (t.die d).cells } ∧
      (∀ k, t.claim? d k = if k = n then none else s.claim? d k) ∧
      ∀ k, t.cell d k = if h.phase = .pending ∧ place = some k then (if value = 0 then none else some (key, value)) else s.cell d k

/-- R433. LATE_NOTICE_ARRIVE: the first notice for a `y.obj` makes LATEOBJ pending for its context, at its sequencer where the context runs
there, and with the context where it does not; a later one is dropped. (The sender is a member of the group, R435.) -/
def Claims.evLateNotice : Prop :=
  ∀ (s : State) (d : Nat) (src : BitVec 18) (m : Line) (c : Ctx), let stamp := m.extractLsb' 320 64
    let oseq := (m.extractLsb' (384 + 18) 6).toNat
    let x := (m.extractLsb' 448 16).toNat
    let q := d * 40 + oseq
    let mark := (stamp, x * 64 + oseq)
    Claims.onWay s d src m 3 → Claims.nonePast s d → s.strange d { src := src, payload := m } = none →
    (mark ∈ (s.die d).lateSeen → exec (.lateNoticeArrive d src m) s = .next (Claims.arrived s d src m)) ∧
    (mark ∉ (s.die d).lateSeen → s.ctx? x = some c →
      ((s.seq q).ctx = some x → (s.seq q).phase ≠ .retired →
        ∃ t, exec (.lateNoticeArrive d src m) s = .next t ∧ t = { s with dies := t.dies, seqs := t.seqs } ∧ 11 ∈ (t.seq q).async ∧
          (∀ r, r ≠ q → t.seq r = s.seq r) ∧ (t.die d).lateSeen = (s.die d).lateSeen ++ [mark]) ∧
      ∀ i, (s.seq q).ctx ≠ some x → c.gangs.findIdx? (fun g => g.seq == q) = some i → i ∉ c.retired →
        ∃ t, exec (.lateNoticeArrive d src m) s = .next t ∧ ∃ (c' : Ctx), t = { s with dies := t.dies, ctxs := t.ctxs } ∧
          t.ctx? x = some c' ∧ c' = { c with pending := c'.pending } ∧ (i, 11) ∈ c'.pending ∧ (∀ y, y ≠ x → t.ctx? y = s.ctx? y) ∧
          (t.die d).lateSeen = (s.die d).lateSeen ++ [mark])

/-- R435. BREAK_NOTICE_ARRIVE: the group is Broken on the die; a notice from a member sends none on. -/
def Claims.evBreakNotice : Prop :=
  ∀ (s : State) (d gi : Nat) (src : BitVec 18) (m : Line), Claims.onWay s d src m 4 → Claims.nonePast s d →
    Claims.groupFor s d gi (claimOf m).grp →
    ∃ t, exec (.breakNoticeArrive d src m) s = .next t ∧ (t.clgrp d gi).broken = true ∧
      (src ∈ (s.clgrp d gi).members → Claims.GroupOnly (Claims.arrived s d src m) t d gi { s.clgrp d gi with w0 := setField (s.clgrp d gi).w0 61 1 1 })

/-- Claim groups, proposals, objections, effects and notices. -/
def Obligations.ClaimEvents : Prop :=
  Claims.evClgrp ∧ Claims.evClsidx ∧ Claims.evProposal ∧ Claims.evObjection ∧ Claims.evClaimEffect ∧ Claims.evLateNotice ∧
  Claims.evBreakNotice

/-! ### The guest engine (R439 to R450) -/

/-- Nothing changes but the socket of a die. -/
structure Claims.SockOnly (s t : State) (d : Nat) (k : Socket) : Prop where
  rest : s.DieOnly t d
  die : t.die d = { s.die d with sock := k }

/-- R448. The socket is fenced with a breach code: no packet, duty or write is left in it, the number of a packet it held fails with LINKFLT,
and the cores, the sequencers and the contexts are untouched. -/
def Claims.guestFenced (s t : State) (d code : Nat) : Prop :=
  let k := (t.die d).sock
  k.phase = .fenced ∧ k.fcode = code ∧ (∀ n, k.slot n = .reset) ∧ (∀ n, k.queue n = []) ∧ k.suspended = [] ∧ k.resume = [] ∧ k.closing = [] ∧
  k.invs = [] ∧ k.pres = [] ∧ k.writes = [] ∧ (t.dctl d 0xF210).getLsbD 0 = false ∧ t.cores = s.cores ∧ t.seqs = s.seqs ∧ t.ctxs = s.ctxs ∧
  t.flights = s.flights ∧ ∀ p, (s.die d).sock.allPackets = [p] → t.tl d p.tl = (s.tlTouched d p.tl).fail p.num 12

/-- No duty of a die's guest has outlasted its limit (R445). -/
abbrev Claims.onTime (s : State) (d : Nat) : Prop :=
  (∀ v ∈ (s.die d).sock.invs, s.ticks ≤ v.since + 2000) ∧ ∀ v ∈ (s.die d).sock.pres, s.ticks ≤ v.since + 100000

/-- R446, R449. GUEST_TRAIN in Down and GUEST_RESET in Fenced move the socket; in another state they are refused with ERR. -/
def Claims.evGuestTrain : Prop :=
  ∀ (s : State) (d : Nat), let k := (s.die d).sock
    (∃ t, exec (.guestTrain d) s = .next t ∧ Claims.SockOnly s t d
      (if k.phase = .down then { k with phase := .training, cmd := 1, since := s.ticks } else { k with err := true })) ∧
    ∃ t, exec (.guestReset d) s = .next t ∧ Claims.SockOnly s t d
      (if k.phase = .fenced then { k with phase := .down, cmd := 0 } else { k with err := true })

/-- R446. A socket that trains within 1 ms is Up with PSEQ 0 and every slot Free; one that fails is Down with ERR. -/
def Claims.evGuestTrained : Prop :=
  ∀ (s : State) (d : Nat), let k := (s.die d).sock
    k.phase = .training →
    (s.ticks - k.since ≤ 1000000 → ∃ t, exec (.guestTrainComplete d) s = .next t ∧
      Claims.SockOnly s t d { k with phase := .up, cmd := 0, pseq := 0, slots := [] }) ∧
    ∃ t, exec (.guestTrainFail d) s = .next t ∧ Claims.SockOnly s t d { k with phase := .down, cmd := 0, err := true }

/-- The slots of a socket after one has changed. -/
abbrev Claims.slotSet (k k' : Socket) (n : Nat) (g : GuestSlot) : Prop := ∀ j, k'.slot j = if j = n then g else k.slot j

/-- R442, R444. PKT: the lowest Free slot takes a packet whose resumption was asked for, with RESUME to the guest, and otherwise the head of the
first queue after the one served last, under the next PSEQ, with its header in bytes 0 to 15 of the packet. -/
def Claims.evPkt : Prop :=
  ∀ (s : State) (d n : Nat) (p : Packet) (rest : List Packet), let k := (s.die d).sock
    k.phase = .up → Claims.onTime s d → n < 15 → (k.slot n).phase = .free → (∀ j < n, (k.slot j).phase ≠ .free) →
    (k.resume = p :: rest →
      ∃ t, exec (.pkt d) s = .next t ∧ ∃ (bs : List Byte), t = { s with dies := t.dies, outside := s.outside ++ [.guest d bs] } ∧
        bs.length = 64 ∧ bs.headD 0 = 4 ∧ (bs.drop 8).take 3 = bytesOfWord 2 p.ctx ++ bytesOfWord 1 n ∧
        (bs.drop 24).take 8 = bytesOfWord 8 p.pseq ∧ (∀ e, e ≠ d → t.die e = s.die e) ∧
        let k' := (t.die d).sock
        Claims.slotSet k k' n { phase := .delivered, pkt := some p } ∧ k' = { k with resume := rest, slots := k'.slots }) ∧
    ∀ q body, k.resume = [] → q < 16 → k.queue q = p :: rest →
      (∀ j < 16, k.queue j ≠ [] → (q + 16 - (k.last + 1) % 16) % 16 ≤ (j + 16 - (k.last + 1) % 16) % 16) →
      p.from_ = none → p.body = body → body.length = 64 →
      ∃ t, exec (.pkt d) s = .next t ∧ ∃ (bs : List Byte), t = { s with dies := t.dies, outside := s.outside ++ [.guest d bs] } ∧
        bs = bytesOfWord 8 1 ++ bytesOfWord 8 (p.gen.toNat + p.asid * 2 ^ 10 + p.ctx * 2 ^ 19 + p.gq * 2 ^ 35 + n * 2 ^ 39) ++
          bytesOfWord 8 (k.pseq + 1) ++ (body.drop 16).take 40 ∧ (∀ e, e ≠ d → t.die e = s.die e) ∧
        let k' := (t.die d).sock
        Claims.slotSet k k' n { phase := .delivered, pkt := some { p with pseq := k.pseq + 1 } } ∧
        (∀ j, k'.queue j = if j = q then rest else k.queue j) ∧
        k' = { k with pseq := k.pseq + 1, last := q, slots := k'.slots, pq := k'.pq }

/-- A packet is Delivered in a slot. -/
abbrev Claims.inSlot (k : Socket) (n : Nat) (p : Packet) : Prop := k.slot n = { phase := .delivered, pkt := some p }

/-- R439 to R441. GUEST_REQUEST of a Delivered slot: a read is answered with the line under the slot's GEN, a write is on its way under that
GEN, and one that fails translation is answered without data; a slot that is not Delivered is a breach. -/
def Claims.evGuestRequest : Prop :=
  ∀ (s : State) (d slot code : Nat) (va : Nat) (data : Line), let k := (s.die d).sock
    let addr : BitVec 52 := BitVec.ofNat 52 (slot * 2 ^ 48 + va)
    let line := va / 64 * 64
    slot < 15 → va < 2 ^ 48 → k.phase = .up → Claims.onTime s d → s.errors = [] →
    (code < 7 → (k.slot slot).phase ≠ .delivered → ∃ t, exec (.guestRequest d code addr data) s = .next t ∧ Claims.guestFenced s t d 0x43) ∧
    ∀ p, Claims.inSlot k slot p →
      (∀ loc tagged, code < 3 → s.guestPlace d p line .read = .ok (.mem loc tagged) → s.meetsPend loc 64 = false →
        (s.readsPoison { gen := p.gen, tagged := tagged, part := none } loc 64) = false →
        ∃ t, exec (.guestRequest d code addr data) s = .next t ∧
          t = { s with dies := t.dies,
                       outside := s.outside ++ [.guest d (s.readBytes { gen := p.gen, tagged := tagged, part := none } loc 64)] } ∧
          (∀ e, e ≠ d → t.die e = s.die e) ∧
          t.die d = { s.die d with sock := { k with held := if code = 0 then k.held else k.held ++ [(loc, p.asid, line)] } }) ∧
      (∀ loc tagged, 3 ≤ code → code < 6 → s.guestPlace d p line .write = .ok (.mem loc tagged) →
        ∃ t, exec (.guestRequest d code addr data) s = .next t ∧ s.DieOnly t d ∧
          t.die d = { s.die d with sock := { k with
            nextId := k.nextId + 1, held := k.held.filter fun h => h.1 != loc,
            writes := k.writes ++ [{ id := k.nextId, slot := slot, gen := p.gen, tagged := tagged, loc := loc,
                                     bytes := bytesOfWord 64 data.toNat, asid := p.asid, page := va / 2 ^ 16 }] } }) ∧
      ∀ cause, code < 6 → s.guestPlace d p line (if code < 3 then .read else .write) = .fault cause →
        ∃ t, exec (.guestRequest d code addr data) s = .next t ∧ t.outside = s.outside ++ [.guest d []] ∧ (t.die d).sock.phase = .up ∧
          (t.die d).sock.writes = k.writes ∧ t.cores = s.cores

/-- R373, R441. A guest write performs: its bytes are in memory under the slot's GEN. -/
def Claims.evGuestWrite : Prop :=
  ∀ (s : State) (d n : Nat) (w : GuestWrite), let k := (s.die d).sock
    Claims.onTime s d → k.writes = [w] → w.id = n → k.closing = [] → s.meetsPend w.loc 64 = false → w.bytes.length = 64 → w.loc % 64 = 0 → w.loc < 2 ^ 52 →
    (s.unit w.loc).poison = false → s.errors = [] → ∃ t, exec (.nearStorePerform (some d) n 0 false) s = .next t ∧
      t = { s with mem := t.mem, metas := t.metas, full := t.full, l2 := t.l2, dies := t.dies } ∧ Claims.stored s t w.gen w.tagged w.loc w.bytes ∧
      (t.die d).sock = { k with writes := [] }

/-- The packet of a number is in one slot alone. -/
abbrev Claims.named (k : Socket) (n : Nat) (p : Packet) : Prop :=
  n < 15 ∧ Claims.inSlot k n p ∧ ∀ j < 15, ∀ o, j ≠ n → Claims.inSlot k j o → o.pseq ≠ p.pseq

/-- R443. CPL: the slot is Free, and the packet's number completes, or waits for the slot's writes; a PSEQ that names no Delivered slot is a
breach. -/
def Claims.evCpl : Prop :=
  ∀ (s : State) (d n : Nat) (p : Packet), let k := (s.die d).sock
    let msg := bytesOfWord 8 0x10 ++ bytesOfWord 8 p.pseq ++ List.replicate 48 0
    k.phase = .up → Claims.onTime s d → p.pseq < 2 ^ 64 →
    (Claims.named k n p → ∃ t, exec (.cpl d msg) s = .next t ∧ s.DieOnly t d ∧
      t.die d = { s.die d with sock := (t.die d).sock, tls := (t.die d).tls } ∧ Claims.slotSet k (t.die d).sock n .reset ∧
      let left := (k.writes.filter fun w => w.slot == n).map GuestWrite.id
      (t.die d).sock.closing = (if left = [] then k.closing else k.closing ++ [(p, left)]) ∧
      ∀ i, t.tl d i = if left = [] ∧ i = p.tl then (s.tlTouched d i).finish p.num 1 else s.tl d i) ∧
    ((∀ j < 15, ∀ o, Claims.inSlot k j o → o.pseq ≠ p.pseq) →
      ∃ t, exec (.cpl d msg) s = .next t ∧ Claims.guestFenced s t d 0x43)

/-- R443, R449, R450. FLT: the slot is Free, the number fails with the cause of the code, and a fault record is written where the ring has
room. -/
def Claims.evFlt : Prop :=
  ∀ (s : State) (d n code va : Nat) (p : Packet), let k := (s.die d).sock
    let msg := bytesOfWord 8 0x11 ++ bytesOfWord 8 p.pseq ++ bytesOfWord 8 va ++ bytesOfWord 1 code ++ List.replicate 39 0
    let ring := s.dctl d 0xF218
    let size := 2 ^ (fieldOf ring 0 4 + 4)
    let tail : BitVec 32 := (s.dctl d 0xF228).setWidth 32
    let head : BitVec 32 := (s.dctl d 0xF220).setWidth 32
    k.phase = .up → Claims.onTime s d → p.pseq < 2 ^ 64 → va < 2 ^ 64 → Claims.named k n p → 1 ≤ code → code ≤ 4 →
    ∃ t, exec (.flt d msg) s = .next t ∧ (∀ i, t.tl d i =
        if i = p.tl then (s.tlTouched d i).fail p.num ((#[4, 5, 6, 12] : Array Nat).getD (code - 1) 0) else s.tl d i) ∧
      Claims.slotSet k (t.die d).sock n .reset ∧ t.cores = s.cores ∧
      if size ≤ (tail - head).toNat then (t.die d).sock.fovf = true ∧ t.mem = s.mem
      else t.dctl d 0xF228 = (tail + 1).setWidth 64 ∧ t.raw (locDram d (ring.toNat / 4096 * 4096 + tail.toNat % size * 32)) 32 =
        bytesOfWord 8 p.pseq ++ bytesOfWord 8 va ++ bytesOfWord 2 p.ctx ++ [BitVec.ofNat 8 code, 0, 0, 0, 0, 0] ++ bytesOfWord 8 (s.tbase d)

/-- R400, R445. INVACK of an outstanding INV: the duty is over, the guest holds no line of the range, and no invalidation waits for it; any other
is a breach. -/
def Claims.evInvack : Prop :=
  ∀ (s : State) (d id : Nat), let k := (s.die d).sock
    let msg := bytesOfWord 8 0x12 ++ bytesOfWord 8 id ++ List.replicate 48 0
    k.phase = .up → Claims.onTime s d → id < 2 ^ 64 →
    (∀ v, k.invs = [v] → v.id = id → ∃ t, exec (.invack d msg) s = .next t ∧ t = { s with dies := t.dies } ∧
      (t.die d).sock.invs = [] ∧ (∀ h, h ∈ (t.die d).sock.held ↔ h ∈ k.held ∧ ¬ (h.2.1 = v.asid ∧
        (v.bytes = 0 ∨ (v.lo.toNat ≤ h.2.2 ∧ h.2.2 < v.lo.toNat + v.bytes.toNat)))) ∧
      ∀ e ∈ allDies, ∀ i ∈ (t.die e).inval, (d, id) ∉ i.guests) ∧
    ((∀ v ∈ k.invs, v.id ≠ id) → ∃ t, exec (.invack d msg) s = .next t ∧ Claims.guestFenced s t d 0x44)

/-- R445, R447. CKPT of the one slot that a PRE waits for: the slot is Free, REQ of GPRE is clear where it asked, the packet is suspended, or after an abandon
the packet's number fails with PERM; a slot that the PRE does not wait for is a breach. -/
def Claims.evCkpt : Prop :=
  ∀ (s : State) (d n id : Nat) (v : PreDuty) (p : Packet), let k := (s.die d).sock
    let msg (m : Nat) := bytesOfWord 8 0x13 ++ bytesOfWord 8 id ++ bytesOfWord 2 (2 ^ m) ++ List.replicate 46 0
    k.phase = .up → Claims.onTime s d → id < 2 ^ 64 → k.pres = [v] → v.id = id → v.slots = [n] → n < 15 → (k.slot n).pkt = some p →
    (∃ t, exec (.ckpt d (msg n)) s = .next t ∧ s.DieOnly t d ∧
      t.die d = { s.die d with sock := (t.die d).sock, tls := (t.die d).tls, dctl := (t.die d).dctl } ∧
      Claims.slotSet k (t.die d).sock n .reset ∧ (t.die d).sock.pres = [] ∧
      (t.die d).sock.suspended = (if v.abandon then k.suspended else k.suspended ++ [p]) ∧
      (∀ i, t.tl d i = if v.abandon = true ∧ i = p.tl then (s.tlTouched d i).fail p.num 5 else s.tl d i) ∧
      ∀ o, t.dctl d o = if v.asked = true ∧ o = 0xF210 then setField (s.dctl d o) 0 1 0 else s.dctl d o) ∧
    ∀ m < 16, m ≠ n → ∃ t, exec (.ckpt d (msg m)) s = .next t ∧ Claims.guestFenced s t d 0x44

/-- R445, R449. GUEST_PREEMPT of an Up socket: PRE leaves for the context's checkpoint area, the slots of its packets are Checkpointing, and GPRE
names it with REQ set. GUEST_RESUME asks for its suspended packets again. -/
def Claims.evGuestPreempt : Prop :=
  ∀ (s : State) (d x : Nat) (c : Ctx), let k := (s.die d).sock
    x < 2 ^ 16 → s.ctx? x = some c →
    (k.phase = .up → ∃ t, exec (.guestPreempt d x) s = .next t ∧ ∃ (bs : List Byte) (v : PreDuty), t = { s with dies := t.dies, outside := s.outside ++ [.guest d bs] } ∧ (∀ e, e ≠ d → t.die e = s.die e) ∧
      bs.headD 0 = 3 ∧ (bs.drop 8).take 2 = bytesOfWord 2 x ∧ (bs.drop 16).take 16 =
        bytesOfWord 8 (fieldOf (c.ctl 0x360) 16 48 * 2 ^ 16) ++ bytesOfWord 8 (fieldOf (c.ctl 0x360) 0 16 * 2 ^ 16) ∧
      (bs.drop 32).take 8 = bytesOfWord 8 v.id ∧ (t.die d).sock.pres = k.pres ++ [v] ∧ v.ctx = x ∧ v.asked = true ∧ v.since = s.ticks ∧
      t.dctl d 0xF210 = BitVec.ofNat 64 (x * 2 ^ 48 + 1) ∧
      ∀ n, let mine := n < 15 ∧ (k.slot n).phase = .delivered ∧ ∃ p, (k.slot n).pkt = some p ∧ p.ctx = x
        (n ∈ v.slots ↔ mine) ∧ (mine → (t.die d).sock.slot n = { k.slot n with phase := .checkpointing }) ∧
        (¬ mine → (t.die d).sock.slot n = k.slot n)) ∧
    ∃ t, exec (.guestResume d x) s = .next t ∧ s.DieOnly t d ∧
      (t.die d).sock = { k with resume := k.resume ++ k.suspended.filter (fun p => p.ctx == x),
                                suspended := k.suspended.filter fun p => p.ctx != x } ∧ fieldOf (t.dctl d 0xF210) 48 16 = x

/-- R445, R446, R450. GUEST_DUTY_TIMEOUT: an INV unanswered for more than 2000 ticks is a breach with code 0x40, a PRE for more than 100,000 with
0x41, and an answer that comes later finds the socket fenced; the loss of the link fences the socket with 0x45. -/
def Claims.evGuestBreach : Prop :=
  ∀ (s : State) (d : Nat), let k := (s.die d).sock
    k.phase = .up →
    ((∃ v ∈ k.invs, v.since + 2000 < s.ticks) → (∃ t, exec (.guestDutyTimeout d) s = .next t ∧ Claims.guestFenced s t d 0x40) ∧
      ∀ bs, ∃ t, exec (.invack d bs) s = .next t ∧ Claims.guestFenced s t d 0x40) ∧
    ((∀ v ∈ k.invs, s.ticks ≤ v.since + 2000) → (∃ v ∈ k.pres, v.since + 100000 < s.ticks) →
      ∃ t, exec (.guestDutyTimeout d) s = .next t ∧ Claims.guestFenced s t d 0x41) ∧
    ∃ t, exec (.guestLinkLoss d) s = .next t ∧ Claims.guestFenced s t d 0x45

/-- R373, R439. GUEST_SNOOP_RESPONSE: the snoop has its answer, and the guest no longer holds the line. -/
def Claims.evSnoopResponse : Prop :=
  ∀ (s : State) (d loc : Nat), let k := (s.die d).sock
    ∃ t, exec (.guestSnoopResponse d loc) s = .next t ∧ Claims.SockOnly s t d
      { k with snoops := k.snoops.filter (· ≠ loc), held := k.held.filter fun h => h.1 ≠ loc }

/-- The socket: training, packets, requests, messages, duties and breaches. -/
def Obligations.GuestEvents : Prop :=
  Claims.evGuestTrain ∧ Claims.evGuestTrained ∧ Claims.evPkt ∧ Claims.evGuestRequest ∧ Claims.evGuestWrite ∧ Claims.evCpl ∧ Claims.evFlt ∧
  Claims.evInvack ∧ Claims.evCkpt ∧ Claims.evGuestPreempt ∧ Claims.evGuestBreach ∧ Claims.evSnoopResponse

/-! ### Resets, boot, recovery and the life cycle (R353, R414, R464 to R468) -/

/-- R464, R465. PACKAGE_RESET: everything is as after reset but the fuses, the firmware flash, host memory and the record of retired cores; the
time base starts at 0, and every die has its boot to come. -/
def Claims.packageReset (s t : State) (f : Fuses) : Prop :=
  t = { State.reset with
    time := s.time, agenda := s.agenda, focus := s.focus, free := t.free, outside := s.outside, nextId := s.nextId, mem := t.mem, dies := t.dies,
    fuses := f, spareRec := s.spareRec } ∧
  (∀ a, t.rawByte a = if 2 ^ 64 ≤ a ∧ a < 2 ^ 67 then s.rawByte a else 0) ∧
  ∀ d < 8, t.present d = false ∧ t.tbase d = 0 ∧ t.die d = { Die.reset with
    phase := .boot, tbAdj := (t.die d).tbAdj, slewAt := (t.die d).slewAt, freeAt := (t.die d).freeAt, drift := (s.die d).drift } ∧ ∀ o, t.dctl d o = dctlReset o

/-- R464. PACKAGE_RESET. -/
def Claims.evPackageReset : Prop := ∀ (s : State), ∃ t, exec .packageReset s = .next t ∧ Claims.packageReset s t s.fuses

/-- R31, R414, R464. DIE_RESET: the cores, the sequencers and the memories of the die are wiped, and its ports have lost their keys; its time base
goes on where a port is Up, and starts at 0 where none is; it is not present until it has booted, and a fenced die stays fenced. Its registers,
SPARE among them, are at their reset values, and so are those of a control page that lies in its DRAM. The other cores, and memory elsewhere
in the package, stay. -/
def Claims.evDieReset : Prop :=
  ∀ (s : State) (d : Nat), d < 8 → SMap.wf Core.reset s.cores = true → s.maints = [] →
    ∃ t, exec (.dieReset d) s = .next t ∧ t.present d = false ∧
      (∀ c, t.core c = if dieOfCore c = d then .reset else s.core c) ∧
      (∀ q, dieOfSeq q = d → (t.seq q).ctx = none ∧ (t.seq q).phase = .idle ∧ (t.seq q).gang = []) ∧
      (∀ a, onDie d a = true → t.rawByte a = 0 ∧ SMap.get false t.full a = false) ∧
      (∀ a, onDie d a = false → a < 2 ^ 64 → t.rawByte a = s.rawByte a) ∧
      (∀ p, t.port d p = .reset) ∧
      (∀ p < 2, (t.port (ringPeer d p).1 (ringPeer d p).2).phase = .down ∧ (t.port (ringPeer d p).1 (ringPeer d p).2).cur = none) ∧
      (∀ o, t.dctl d o = dctlReset o) ∧ t.spareRec = s.spareRec ∧
      (t.die d).phase = (match (s.die d).phase with
        | .fenced lasting => .fenced lasting
        | _ => .boot) ∧
      (∀ x c, s.ctx? x = some c → dramDie c.pageLoc = d → ∀ c', t.ctx? x = some c' → c'.cctl = []) ∧
      t.tbase d = (if (List.range 6).any fun p => s.portPresent d p && (s.port d p).phase == .up then s.tbase d else 0) ∧
      t.fuses = s.fuses ∧ t.time = s.time

/-- R353, R465, R466. DIE_BOOT: every recorded core retirement of the die is applied again; with no step failed and an accepted image in the flash slot the die is present, runs its security version and trains its package-ring ports; otherwise
the boot ends in Recovery. -/
def Claims.evDieBoot : Prop :=
  ∀ (s : State) (d : Nat) (ok : Bool), d < 8 → (s.die d).phase = .boot →
    ∃ t, exec (.dieBoot d ok) s = .next t ∧ t.cores = s.cores ∧ t.ctxs = s.ctxs ∧ t.mem = s.mem ∧
      (∀ k < 10, let off := 0x5000 + 0x100 * k + 0x80
        let kept := SMap.get 0 s.spareRec (d * 10 + k)
        t.dctl d off = if kept = 0 then s.dctl d off else kept) ∧
      (∀ o, (∀ k < 10, o ≠ 0x5000 + 0x100 * k + 0x80) → t.dctl d o = s.dctl d o) ∧
      if ok && s.firmwareOk s.flash then t.present d = true ∧ (t.die d).svn = s.flash.svn ∧ s.fuses.fwctr ≤ t.fuses.fwctr ∧
        ∀ p < 2, s.port d p = .reset → (t.port d p).phase = .training
      else s.DieOnly t d ∧ t.die d = { s.die d with phase := .recovery, dctl := (t.die d).dctl }

/-- R467. RECOVERY_PIECE: the 64 KiB of the window go to their place in the staging area of a die in Recovery. -/
def Claims.evRecoveryPiece : Prop :=
  ∀ (s : State) (d : Nat) (v : Word), let i := fieldOf v 0 16
    d < 8 → (s.die d).phase = .recovery → v.getLsbD 63 = false → i < 16384 →
    ∃ t, exec (.recoveryPiece d v) s = .next t ∧ t = { s with mem := t.mem, dies := t.dies } ∧
      (∀ a, t.rawByte a = if locArea d (65536 * i) ≤ a ∧ a < locArea d (65536 * i) + 65536
        then s.rawByte (locStage d (a - locArea d (65536 * i))) else s.rawByte a) ∧
      ∀ o, t.dctl d o = if o = 0x40 then setField (s.dctl d o) 0 16 i else s.dctl d o

/-- R467. RECOVERY_END: an image that is not accepted leaves the die in Recovery with BAD set, and the flash slot as it was; an accepted one is in
the flash slot, and the die runs it. A die that is not in Recovery ignores both writes. -/
def Claims.evRecoveryEnd : Prop :=
  (∀ (s : State) (d : Nat) (v : Word), let n := fieldOf v 0 16
    let image : ImgRead := fun a => if a < 65536 * n then s.rawByte (locArea d a) else 0
    let ok : Bool := decide (1 ≤ n ∧ n ≤ 16384 ∧ image.imglen ≤ 65536 * n) && s.firmwareOk image
    (s.die d).phase = .recovery → v.getLsbD 63 = true →
    ∃ t, exec (.recoveryEnd d v) s = .next t ∧ t.cores = s.cores ∧ t.ctxs = s.ctxs ∧
      (t.dctl d 0x40).getLsbD 17 = !ok ∧ fieldOf (t.dctl d 0x40) 0 16 = n ∧
      if ok then t.present d = true ∧ (t.die d).svn = image.svn ∧ ∀ j < image.imglen, t.rawByte (locFlash j) = image j
      else t.mem = s.mem ∧ s.DieOnly t d ∧ (t.die d).phase = .recovery) ∧
  ∀ (s : State) (d : Nat) (v : Word), (s.die d).phase ≠ .recovery →
    exec (.recoveryPiece d v) s = .next s ∧ exec (.recoveryEnd d v) s = .next s

/-- The event of a life-cycle command. -/
abbrev Claims.lcEvent (cmd : Nat) : Instr := if cmd = 1 then .provision else if cmd = 2 then .deploy else .lcReturn

/-- R468. PROVISION, DEPLOY and RETURN, as the command block holds them: a block that is malformed, asks for a state that does not follow, or
names another package is refused by its code, and only RESULT changes; an accepted command sets the life-cycle fuses and resets the package. -/
def Claims.evLifeCycle : Prop :=
  ∀ (s : State) (cmd : Nat), 1 ≤ cmd → cmd ≤ 3 → s.lcNum 0 2 = cmd →
    ∃ t, exec (Claims.lcEvent cmd) s = .next t ∧
      (s.lcFormed = false → t = { s with lcResult := 5 }) ∧
      (s.lcFormed = true → s.fuses.lcs + 1 ≠ cmd → t = { s with lcResult := 4 }) ∧
      (s.lcFormed = true → s.fuses.lcs + 1 = cmd →
        if BitVec.ofNat 64 (s.lcNum 8 8) ≠ Config.pkguid then t = { s with lcResult := 3 }
        else if s.lcSigned then Claims.packageReset s t t.fuses ∧ t.fuses.lcs = cmd ∧ t.fuses.fwctr = s.fuses.fwctr
        else t = { s with lcResult := 2 })

/-- Resets, boot, recovery and life-cycle commands. -/
def Obligations.ResetEvents : Prop :=
  Claims.evPackageReset ∧ Claims.evDieReset ∧ Claims.evDieBoot ∧ Claims.evRecoveryPiece ∧ Claims.evRecoveryEnd ∧ Claims.evLifeCycle

/-! ### Fences, throttling and the scan port (R348, R469 to R471, R474) -/

/-- R343, R348, R469. CORE_PARITY_ERROR: the gang that runs on the core is fenced: its sequencer runs nothing, its cores are left, and GRPFLT is
pending at every other gang of the group. Nothing that its cores still have in flight writes a register. -/
def Claims.evCoreParity : Prop :=
  ∀ (s : State) (q x k : Nat) (c : Ctx), q < 320 → (s.seq q).ctx = some x → k ∈ s.allCores q →
    (∀ r < q, ¬ ((s.seq r).ctx ≠ none ∧ k ∈ s.allCores r)) → (s.seq q).parent = none → s.ctx? x = some c → c.group = .running →
    (∀ r < 320, (s.seq r).parent = none) → s.boundGang q = s.gang q →
    ∃ t, exec (.coreParityError k) s = .next t ∧ ∃ (c' : Ctx), (t.seq q).ctx = none ∧ (t.seq q).phase = .idle ∧ (t.seq q).fenced = true ∧
      (∀ b ∈ s.gang q, (t.core b).pp = .reset ∧ (t.core b).rcvq = [] ∧ (t.core b).me.shp = []) ∧
      (∀ f ∈ t.flights, f.core ∈ s.gang q → f.op.reads = false ∧ f.dest = none) ∧
      t.ctx? x = some c' ∧ c'.group = .faulted ∧ (s.seq q).gidx ∈ c'.retired ∧ (∀ y, y ≠ x → t.ctx? y = s.ctx? y) ∧
      ∀ r ∈ s.streams x, r ≠ q → 13 ∈ (t.seq r).async

/-- R36, R249, R469, R471. WHORL_WATCHDOG and THERMAL_FENCE: the die is no longer present, every partition with a context on it is Fenced, and its
socket is fenced. -/
def Claims.evDieFence : Prop :=
  ∀ (s : State) (d : Nat) (e : Instr), d < 8 → (s.die d).phase = .run → e = .whorlWatchdog d ∨ e = .thermalFence d →
    ∃ t, exec e s = .next t ∧ t.present d = false ∧ (t.die d).phase = .fenced false ∧
      (∀ x c, s.ctx? x = some c → (∃ g ∈ c.gangs, dieOfSeq g.seq = d) ∨ dramDie c.pageLoc = d → s.partState (partOf x) = 1 ∨ s.partState (partOf x) = 2 →
        t.partState (partOf x) = 3) ∧
      ((s.die d).sock.phase = .up → (t.die d).sock.phase = .fenced ∧ (t.die d).sock.writes = []) ∧
      (∀ p < 6, (s.port d p).phase = .up ∨ (s.port d p).phase = .held → (t.port d p).phase = .contained ∧ (t.port d p).cur = none) ∧
      ∀ f, f ≠ d → (t.die f).phase = (s.die f).phase

/-- R354, R469. FENCE_SELFTEST_END: a lasting error keeps a die fenced, and a transient one resets it; a gang's sequencer is free again, and a
core with a lasting error is replaced by the spare core of its creel, or without one leaves its binding. -/
def Claims.evFenceSelftest : Prop :=
  (∀ (s : State) (d creel p : Nat), (s.die d).phase = .fenced false → d < 8 →
    (∃ t, exec (.fenceSelftestEnd true d true creel p) s = .next t ∧ s.DieOnly t d ∧ t.die d = { s.die d with phase := .fenced true }) ∧
    exec (.fenceSelftestEnd true d false creel p) s = exec (.dieReset d) (s.modDie d fun y => { y with phase := .boot })) ∧
  ∀ (s : State) (q p : Nat), let creel := q / 4
    let d := creel / 10
    let off := 0x5000 + 0x100 * (creel % 10) + 0x80
    let w := s.dctl d off
    (s.seq q).fenced = true → q < 320 →
    (∃ t, exec (.fenceSelftestEnd false q false creel p) s = .next t ∧ (t.seq q).fenced = false ∧ (∀ r, r ≠ q → t.seq r = s.seq r) ∧
      t.dies = s.dies ∧ t.mem = s.mem) ∧
    (p < 16 → fieldOf w 24 5 = 0x1F → ∃ t, exec (.fenceSelftestEnd false q true creel p) s = .next t ∧ (t.seq q).fenced = false ∧
      (t.dctl d off).getLsbD p = true ∧ fieldOf (t.dctl d off) 24 5 = p ∧ (t.core (creel * 16 + p)).sc = .reset ∧
      ∀ a, locSpad (creel * 16 + p) 0 ≤ a → a < locSpad (creel * 16 + p + 1) 0 → t.rawByte a = 0) ∧
    (p < 16 → fieldOf w 24 5 ≠ 0x1F → ∃ t, exec (.fenceSelftestEnd false q true creel p) s = .next t ∧ (t.seq q).fenced = false ∧
      (t.dctl d off).getLsbD p = true ∧ (t.cbind (creel * 16 + p)).getLsbD 7 = false)

/-- R471. THROTTLE_ENTER at 105 °C or more: the die is throttled, and TMAX tells the temperature. THROTTLE_EXIT below 95 °C once that has lasted 1
ms: it is not. -/
def Claims.evThrottle : Prop :=
  ∀ (s : State) (d : Nat) (v : BitVec 8),
    (105 ≤ v.toNat → ∃ t, exec (.throttleEnter d v) s = .next t ∧ (t.die d).throttled = true ∧ (t.die d).coolSince = some s.ticks ∧
      t.cores = s.cores ∧ t.seqs = s.seqs ∧ (∀ e, e ≠ d → t.die e = s.die e) ∧
      ∀ o, t.dctl d o = if o = 0x30 then setField (s.dctl d o) 8 8 v.toNat else s.dctl d o) ∧
    ∀ k, v.toNat < 95 → (s.die d).throttled = true → (s.die d).coolSince = some k → k + 1000000 ≤ s.ticks →
      ∃ t, exec (.throttleExit d v) s = .next t ∧ (t.die d).throttled = false ∧ t.cores = s.cores ∧ t.seqs = s.seqs ∧
        (∀ e, e ≠ d → t.die e = s.die e) ∧ ∀ o, t.dctl d o = if o = 0x30 then setField (s.dctl d o) 8 8 v.toNat else s.dctl d o

/-- R474. BOUNDARY_SCAN_INSTRUCTION: the port runs it, and in Deployed all but BYPASS and IDCODE act as BYPASS; nothing of the machine changes. -/
def Claims.evBoundaryScan : Prop :=
  ∀ (s : State) (code : Nat), code ≤ 3 → ∃ t, exec (.boundaryScanInstruction code) s = .next t ∧
    t = { s with outside := s.outside ++ [.scan (if s.fuses.lcs = 2 ∧ 2 ≤ code then 0 else code)] }

/-- Fences and their self-tests, throttling, and the scan port. -/
def Obligations.FenceEvents : Prop :=
  Claims.evCoreParity ∧ Claims.evDieFence ∧ Claims.evFenceSelftest ∧ Claims.evThrottle ∧ Claims.evBoundaryScan

/-! ## Fetching, decoding, reset and invariants -/

/-- A sequencer of a present die stands at issue in a cycle, with a bundle fetched, no granule about to fail, and nothing to take first unless its
line has released the bundle: `u` is the state at issue, after what moves by itself in the cycle. -/
structure Claims.AtIssue (s u : State) (q w : Nat) : Prop where
  seq : q < 320
  present : s.present (dieOfSeq q) = true
  now : u = s.beginCycle q
  focus : u.focus = q
  phase : (u.seq q).phase = .run
  gang : u.gang q ≠ []
  run : u.runOut q = false
  quiet : (u.seq q).released = true ∨ (u.asyncDue q = none ∧ u.haltDue q = false ∧ u.lineLate q = false)
  errors : u.errors = []
  fetch : u.fetchBundle q = .ok w

/-- The end of a cycle in which a bundle stood at issue in the state `u`: the TLB holds the leaves that its accesses use (R398), the model's own
counter goes on, waits are held against WAITLIM (R360), and results that wait for a write path of the cores use what the cycle has left (R56). -/
def Claims.afterIssue (q : Nat) (u v : State) : State :=
  let r := ({ v.dataFill u.nextId q with free := v.free + 1 } : State).timeCheck q
  r.writeReady (r.allCores q)

/-- R38, R57, R66, R113. A cycle of the sequencer at issue runs the instruction that the bundle at its PC decodes to: with nothing scheduled `step`
is `exec` of it, once the bundle has been fetched, and so is ISSUE_BUNDLE; then the TLB takes the leaves that its accesses use (R398, log entry 9),
and waits that are too long end (R360). SC operations whose tick has come go first (R380). A fetch with no older copy on chip gives the 64 bytes at the place of
the PC. -/
def Obligations.StepRunsDecoded : Prop :=
  (∀ (s u : State) (q w : Nat) (i : Instr), s.agenda = [] → s.focus = q →
    Claims.AtIssue ({ s with time := s.time + s.cycleUnits (dieOfSeq q) } : State).scAll u q w → i.slot?.isSome = true →
    decodeBundle w = .ok { hdr := plainHeader [i], ops := [i] } →
    ∃ v, exec i (u.fetchFill q) = .next v ∧ step s = .next (Claims.afterIssue q u v)) ∧
  (∀ (s u : State) (q w : Nat) (i : Instr), Claims.AtIssue { s with focus := q } u q w → i.slot?.isSome = true →
    decodeBundle w = .ok { hdr := plainHeader [i], ops := [i] } →
    ∃ v, exec i (u.fetchFill q) = .next v ∧ exec (.issueBundle q) s = .next (Claims.afterIssue q u v)) ∧
  ∀ (s : State) (q lvl loc : Nat) (e : Word) (tagged : Bool), let y := s.seq q
    let va := y.pc.toNat
    let d := dieOfSeq q
    2 ^ 32 ≤ va → va < 2 ^ 48 → (s.ctxOf q).bind (fun c => c.windowOf va) = none → s.walk y.asid d va = .leaf e lvl →
    s.tlbHits y.asid d va = [] → leafPermits e .fetch y.sys = true →
    s.leafPlace d (partOf (s.ctxIdOf q)) va e lvl = .ok (.mem loc tagged) → s.meetsPend loc 64 = false → (s.die d).icache = [] →
    tagged = false ∨ (s.unit loc).tag.is (s.genOf q) = true →
    s.readsPoison { gen := s.genOf q, tagged := tagged, part := none } loc 64 = false →
    s.fetchBundle q = .ok (wordOfBytes (s.raw loc 64))

/-- R44. A bundle with YLD and WHL set, with YLD set and RUNPOS 0, or with a RUNPOS and neither, is illegal; of those without operations every
other one decodes. -/
def Claims.HeaderRules : Prop :=
  ∀ w : Nat, let yld := w / 2 ^ 17 % 2
    let whl := w / 2 ^ 20 % 2
    let runpos := w / 2 ^ 22 % 2 ^ 10
    let bad : Prop := (yld = 1 ∧ whl = 1) ∨ (yld = 1 ∧ runpos = 0) ∨ (runpos ≠ 0 ∧ yld = 0 ∧ whl = 0)
    (bad → ∃ e, decodeBundle w = .error e) ∧
    (¬ bad → w < 2 ^ 32 → w % 2 ^ 17 = 0 → decodeBundle w = .ok { hdr := Header.ofWord w, ops := [] })

/-- R45, R66. A bundle with BRK set traps with BRK, and none of its slots executes; at the PC that a `y.tret` returned to it issues, as it would
without BRK. -/
def Claims.Breakpoints : Prop :=
  ∀ (s u : State) (q w : Nat), Claims.AtIssue { s with focus := q } u q w → w / 2 ^ 21 % 2 = 1 →
    let pc := (u.seq q).pc
    let v := u.fetchFill q
    ((u.seq q).brkSkip ≠ some pc → (u.gang q).Nodup → u.fedOut q = false → (∀ f ∈ u.flights, f.ready = false) →
      ¬ (u.acting q = true ∧ tcNest (u.core (u.lead q)).sp.tcause = true ∧ (u.seq q).sys = true) →
      ∃ t, exec (.issueBundle q) s = .next t ∧ ∃ r, Claims.Trapped v r q (u.lead q) false (fun _ => 18) (fun _ => 8) ∧
        (∀ p, t.seq p = if p = q then { r.seq q with brkAt := some pc } else r.seq p) ∧
        t = { r with seqs := t.seqs, free := r.free + 1 }) ∧
    ∀ b, (u.seq q).brkSkip = some pc → decodeBundle w = .ok b →
      exec (.issueBundle q) s =
        .next (Claims.afterIssue q u (v.issueOps q { b.hdr with brk := 0 } (semsOf { b with hdr := { b.hdr with brk := 0 } })
          (earlyOf { b with hdr := { b.hdr with brk := 0 } })))

/-- Header attributes that decide whether a bundle issues: the legal combinations, and BRK. -/
def Obligations.HeaderAttributes : Prop := Claims.HeaderRules ∧ Claims.Breakpoints

/-- R37 to R43, R101, R103, R128, R130, R157, R184, R191, R204, R222. Decode and encode agree: the bundle of any well-formed operation, at every
value of its fields, decodes to that operation and to nothing else. -/
def Obligations.DecodeEncode : Prop :=
  ∀ i : Instr, i.slot?.isSome = true → i.wf = true → decodeBytes (encodeBytes i) = .ok { hdr := plainHeader [i], ops := [i] }

/-- R37 to R44, R64. Every bundle that decodes is the encoding of what it decodes to, so that no bit is dropped, and its operations are
well-formed ones of its slots. -/
def Obligations.DecodeExact : Prop :=
  ∀ (w : Nat) (b : Bundle), w < 2 ^ 512 → decodeBundle w = .ok b → encodeBundle b = w ∧ b.hdr = Header.ofWord w ∧
    ∀ i ∈ b.ops, i.wf = true ∧ i.slot?.isSome = true

/-- The words, written out from the spec's encodings, of an operation of each slot and of a bundle with a header, and what they decode to
(R37, R41, R103, R130, R157, R184, R191, R204, R222). -/
def Obligations.DecodeWords : Prop :=
  (decodeSlot .scalar 0x010A281800000000).toOption = some (some (.sAdd { grd := 0, d := 20, a := 20, i := 0, b := 0x1800000000 })) ∧
  (decodeSlot .scalar 0x01038D0000000001).toOption = some (some (.sAdd { grd := 0, d := 7, a := 6, i := 1, b := 1 })) ∧
  (decodeSlot .scalar 0x1C0D918100000000).toOption = some (some (.sExt { grd := 0, d := 27, a := 8, lsb := 48, width := 16 })) ∧
  (decodeSlot .scalar 0x280C480000000002).toOption = some (some (.sLoop { grd := 0, lvl := 3, i := 0, cnt := 0x48000, len := 2 })) ∧
  (decodeSlot .va 0x0402858C1A200000).toOption = some (some (.vfma .va { grd := 0, d := 10, a := 11, b := 12, c := 13, ty := 1, rm := 0, sat := 0, i := 0, fn := 0, k := 0 })) ∧
  (decodeSlot .va 0x15650A8000046020).toOption = some (some (.vcvt .va { grd := 3, d := 20, a := 21, b := 0, c := 0, ty := 0, rm := 0, sat := 1, i := 0, fn := 3, k := 2 })) ∧
  (decodeSlot .matrix 0x0100040000000000).toOption = some (some (.mMma { grd := 0, td := 0, ba := 0, bw := 1, v := 0, vr := 0, sel := 0 })) ∧
  (decodeSlot .matrix 0x1000200000000000).toOption = some (some (.mFmt { grd := 0, fb := 0, n := 2, lvl := 0 })) ∧
  (decodeSlot .matrix 0x0300000000000000).toOption = some (some (.mZero { grd := 0, t := 0 })) ∧
  (decodeSlot .matrix 0x0A00400000000000).toOption = some (some (.mSt { grd := 0, t := 0, off := 512 })) ∧
  (decodeSlot .matrix 0x1A00000000000000).toOption = some (some (.mWait { grd := 0, t := 0 })) ∧
  (decodeSlot .load 0x0108B50000000000).toOption = some (some (.lS { grd := 0, d := 17, an := 6, sz := 5, fq := 0, off := 0 })) ∧
  (decodeSlot .load 0x0800180000000000).toOption = some (some (.lScl { grd := 0, an := 3, off := 0 })) ∧
  (decodeSlot .load 0x1006700000000040).toOption = some (some (.lAadd { grd := 0, ad := 3, an := 3, i := 1, b := 64 })) ∧
  (decodeSlot .copy 0x040300000000).toOption = some (some (.cShp { grd := 0, hd := 0, sa := 24 })) ∧
  (decodeSlot .copy 0x0C0840010000).toOption = some (some (.cRing { grd := 0, b := 1, base := 256, size := 256 })) ∧
  (decodeSlot .copy 0x084040000000).toOption = some (some (.cGo { grd := 0, dk := 1, dst := 0, src := 1, hs := 0, tl := 0 })) ∧
  (decodeSlot .store 0x0300490000000018).toOption = some (some (.wVp { grd := 0, src := 1, an := 2, sz := 2, k := 0, off := 0x18 })) ∧
  (decodeSlot .copy 0x402180380000).toOption = some (some (.cGq { grd := 0, an := 4, gq := 3, tl := 7 })) ∧
  (decodeSlot .copy 0x084484000000).toOption = some (some (.cGo { grd := 0, dk := 1, dst := 1, src := 2, hs := 1, tl := 0 })) ∧
  (decodeSlot .copy 0x081148004000).toOption = some (some (.cGo { grd := 0, dk := 0, dst := 4, src := 5, hs := 2, tl := 1 })) ∧
  (decodeSlot .sync 0x040009A00000).toOption = some (some (.yTlwait { grd := 0, tl := 1, sa := 13 })) ∧
  (decodeSlot .sync 0x0C1A00200000).toOption = some (some (.yTlread { grd := 0, sd := 13, tl := 1 })) ∧
  (decodeSlot .sync 0x441800000000).toOption = some (some (.yDrain { grd := 0, scope := 3 })) ∧
  (decodeSlot .sync 0x880000000000).toOption = some (some (.yRetire { grd := 0 })) ∧
  (decodeSlot .sync 0x601661A00000).toOption = some (some (.yClm { grd := 0, sk := 11, sv := 12, sh := 13 })) ∧
  (decodeSlot .sync 0x641668000000).toOption = some (some (.yObj { grd := 0, sk := 11, sh := 13 })) ∧
  (decodeSlot .sync 0x681668000000).toOption = some (some (.yClwait { grd := 0, sk := 11, sh := 13 })) ∧
  (decodeSlot .sync 0x6C1E59A00000).toOption = some (some (.yClread { grd := 0, sd := 15, sk := 11, sh := 13 })) ∧
  (decodeBundle 0x1206980000000000000000000000000000000000000000000000000000000000010A28180000000000010900).toOption =
    some { hdr := { runpos := 0, brk := 0, whl := 0, hwn := 0, syn := 0, yld := 0, spa := 0x109, vpa := 0 },
           ops := [.sAdd { grd := 0, d := 20, a := 20, i := 0, b := 0x1800000000 }, .lAmov { grd := 0, ad := 3, sa := 19 }] } ∧
  (decodeBundle 0xE04110000000010000C0100).toOption =
    some { hdr := { runpos := 0, brk := 0, whl := 0, hwn := 1, syn := 1, yld := 0, spa := 0x001, vpa := 0 },
           ops := [.sShr { grd := 0, d := 8, a := 8, i := 1, b := 16 }] } ∧
  (decodeBundle 0x104106C00000000A0020900).toOption =
    some { hdr := { runpos := 640, brk := 0, whl := 0, hwn := 0, syn := 0, yld := 1, spa := 0x009, vpa := 0 },
           ops := [.sAdd { grd := 0, d := 8, a := 8, i := 0, b := 0x6C00000000 }] }

/-- R5, R31, R168, R175, R223, R250, R264, R265, R269, R273, R353, R359, R414, R420, R430, R446. Right after reset every register reads zero but
WAITLIM, FBIND, GPOOL, PCFG, PDRAM, SPARE and LWDOG, which hold the values of their maps; every byte reads zero and every tag unit is wiped; and
nothing is loaded, placed or under way. That a byte of host memory that nothing has written reads zero is the model's choice (log entry 4), and
so are the values the map of a register does not give (log entry 34). -/
def Obligations.ResetState : Prop :=
  let s := State.reset
  (∀ c g r, let k := s.core c
    k.readS g r = 0 ∧ k.readA g r = 0 ∧ k.readH g r = 0 ∧ k.readB g r = 0 ∧ k.readF g r = 0 ∧ k.readT g r = 0 ∧ k.readV g r = 0 ∧
    (r ≠ 0 → k.readP g r = 0 ∧ k.readQ g r = false) ∧ k.sp.waitlim = 0x01000000 ∧ k.sp.tpc = 0 ∧ k.sp.tcause = 0 ∧ k.mx.fbind = 8 ∧
    k.mx.accown = 0 ∧ k.mx.scq = [] ∧ k.pp.lq = []) ∧
  (∀ q, (s.seq q).ctx = none ∧ (s.seq q).phase = .idle) ∧ (∀ x, s.ctx? x = none) ∧ (∀ n, (s.queue n).phase = .unbound) ∧
  (∀ a, s.rawByte a = 0 ∧ s.unit a = .wiped) ∧
  (∀ p, s.partState p = 0 ∧ fieldOf (s.pcfg p) 12 4 = 8 ∧ fieldOf (s.pcfg p) 48 16 = 0 ∧ (s.pcfg p).getLsbD 0 = false) ∧
  (∀ g, s.gvState g = 0) ∧ s.poolSize = 0x400 ∧ fieldOf s.gpool 16 10 = 0x3FF ∧ fieldOf s.gpool 0 11 = 0x400 ∧ s.carder.passes = 0 ∧
  s.carder.active = false ∧
  ∀ d, s.present d = true ∧ s.tbase d = 0 ∧ (∀ p < 64, s.dctl d (0x4000 + 0x40 * p + 0x10) = 0x0000FFFF00000100) ∧
    (∀ c < 10, s.dctl d (0x5000 + 0x100 * c + 0x80) = 0x1F000000) ∧ s.dctl d 0xB308 = 0x400 ∧
    (∀ p, (s.port d p).phase = .down ∧ (s.port d p).cur = none ∧ (s.port d p).nxt = none ∧ (s.port d p).count = 0) ∧
    (∀ n, (s.tl d n).next = 0 ∧ (s.tl d n).done = 0 ∧ s.claim? d n = none) ∧ (s.die d).sock.phase = .down

/-- The memory after reset has its canonical form, which `MemoryInvariant` says every step keeps. -/
def Obligations.ResetInvariant : Prop := State.reset.memWf

/-- R182, R383. Every step keeps the canonical form of memory: locations strictly rise, and no byte is listed at its unlisted value, so that equal
memories are equal data. The form is the model's own. -/
def Obligations.MemoryInvariant : Prop :=
  ∀ s t : State, s.memWf → step s = .next t → t.memWf

end
end

