-- ==== Sys2Proof/Laws/Maps.lean ====
section
/-! SUPPORT. The laws of sparse maps: reading after a write, and the canonical form that every operation keeps. -/

namespace Sys2Proof.Machine.SMap

variable {α : Type}

theorem get_erase_self (d : α) (m : SMap α) (n : Nat) : get d (erase m n) n = d := by
  induction m with
  | nil => rfl
  | cons e r ih =>
    obtain ⟨k, v⟩ := e
    simp only [erase]
    split <;> simp_all [get]

theorem get_erase_ne (d : α) (m : SMap α) {n j : Nat} (h : j ≠ n) : get d (erase m n) j = get d m j := by
  induction m with
  | nil => rfl
  | cons e r ih =>
    obtain ⟨k, v⟩ := e
    simp only [erase]
    split <;> simp_all [get]

theorem get_insert_self (d v : α) (m : SMap α) (n : Nat) : get d (insert v m n) n = v := by
  induction m with
  | nil => simp [insert, get]
  | cons e r ih =>
    obtain ⟨k, u⟩ := e
    simp only [insert]
    split
    · simp_all [get]
    · split <;> simp_all [get]

theorem get_insert_ne (d v : α) (m : SMap α) {n j : Nat} (h : j ≠ n) : get d (insert v m n) j = get d m j := by
  induction m with
  | nil => simp [insert, get, h]
  | cons e r ih =>
    obtain ⟨k, u⟩ := e
    simp only [insert]
    split
    · subst_vars; simp [get, h]
    · split <;> simp_all [get]

variable [DecidableEq α]

/-- A key reads what was set at it. -/
@[simp] theorem get_set_self (d v : α) (m : SMap α) (n : Nat) : get d (set d m n v) n = v := by
  unfold set
  split
  · simp_all [get_erase_self]
  · exact get_insert_self ..

/-- A write at one key leaves every other key. -/
theorem get_set_ne (d e v : α) (m : SMap α) {n j : Nat} (h : j ≠ n) : get e (set d m n v) j = get e m j := by
  unfold set
  split
  · exact get_erase_ne e m h
  · exact get_insert_ne e v m h

theorem get_set (d v : α) (m : SMap α) (n j : Nat) : get d (set d m n v) j = if j = n then v else get d m j := by
  split
  · subst_vars; exact get_set_self ..
  · rename_i h; exact get_set_ne d d v m h

omit [DecidableEq α] in
/-- A restriction keeps the values at the keys it keeps. -/
theorem get_keep (d : α) (p : Nat → Bool) (m : SMap α) (n : Nat) : get d (keep p m) n = if p n then get d m n else d := by
  induction m with
  | nil => simp [keep, get]
  | cons e r ih =>
    obtain ⟨k, v⟩ := e
    simp only [keep, List.filter_cons] at ih ⊢
    by_cases hk : n = k
    · subst hk; split <;> simp_all [get]
    · split <;> simp_all [get]

/-! ### The canonical form -/

theorem wfFrom_mono {d : α} {a b : Option Nat} {m : SMap α} (h : wfFrom d b m = true)
    (hab : ∀ k, (b.elim true fun l => decide (l < k)) = true → (a.elim true fun l => decide (l < k)) = true) :
    wfFrom d a m = true := by
  cases m with
  | nil => rfl
  | cons e r => simp_all [wfFrom]

theorem wf_erase {d : α} {m : SMap α} {a : Option Nat} (h : wfFrom d a m = true) (n : Nat) : wfFrom d a (erase m n) = true := by
  induction m generalizing a with
  | nil => rfl
  | cons e r ih =>
    obtain ⟨k, v⟩ := e
    simp only [wfFrom, Bool.and_eq_true] at h
    simp only [erase]
    split
    · refine ih (wfFrom_mono h.2 ?_)
      intro j hj
      cases a with
      | none => rfl
      | some l => simp at hj h ⊢; omega
    · simp [wfFrom, h.1, ih h.2]

theorem wf_insert {d v : α} {m : SMap α} {a : Option Nat} (h : wfFrom d a m = true) (hv : v ≠ d) {n : Nat}
    (hn : (a.elim true fun l => decide (l < n)) = true) : wfFrom d a (insert v m n) = true := by
  induction m generalizing a with
  | nil => simp [insert, wfFrom, hv, hn]
  | cons e r ih =>
    obtain ⟨k, u⟩ := e
    simp only [wfFrom, Bool.and_eq_true] at h
    simp only [insert]
    split
    · simp_all [wfFrom]
    · split
      · simp_all [wfFrom]
      · simp only [wfFrom, Bool.and_eq_true]
        refine ⟨h.1, ih h.2 ?_⟩
        simp; omega

/-- A write keeps the canonical form. -/
theorem wf_set {d : α} {m : SMap α} (h : wf d m = true) (n : Nat) (v : α) : wf d (set d m n v) = true := by
  unfold set wf
  split
  · exact wf_erase h n
  · rename_i hv; exact wf_insert h hv rfl

/-- A restriction keeps the canonical form. -/
theorem wf_keep {d : α} {m : SMap α} (h : wf d m = true) (p : Nat → Bool) : wf d (keep p m) = true := by
  suffices ∀ a, wfFrom d a m = true → wfFrom d a (keep p m) = true from this none h
  intro a h
  induction m generalizing a with
  | nil => rfl
  | cons e r ih =>
    obtain ⟨k, v⟩ := e
    simp only [wfFrom, Bool.and_eq_true] at h
    simp only [keep, List.filter_cons] at ih ⊢
    have hr : wf d r = true := wfFrom_mono h.2 (fun _ _ => rfl)
    split
    · simp [wfFrom, h.1, ih hr _ h.2]
    · refine ih hr _ (wfFrom_mono h.2 ?_)
      intro j hj
      cases a with
      | none => rfl
      | some l => simp at hj h ⊢; omega

end Sys2Proof.Machine.SMap
end

