-- ==== Sys2Proof/Laws/State.lean ====
section
/-! SUPPORT. What each named update of the state leaves alone, and what it makes of the field it changes. -/

namespace Sys2Proof.Machine.State

variable (s : State)

/-! ### The fields an update does not name -/

@[simp] theorem setCore_frame (c : Nat) (k : Core) :
    (s.setCore c k).time = s.time ∧ (s.setCore c k).agenda = s.agenda ∧ (s.setCore c k).focus = s.focus ∧
    (s.setCore c k).free = s.free ∧ (s.setCore c k).outside = s.outside ∧ (s.setCore c k).mem = s.mem ∧
    (s.setCore c k).metas = s.metas ∧ (s.setCore c k).full = s.full ∧ (s.setCore c k).l2 = s.l2 ∧ (s.setCore c k).seqs = s.seqs ∧
    (s.setCore c k).dies = s.dies ∧ (s.setCore c k).ctxs = s.ctxs ∧ (s.setCore c k).queues = s.queues ∧
    (s.setCore c k).flights = s.flights ∧ (s.setCore c k).nextId = s.nextId ∧ (s.setCore c k).maints = s.maints ∧
    (s.setCore c k).parts = s.parts ∧ (s.setCore c k).gpool = s.gpool ∧ (s.setCore c k).gvstat = s.gvstat ∧
    (s.setCore c k).carder = s.carder ∧ (s.setCore c k).whlmap = s.whlmap ∧ (s.setCore c k).whlNext = s.whlNext ∧
    (s.setCore c k).vfs = s.vfs ∧ (s.setCore c k).pfEv = s.pfEv ∧ (s.setCore c k).lcResult = s.lcResult ∧
    (s.setCore c k).svn = s.svn ∧ (s.setCore c k).fuses = s.fuses ∧ (s.setCore c k).errors = s.errors ∧
    (s.setCore c k).leaving = s.leaving ∧ (s.setCore c k).spareRec = s.spareRec := by
  and_intros <;> rfl

@[simp] theorem modCore_frame (c : Nat) (f : Core → Core) :
    (s.modCore c f).time = s.time ∧ (s.modCore c f).agenda = s.agenda ∧ (s.modCore c f).focus = s.focus ∧
    (s.modCore c f).free = s.free ∧ (s.modCore c f).outside = s.outside ∧ (s.modCore c f).mem = s.mem ∧
    (s.modCore c f).metas = s.metas ∧ (s.modCore c f).full = s.full ∧ (s.modCore c f).l2 = s.l2 ∧ (s.modCore c f).seqs = s.seqs ∧
    (s.modCore c f).dies = s.dies ∧ (s.modCore c f).ctxs = s.ctxs ∧ (s.modCore c f).queues = s.queues ∧
    (s.modCore c f).flights = s.flights ∧ (s.modCore c f).nextId = s.nextId ∧ (s.modCore c f).maints = s.maints ∧
    (s.modCore c f).parts = s.parts ∧ (s.modCore c f).gpool = s.gpool ∧ (s.modCore c f).gvstat = s.gvstat ∧
    (s.modCore c f).carder = s.carder ∧ (s.modCore c f).whlmap = s.whlmap ∧ (s.modCore c f).whlNext = s.whlNext ∧
    (s.modCore c f).vfs = s.vfs ∧ (s.modCore c f).pfEv = s.pfEv ∧ (s.modCore c f).lcResult = s.lcResult ∧
    (s.modCore c f).svn = s.svn ∧ (s.modCore c f).fuses = s.fuses ∧ (s.modCore c f).errors = s.errors ∧
    (s.modCore c f).leaving = s.leaving ∧ (s.modCore c f).spareRec = s.spareRec := by
  and_intros <;> rfl

@[simp] theorem setSeq_frame (q : Nat) (x : Seq) :
    (s.setSeq q x).time = s.time ∧ (s.setSeq q x).agenda = s.agenda ∧ (s.setSeq q x).focus = s.focus ∧
    (s.setSeq q x).free = s.free ∧ (s.setSeq q x).outside = s.outside ∧ (s.setSeq q x).mem = s.mem ∧
    (s.setSeq q x).metas = s.metas ∧ (s.setSeq q x).full = s.full ∧ (s.setSeq q x).l2 = s.l2 ∧ (s.setSeq q x).cores = s.cores ∧
    (s.setSeq q x).dies = s.dies ∧ (s.setSeq q x).ctxs = s.ctxs ∧ (s.setSeq q x).queues = s.queues ∧
    (s.setSeq q x).flights = s.flights ∧ (s.setSeq q x).nextId = s.nextId ∧ (s.setSeq q x).maints = s.maints ∧
    (s.setSeq q x).parts = s.parts ∧ (s.setSeq q x).gpool = s.gpool ∧ (s.setSeq q x).gvstat = s.gvstat ∧
    (s.setSeq q x).carder = s.carder ∧ (s.setSeq q x).whlmap = s.whlmap ∧ (s.setSeq q x).whlNext = s.whlNext ∧
    (s.setSeq q x).vfs = s.vfs ∧ (s.setSeq q x).pfEv = s.pfEv ∧ (s.setSeq q x).lcResult = s.lcResult ∧
    (s.setSeq q x).svn = s.svn ∧ (s.setSeq q x).fuses = s.fuses ∧ (s.setSeq q x).errors = s.errors ∧
    (s.setSeq q x).leaving = s.leaving ∧ (s.setSeq q x).spareRec = s.spareRec := by
  and_intros <;> rfl

@[simp] theorem modSeq_frame (q : Nat) (f : Seq → Seq) :
    (s.modSeq q f).time = s.time ∧ (s.modSeq q f).agenda = s.agenda ∧ (s.modSeq q f).focus = s.focus ∧
    (s.modSeq q f).free = s.free ∧ (s.modSeq q f).outside = s.outside ∧ (s.modSeq q f).mem = s.mem ∧
    (s.modSeq q f).metas = s.metas ∧ (s.modSeq q f).full = s.full ∧ (s.modSeq q f).l2 = s.l2 ∧ (s.modSeq q f).cores = s.cores ∧
    (s.modSeq q f).dies = s.dies ∧ (s.modSeq q f).ctxs = s.ctxs ∧ (s.modSeq q f).queues = s.queues ∧
    (s.modSeq q f).flights = s.flights ∧ (s.modSeq q f).nextId = s.nextId ∧ (s.modSeq q f).maints = s.maints ∧
    (s.modSeq q f).parts = s.parts ∧ (s.modSeq q f).gpool = s.gpool ∧ (s.modSeq q f).gvstat = s.gvstat ∧
    (s.modSeq q f).carder = s.carder ∧ (s.modSeq q f).whlmap = s.whlmap ∧ (s.modSeq q f).whlNext = s.whlNext ∧
    (s.modSeq q f).vfs = s.vfs ∧ (s.modSeq q f).pfEv = s.pfEv ∧ (s.modSeq q f).lcResult = s.lcResult ∧
    (s.modSeq q f).svn = s.svn ∧ (s.modSeq q f).fuses = s.fuses ∧ (s.modSeq q f).errors = s.errors ∧
    (s.modSeq q f).leaving = s.leaving ∧ (s.modSeq q f).spareRec = s.spareRec := by
  and_intros <;> rfl

@[simp] theorem setDie_frame (d : Nat) (x : Die) :
    (s.setDie d x).time = s.time ∧ (s.setDie d x).agenda = s.agenda ∧ (s.setDie d x).focus = s.focus ∧
    (s.setDie d x).free = s.free ∧ (s.setDie d x).outside = s.outside ∧ (s.setDie d x).mem = s.mem ∧
    (s.setDie d x).metas = s.metas ∧ (s.setDie d x).full = s.full ∧ (s.setDie d x).l2 = s.l2 ∧ (s.setDie d x).cores = s.cores ∧
    (s.setDie d x).seqs = s.seqs ∧ (s.setDie d x).ctxs = s.ctxs ∧ (s.setDie d x).queues = s.queues ∧
    (s.setDie d x).flights = s.flights ∧ (s.setDie d x).nextId = s.nextId ∧ (s.setDie d x).maints = s.maints ∧
    (s.setDie d x).parts = s.parts ∧ (s.setDie d x).gpool = s.gpool ∧ (s.setDie d x).gvstat = s.gvstat ∧
    (s.setDie d x).carder = s.carder ∧ (s.setDie d x).whlmap = s.whlmap ∧ (s.setDie d x).whlNext = s.whlNext ∧
    (s.setDie d x).vfs = s.vfs ∧ (s.setDie d x).pfEv = s.pfEv ∧ (s.setDie d x).lcResult = s.lcResult ∧
    (s.setDie d x).svn = s.svn ∧ (s.setDie d x).fuses = s.fuses ∧ (s.setDie d x).errors = s.errors ∧
    (s.setDie d x).leaving = s.leaving ∧ (s.setDie d x).spareRec = s.spareRec := by
  and_intros <;> rfl

@[simp] theorem modDie_frame (d : Nat) (f : Die → Die) :
    (s.modDie d f).time = s.time ∧ (s.modDie d f).agenda = s.agenda ∧ (s.modDie d f).focus = s.focus ∧
    (s.modDie d f).free = s.free ∧ (s.modDie d f).outside = s.outside ∧ (s.modDie d f).mem = s.mem ∧
    (s.modDie d f).metas = s.metas ∧ (s.modDie d f).full = s.full ∧ (s.modDie d f).l2 = s.l2 ∧ (s.modDie d f).cores = s.cores ∧
    (s.modDie d f).seqs = s.seqs ∧ (s.modDie d f).ctxs = s.ctxs ∧ (s.modDie d f).queues = s.queues ∧
    (s.modDie d f).flights = s.flights ∧ (s.modDie d f).nextId = s.nextId ∧ (s.modDie d f).maints = s.maints ∧
    (s.modDie d f).parts = s.parts ∧ (s.modDie d f).gpool = s.gpool ∧ (s.modDie d f).gvstat = s.gvstat ∧
    (s.modDie d f).carder = s.carder ∧ (s.modDie d f).whlmap = s.whlmap ∧ (s.modDie d f).whlNext = s.whlNext ∧
    (s.modDie d f).vfs = s.vfs ∧ (s.modDie d f).pfEv = s.pfEv ∧ (s.modDie d f).lcResult = s.lcResult ∧
    (s.modDie d f).svn = s.svn ∧ (s.modDie d f).fuses = s.fuses ∧ (s.modDie d f).errors = s.errors ∧
    (s.modDie d f).leaving = s.leaving ∧ (s.modDie d f).spareRec = s.spareRec := by
  and_intros <;> rfl

@[simp] theorem setDctl_frame (d off : Nat) (v : Word) :
    (s.setDctl d off v).time = s.time ∧ (s.setDctl d off v).agenda = s.agenda ∧ (s.setDctl d off v).focus = s.focus ∧
    (s.setDctl d off v).free = s.free ∧ (s.setDctl d off v).outside = s.outside ∧ (s.setDctl d off v).mem = s.mem ∧
    (s.setDctl d off v).metas = s.metas ∧ (s.setDctl d off v).full = s.full ∧ (s.setDctl d off v).l2 = s.l2 ∧
    (s.setDctl d off v).cores = s.cores ∧ (s.setDctl d off v).seqs = s.seqs ∧ (s.setDctl d off v).ctxs = s.ctxs ∧
    (s.setDctl d off v).queues = s.queues ∧ (s.setDctl d off v).flights = s.flights ∧ (s.setDctl d off v).nextId = s.nextId ∧
    (s.setDctl d off v).maints = s.maints ∧ (s.setDctl d off v).parts = s.parts ∧ (s.setDctl d off v).gpool = s.gpool ∧
    (s.setDctl d off v).gvstat = s.gvstat ∧ (s.setDctl d off v).carder = s.carder ∧ (s.setDctl d off v).whlmap = s.whlmap ∧
    (s.setDctl d off v).whlNext = s.whlNext ∧ (s.setDctl d off v).vfs = s.vfs ∧ (s.setDctl d off v).pfEv = s.pfEv ∧
    (s.setDctl d off v).lcResult = s.lcResult ∧ (s.setDctl d off v).svn = s.svn ∧ (s.setDctl d off v).fuses = s.fuses ∧ (s.setDctl d off v).errors = s.errors ∧
    (s.setDctl d off v).leaving = s.leaving ∧ (s.setDctl d off v).spareRec = s.spareRec := by
  and_intros <;> rfl

@[simp] theorem setCtx_frame (x : Nat) (c : Option Ctx) :
    (s.setCtx x c).time = s.time ∧ (s.setCtx x c).agenda = s.agenda ∧ (s.setCtx x c).focus = s.focus ∧
    (s.setCtx x c).free = s.free ∧ (s.setCtx x c).outside = s.outside ∧ (s.setCtx x c).mem = s.mem ∧
    (s.setCtx x c).metas = s.metas ∧ (s.setCtx x c).full = s.full ∧ (s.setCtx x c).l2 = s.l2 ∧ (s.setCtx x c).cores = s.cores ∧
    (s.setCtx x c).seqs = s.seqs ∧ (s.setCtx x c).dies = s.dies ∧ (s.setCtx x c).queues = s.queues ∧
    (s.setCtx x c).flights = s.flights ∧ (s.setCtx x c).nextId = s.nextId ∧ (s.setCtx x c).maints = s.maints ∧
    (s.setCtx x c).parts = s.parts ∧ (s.setCtx x c).gpool = s.gpool ∧ (s.setCtx x c).gvstat = s.gvstat ∧
    (s.setCtx x c).carder = s.carder ∧ (s.setCtx x c).whlmap = s.whlmap ∧ (s.setCtx x c).whlNext = s.whlNext ∧
    (s.setCtx x c).vfs = s.vfs ∧ (s.setCtx x c).pfEv = s.pfEv ∧ (s.setCtx x c).lcResult = s.lcResult ∧
    (s.setCtx x c).svn = s.svn ∧ (s.setCtx x c).fuses = s.fuses ∧ (s.setCtx x c).errors = s.errors ∧
    (s.setCtx x c).leaving = s.leaving ∧ (s.setCtx x c).spareRec = s.spareRec := by
  and_intros <;> rfl

@[simp] theorem setQueue_frame (n : Nat) (x : Queue) :
    (s.setQueue n x).time = s.time ∧ (s.setQueue n x).agenda = s.agenda ∧ (s.setQueue n x).focus = s.focus ∧
    (s.setQueue n x).free = s.free ∧ (s.setQueue n x).outside = s.outside ∧ (s.setQueue n x).mem = s.mem ∧
    (s.setQueue n x).metas = s.metas ∧ (s.setQueue n x).full = s.full ∧ (s.setQueue n x).l2 = s.l2 ∧
    (s.setQueue n x).cores = s.cores ∧ (s.setQueue n x).seqs = s.seqs ∧ (s.setQueue n x).dies = s.dies ∧
    (s.setQueue n x).ctxs = s.ctxs ∧ (s.setQueue n x).flights = s.flights ∧ (s.setQueue n x).nextId = s.nextId ∧
    (s.setQueue n x).maints = s.maints ∧ (s.setQueue n x).parts = s.parts ∧ (s.setQueue n x).gpool = s.gpool ∧
    (s.setQueue n x).gvstat = s.gvstat ∧ (s.setQueue n x).carder = s.carder ∧ (s.setQueue n x).whlmap = s.whlmap ∧
    (s.setQueue n x).whlNext = s.whlNext ∧ (s.setQueue n x).vfs = s.vfs ∧ (s.setQueue n x).pfEv = s.pfEv ∧
    (s.setQueue n x).lcResult = s.lcResult ∧ (s.setQueue n x).svn = s.svn ∧ (s.setQueue n x).fuses = s.fuses ∧ (s.setQueue n x).errors = s.errors ∧
    (s.setQueue n x).leaving = s.leaving ∧ (s.setQueue n x).spareRec = s.spareRec := by
  and_intros <;> rfl

@[simp] theorem modQueue_frame (n : Nat) (f : Queue → Queue) :
    (s.modQueue n f).time = s.time ∧ (s.modQueue n f).agenda = s.agenda ∧ (s.modQueue n f).focus = s.focus ∧
    (s.modQueue n f).free = s.free ∧ (s.modQueue n f).outside = s.outside ∧ (s.modQueue n f).mem = s.mem ∧
    (s.modQueue n f).metas = s.metas ∧ (s.modQueue n f).full = s.full ∧ (s.modQueue n f).l2 = s.l2 ∧
    (s.modQueue n f).cores = s.cores ∧ (s.modQueue n f).seqs = s.seqs ∧ (s.modQueue n f).dies = s.dies ∧
    (s.modQueue n f).ctxs = s.ctxs ∧ (s.modQueue n f).flights = s.flights ∧ (s.modQueue n f).nextId = s.nextId ∧
    (s.modQueue n f).maints = s.maints ∧ (s.modQueue n f).parts = s.parts ∧ (s.modQueue n f).gpool = s.gpool ∧
    (s.modQueue n f).gvstat = s.gvstat ∧ (s.modQueue n f).carder = s.carder ∧ (s.modQueue n f).whlmap = s.whlmap ∧
    (s.modQueue n f).whlNext = s.whlNext ∧ (s.modQueue n f).vfs = s.vfs ∧ (s.modQueue n f).pfEv = s.pfEv ∧
    (s.modQueue n f).lcResult = s.lcResult ∧ (s.modQueue n f).svn = s.svn ∧ (s.modQueue n f).fuses = s.fuses ∧ (s.modQueue n f).errors = s.errors ∧
    (s.modQueue n f).leaving = s.leaving ∧ (s.modQueue n f).spareRec = s.spareRec := by
  and_intros <;> rfl

@[simp] theorem setVf_frame (p : Nat) (x : VfRegs) :
    (s.setVf p x).time = s.time ∧ (s.setVf p x).agenda = s.agenda ∧ (s.setVf p x).focus = s.focus ∧ (s.setVf p x).free = s.free ∧
    (s.setVf p x).outside = s.outside ∧ (s.setVf p x).mem = s.mem ∧ (s.setVf p x).metas = s.metas ∧ (s.setVf p x).full = s.full ∧
    (s.setVf p x).l2 = s.l2 ∧ (s.setVf p x).cores = s.cores ∧ (s.setVf p x).seqs = s.seqs ∧ (s.setVf p x).dies = s.dies ∧
    (s.setVf p x).ctxs = s.ctxs ∧ (s.setVf p x).queues = s.queues ∧ (s.setVf p x).flights = s.flights ∧
    (s.setVf p x).nextId = s.nextId ∧ (s.setVf p x).maints = s.maints ∧ (s.setVf p x).parts = s.parts ∧
    (s.setVf p x).gpool = s.gpool ∧ (s.setVf p x).gvstat = s.gvstat ∧ (s.setVf p x).carder = s.carder ∧
    (s.setVf p x).whlmap = s.whlmap ∧ (s.setVf p x).whlNext = s.whlNext ∧ (s.setVf p x).pfEv = s.pfEv ∧
    (s.setVf p x).lcResult = s.lcResult ∧ (s.setVf p x).svn = s.svn ∧ (s.setVf p x).fuses = s.fuses ∧ (s.setVf p x).errors = s.errors ∧
    (s.setVf p x).leaving = s.leaving ∧ (s.setVf p x).spareRec = s.spareRec := by
  and_intros <;> rfl

@[simp] theorem putRaw_frame (a : Nat) (bs : List Byte) :
    (s.putRaw a bs).time = s.time ∧ (s.putRaw a bs).agenda = s.agenda ∧ (s.putRaw a bs).focus = s.focus ∧
    (s.putRaw a bs).free = s.free ∧ (s.putRaw a bs).outside = s.outside ∧ (s.putRaw a bs).metas = s.metas ∧
    (s.putRaw a bs).full = s.full ∧ (s.putRaw a bs).l2 = s.l2 ∧ (s.putRaw a bs).cores = s.cores ∧ (s.putRaw a bs).seqs = s.seqs ∧
    (s.putRaw a bs).dies = s.dies ∧ (s.putRaw a bs).ctxs = s.ctxs ∧ (s.putRaw a bs).queues = s.queues ∧
    (s.putRaw a bs).flights = s.flights ∧ (s.putRaw a bs).nextId = s.nextId ∧ (s.putRaw a bs).maints = s.maints ∧
    (s.putRaw a bs).parts = s.parts ∧ (s.putRaw a bs).gpool = s.gpool ∧ (s.putRaw a bs).gvstat = s.gvstat ∧
    (s.putRaw a bs).carder = s.carder ∧ (s.putRaw a bs).whlmap = s.whlmap ∧ (s.putRaw a bs).whlNext = s.whlNext ∧
    (s.putRaw a bs).vfs = s.vfs ∧ (s.putRaw a bs).pfEv = s.pfEv ∧ (s.putRaw a bs).lcResult = s.lcResult ∧
    (s.putRaw a bs).svn = s.svn ∧ (s.putRaw a bs).fuses = s.fuses ∧ (s.putRaw a bs).errors = s.errors ∧
    (s.putRaw a bs).leaving = s.leaving ∧ (s.putRaw a bs).spareRec = s.spareRec := by
  and_intros <;> rfl

@[simp] theorem setUnit_frame (loc : Nat) (u : TagUnit) :
    (s.setUnit loc u).time = s.time ∧ (s.setUnit loc u).agenda = s.agenda ∧ (s.setUnit loc u).focus = s.focus ∧
    (s.setUnit loc u).free = s.free ∧ (s.setUnit loc u).outside = s.outside ∧ (s.setUnit loc u).mem = s.mem ∧
    (s.setUnit loc u).full = s.full ∧ (s.setUnit loc u).l2 = s.l2 ∧ (s.setUnit loc u).cores = s.cores ∧
    (s.setUnit loc u).seqs = s.seqs ∧ (s.setUnit loc u).dies = s.dies ∧ (s.setUnit loc u).ctxs = s.ctxs ∧
    (s.setUnit loc u).queues = s.queues ∧ (s.setUnit loc u).flights = s.flights ∧ (s.setUnit loc u).nextId = s.nextId ∧
    (s.setUnit loc u).maints = s.maints ∧ (s.setUnit loc u).parts = s.parts ∧ (s.setUnit loc u).gpool = s.gpool ∧
    (s.setUnit loc u).gvstat = s.gvstat ∧ (s.setUnit loc u).carder = s.carder ∧ (s.setUnit loc u).whlmap = s.whlmap ∧
    (s.setUnit loc u).whlNext = s.whlNext ∧ (s.setUnit loc u).vfs = s.vfs ∧ (s.setUnit loc u).pfEv = s.pfEv ∧
    (s.setUnit loc u).lcResult = s.lcResult ∧ (s.setUnit loc u).svn = s.svn ∧ (s.setUnit loc u).fuses = s.fuses ∧ (s.setUnit loc u).errors = s.errors ∧
    (s.setUnit loc u).leaving = s.leaving ∧ (s.setUnit loc u).spareRec = s.spareRec := by
  and_intros <;> rfl

@[simp] theorem out_frame (m : OutMsg) :
    (s.out m).time = s.time ∧ (s.out m).agenda = s.agenda ∧ (s.out m).focus = s.focus ∧ (s.out m).free = s.free ∧
    (s.out m).mem = s.mem ∧ (s.out m).metas = s.metas ∧ (s.out m).full = s.full ∧ (s.out m).l2 = s.l2 ∧
    (s.out m).cores = s.cores ∧ (s.out m).seqs = s.seqs ∧ (s.out m).dies = s.dies ∧ (s.out m).ctxs = s.ctxs ∧
    (s.out m).queues = s.queues ∧ (s.out m).flights = s.flights ∧ (s.out m).nextId = s.nextId ∧ (s.out m).maints = s.maints ∧
    (s.out m).parts = s.parts ∧ (s.out m).gpool = s.gpool ∧ (s.out m).gvstat = s.gvstat ∧ (s.out m).carder = s.carder ∧
    (s.out m).whlmap = s.whlmap ∧ (s.out m).whlNext = s.whlNext ∧ (s.out m).vfs = s.vfs ∧ (s.out m).pfEv = s.pfEv ∧
    (s.out m).lcResult = s.lcResult ∧ (s.out m).svn = s.svn ∧ (s.out m).fuses = s.fuses ∧ (s.out m).errors = s.errors ∧
    (s.out m).leaving = s.leaving ∧ (s.out m).spareRec = s.spareRec := by
  and_intros <;> rfl

@[simp] theorem clearFull_frame (loc n : Nat) :
    (s.clearFull loc n).time = s.time ∧ (s.clearFull loc n).agenda = s.agenda ∧ (s.clearFull loc n).focus = s.focus ∧
    (s.clearFull loc n).free = s.free ∧ (s.clearFull loc n).outside = s.outside ∧ (s.clearFull loc n).mem = s.mem ∧
    (s.clearFull loc n).metas = s.metas ∧ (s.clearFull loc n).l2 = s.l2 ∧ (s.clearFull loc n).cores = s.cores ∧
    (s.clearFull loc n).seqs = s.seqs ∧ (s.clearFull loc n).dies = s.dies ∧ (s.clearFull loc n).ctxs = s.ctxs ∧
    (s.clearFull loc n).queues = s.queues ∧ (s.clearFull loc n).flights = s.flights ∧ (s.clearFull loc n).nextId = s.nextId ∧
    (s.clearFull loc n).maints = s.maints ∧ (s.clearFull loc n).parts = s.parts ∧ (s.clearFull loc n).gpool = s.gpool ∧
    (s.clearFull loc n).gvstat = s.gvstat ∧ (s.clearFull loc n).carder = s.carder ∧ (s.clearFull loc n).whlmap = s.whlmap ∧
    (s.clearFull loc n).whlNext = s.whlNext ∧ (s.clearFull loc n).vfs = s.vfs ∧ (s.clearFull loc n).pfEv = s.pfEv ∧
    (s.clearFull loc n).lcResult = s.lcResult ∧ (s.clearFull loc n).svn = s.svn ∧ (s.clearFull loc n).fuses = s.fuses ∧ (s.clearFull loc n).errors = s.errors ∧
    (s.clearFull loc n).leaving = s.leaving ∧ (s.clearFull loc n).spareRec = s.spareRec := by
  and_intros <;> rfl

@[simp] theorem modCtx_frame (x : Nat) (f : Ctx → Ctx) :
    (s.modCtx x f).time = s.time ∧ (s.modCtx x f).agenda = s.agenda ∧ (s.modCtx x f).focus = s.focus ∧
    (s.modCtx x f).free = s.free ∧ (s.modCtx x f).outside = s.outside ∧ (s.modCtx x f).mem = s.mem ∧
    (s.modCtx x f).metas = s.metas ∧ (s.modCtx x f).full = s.full ∧ (s.modCtx x f).l2 = s.l2 ∧ (s.modCtx x f).cores = s.cores ∧
    (s.modCtx x f).seqs = s.seqs ∧ (s.modCtx x f).dies = s.dies ∧ (s.modCtx x f).queues = s.queues ∧
    (s.modCtx x f).flights = s.flights ∧ (s.modCtx x f).nextId = s.nextId ∧ (s.modCtx x f).maints = s.maints ∧
    (s.modCtx x f).parts = s.parts ∧ (s.modCtx x f).gpool = s.gpool ∧ (s.modCtx x f).gvstat = s.gvstat ∧
    (s.modCtx x f).carder = s.carder ∧ (s.modCtx x f).whlmap = s.whlmap ∧ (s.modCtx x f).whlNext = s.whlNext ∧
    (s.modCtx x f).vfs = s.vfs ∧ (s.modCtx x f).pfEv = s.pfEv ∧ (s.modCtx x f).lcResult = s.lcResult ∧
    (s.modCtx x f).svn = s.svn ∧ (s.modCtx x f).fuses = s.fuses ∧ (s.modCtx x f).errors = s.errors ∧
    (s.modCtx x f).leaving = s.leaving ∧ (s.modCtx x f).spareRec = s.spareRec := by
  unfold State.modCtx; split <;> and_intros <;> rfl

/-! ### The field it names -/

@[simp] theorem core_setCore_self (c : Nat) (k : Core) : (s.setCore c k).core c = k := SMap.get_set_self ..
theorem core_setCore (c j : Nat) (k : Core) : (s.setCore c k).core j = if j = c then k else s.core j := SMap.get_set ..
@[simp] theorem core_modCore_self (c : Nat) (f : Core → Core) : (s.modCore c f).core c = f (s.core c) := SMap.get_set_self ..
theorem core_modCore (c j : Nat) (f : Core → Core) : (s.modCore c f).core j = if j = c then f (s.core c) else s.core j :=
  SMap.get_set ..
@[simp] theorem seq_setSeq_self (q : Nat) (x : Seq) : (s.setSeq q x).seq q = x := SMap.get_set_self ..
theorem seq_setSeq (q j : Nat) (x : Seq) : (s.setSeq q x).seq j = if j = q then x else s.seq j := SMap.get_set ..
@[simp] theorem seq_modSeq_self (q : Nat) (f : Seq → Seq) : (s.modSeq q f).seq q = f (s.seq q) := SMap.get_set_self ..
theorem seq_modSeq (q j : Nat) (f : Seq → Seq) : (s.modSeq q f).seq j = if j = q then f (s.seq q) else s.seq j := SMap.get_set ..
@[simp] theorem die_setDie_self (d : Nat) (x : Die) : (s.setDie d x).die d = x := SMap.get_set_self ..
theorem die_setDie (d j : Nat) (x : Die) : (s.setDie d x).die j = if j = d then x else s.die j := SMap.get_set ..
@[simp] theorem die_modDie_self (d : Nat) (f : Die → Die) : (s.modDie d f).die d = f (s.die d) := SMap.get_set_self ..
theorem die_modDie (d j : Nat) (f : Die → Die) : (s.modDie d f).die j = if j = d then f (s.die d) else s.die j := SMap.get_set ..
@[simp] theorem ctx?_setCtx_self (x : Nat) (c : Option Ctx) : (s.setCtx x c).ctx? x = c := SMap.get_set_self ..
theorem ctx?_setCtx (x j : Nat) (c : Option Ctx) : (s.setCtx x c).ctx? j = if j = x then c else s.ctx? j := SMap.get_set ..
@[simp] theorem queue_setQueue_self (n : Nat) (x : Queue) : (s.setQueue n x).queue n = x := SMap.get_set_self ..
theorem queue_setQueue (n j : Nat) (x : Queue) : (s.setQueue n x).queue j = if j = n then x else s.queue j := SMap.get_set ..
@[simp] theorem vf_setVf_self (p : Nat) (x : VfRegs) : (s.setVf p x).vf p = x := SMap.get_set_self ..
theorem vf_setVf (p j : Nat) (x : VfRegs) : (s.setVf p x).vf j = if j = p then x else s.vf j := SMap.get_set ..
theorem ctx?_modCtx (x j : Nat) (f : Ctx → Ctx) :
    (s.modCtx x f).ctx? j = if j = x then (s.ctx? x).map f else s.ctx? j := by
  unfold State.modCtx
  split
  · rename_i c hc; rw [ctx?_setCtx]; simp [hc]
  · rename_i hc; split <;> simp_all

/-- A stored register of a control page reads what was stored in it. -/
theorem dctl_setDctl (d off e o : Nat) (v : Word) :
    (s.setDctl d off v).dctl e o = if e = d ∧ o = off then v else s.dctl e o := by
  simp only [State.dctl, State.setDctl, die_modDie]
  split
  · subst_vars
    simp only [true_and]
    by_cases h : o = off
    · subst h; simp
    · simp [h, SMap.get_set_ne _ _ _ _ h]
  · simp_all

end Sys2Proof.Machine.State
end

