-- ==== Sys2Proof/Laws/Issue.lean ====
section
/-! SUPPORT. What issuing one operation does, said once: on a sequencer that stands ready, an operation with no cause and no wait takes
its effect on each core, the results land, and the next bundle follows. -/

namespace Sys2Proof.Machine

/-! ### Lists of cores -/

namespace State

variable (s : State)

@[simp] theorem modCores_seqs (f : Nat → Core → Core) (cs : List Nat) : (s.modCores f cs).seqs = s.seqs := by
  induction cs generalizing s with
  | nil => rfl
  | cons c r ih => simp [State.modCores, ih]

/-- What a change of cores leaves. -/
theorem modCores_eq (f : Nat → Core → Core) (cs : List Nat) : s.modCores f cs = { s with cores := (s.modCores f cs).cores } := by
  induction cs generalizing s with
  | nil => rfl
  | cons c r ih => rw [State.modCores, ih]; rfl

theorem core_modCores (f : Nat → Core → Core) {cs : List Nat} (h : cs.Nodup) (c : Nat) :
    (s.modCores f cs).core c = if c ∈ cs then f c (s.core c) else s.core c := by
  induction cs generalizing s with
  | nil => rfl
  | cons d r ih =>
    rw [List.nodup_cons] at h
    rw [State.modCores, ih _ h.2, core_modCore]
    by_cases hd : c = d
    · subst hd; simp [h.1]
    · simp [hd]

/-- What the register effects of a bundle leave. -/
theorem actAll_eq (q : Nat) (ms : List Sem) (cs : List Nat) (t : State) :
    State.actAll s q ms cs t = { t with cores := (State.actAll s q ms cs t).cores } := by
  induction cs generalizing t with
  | nil => rfl
  | cons c r ih => rw [State.actAll, ih]; rfl

theorem core_actAll (q : Nat) (m : Sem) {cs : List Nat} (h : cs.Nodup) (t : State) (c : Nat) :
    (State.actAll s q [m] cs t).core c =
      if c ∈ cs then (if m.on s q c then m.act s q c (t.core c) else t.core c) else t.core c := by
  induction cs generalizing t with
  | nil => rfl
  | cons d r ih =>
    rw [List.nodup_cons] at h
    rw [State.actAll, ih h.2, core_setCore]
    by_cases hd : c = d
    · subst hd; simp [h.1]
    · simp [hd]

end State

/-! ### The parts of readiness -/

/-- What `Core.still` says. -/
structure Core.Still (k : Core) : Prop where
  lq : ∀ e ∈ k.pp.lq, e.held = true ∨ 1 < e.rem
  fresh : k.pp.fresh = []
  post : k.pp.post = []
  accw : k.pp.accw = none
  accLeft : k.pp.accLeft = 0
  shp : k.me.shp = []

theorem Core.still_iff (k : Core) : k.still = true ↔ k.Still := by
  simp only [Core.still, Bool.and_eq_true, List.all_eq_true, Bool.or_eq_true, decide_eq_true_eq, List.isEmpty_iff,
    Option.isNone_iff_eq_none, beq_iff_eq]
  exact ⟨fun h => by constructor <;> simp_all, fun h => by cases h; simp_all⟩

/-- What `Seq.still` says. -/
structure Seq.Still (x : Seq) : Prop where
  run : x.phase = .run
  whl : x.whl = none
  lineUp : x.lineUp = false
  released : x.released = false
  xfer : x.xfer = none
  post : x.post = []
  fin : x.fin = none
  straight : x.straight = true

theorem Seq.still_iff (x : Seq) : x.still = true ↔ x.Still := by
  simp only [Seq.still, Bool.and_eq_true, beq_iff_eq, Bool.not_eq_true', List.isEmpty_iff, Option.isNone_iff_eq_none]
  exact ⟨fun h => by constructor <;> simp_all, fun h => by cases h; simp_all⟩

/-- What `State.ready` says. -/
structure Ready (s : State) (q : Nat) : Prop where
  focus : s.focus = q
  still : (s.seq q).Still
  gang : s.gang q ≠ []
  nodup : (s.gang q).Nodup
  unpaired : s.paired q = false
  cores : ∀ c ∈ s.gang q, s.coreReady c = true

theorem State.ready_iff (s : State) (q : Nat) : s.ready q = true ↔ Ready s q := by
  simp only [State.ready, Bool.and_eq_true, beq_iff_eq, Bool.not_eq_true', List.isEmpty_eq_false_iff, decide_eq_true_eq,
    List.all_eq_true, Seq.still_iff]
  exact ⟨fun h => by constructor <;> simp_all, fun h => by cases h; simp_all⟩

namespace Ready

variable {s : State} {q : Nat} (h : Ready s q)
include h

theorem core {c : Nat} (hc : c ∈ s.gang q) : (s.core c).Still ∧ s.longFree c = true := by
  simpa [State.coreReady, Core.still_iff] using h.cores c hc
theorem lq {c : Nat} (hc : c ∈ s.gang q) : ∀ e ∈ (s.core c).pp.lq, e.held = true ∨ 1 < e.rem := (h.core hc).1.lq
theorem fresh {c : Nat} (hc : c ∈ s.gang q) : (s.core c).pp.fresh = [] := (h.core hc).1.fresh
theorem corePost {c : Nat} (hc : c ∈ s.gang q) : (s.core c).pp.post = [] := (h.core hc).1.post
theorem longTo {c : Nat} (hc : c ∈ s.gang q) (d : Dest) : s.longTo c d = none := by
  have hf := (h.core hc).2
  simp only [State.longFree, List.all_eq_true, Bool.or_eq_true, bne_iff_ne, ne_eq, Option.isNone_iff_eq_none] at hf
  unfold State.longTo
  rw [List.find?_eq_none]
  intro f hm hx
  simp only [Bool.and_eq_true, beq_iff_eq, decide_eq_true_eq] at hx
  rcases hf f hm with h1 | h1
  · exact h1 hx.1
  · simp [h1] at hx
theorem blocked {c : Nat} (hc : c ∈ s.gang q) (m : Sem) : m.blocked s q c = false := by
  simp [Sem.blocked, h.longTo hc]
theorem failedUse {c : Nat} (hc : c ∈ s.gang q) (m : Sem) : m.failedUse s q c = none := by
  unfold Sem.failedUse; rw [List.findSome?_eq_none_iff]; intro d _; simp [h.longTo hc]
theorem allCores : s.allCores q = s.gang q := by simp [State.allCores, h.unpaired]

end Ready

/-! ### An operation that nothing holds back -/

/-- An operation raises no cause on a gang, and no condition of its own holds it (R64 items 8 to 10, R66, R220, R223). -/
structure Passes (m : Sem) (s : State) (q : Nat) : Prop where
  stand : m.stand q s = s
  always : ∀ c ∈ s.gang q, m.always s q c = none
  check : ∀ c ∈ s.gang q, m.hereOn s q c = true → m.check s q c = none
  takes : ∀ c ∈ s.gang q, s.tooMany q c [m] m = false
  priv : m.priv = true → (s.seq q).sys = true
  fits : ∀ c ∈ s.gang q, (s.core c).collides (s.acted q c [m]).pp.fresh = false
  mem : m.mem = true → ∀ c ∈ s.gang q, m.hereOn s q c = true →
    s.fenced (m.own s q c) c = false ∧ (m.own s q c = true → s.windowAhead q = false)
  wait : ∀ c ∈ s.gang q, m.hereOn s q c = true → m.wait s q c = .none

/-- The state in which a bundle of one operation leaves issue. -/
def State.issuedOne (s : State) (i : Instr) (m : Sem) (q : Nat) : State :=
  let t := (s.endBundle (s.performSlots q [m]) q (plainHeader [i])).finish q
  { t with free := t.free + 1 }

/-- An operation that nothing holds back issues from a sequencer that stands ready, and its bundle is done (R57). -/
theorem State.issueOne_ready {s : State} {q : Nat} (h : Ready s q) (i : Instr) {m : Sem} (hm : Passes m s q) {early : Early}
    (he : early s q = s) : s.issueOne i m early = s.issuedOne i m q := by
  have hbad : ∀ c ∈ s.gang q, m.badOn s q c = none := by
    intro c hc
    unfold Sem.badOn
    rw [hm.always c hc, h.failedUse hc]
    by_cases hh : m.hereOn s q c = true
    · simp [hm.check c hc hh]
    · simp [hh]
  have hbads : ∀ c ∈ s.gang q, s.badsOn q c [m] = [] := by
    intro c hc
    simp [State.badsOn, hbad c hc, hm.takes c hc]
  have hraises : s.raises q false [m] = [] := by
    have hill : (s.gang q).filterMap (fun c => s.illopOn q c false [m]) = [] := by
      rw [List.filterMap_eq_nil_iff]
      intro c hc
      have hcol : s.collideSlot q c [m] = none := by
        unfold State.collideSlot
        simp [List.range_succ, hm.fits c hc]
      simp [State.illopOn, hcol, wheelBad, hbads c hc]
    have hpriv : (s.gang q).filterMap (fun c => s.privOn q c [m]) = [] := by
      rw [List.filterMap_eq_nil_iff]
      intro c _
      have hp : (m.priv && !(s.seq q).sys) = false := by
        cases hpv : m.priv with
        | false => rfl
        | true => simp [hm.priv hpv]
      simp [State.privOn, hp]
    have hfault : (s.gang q).filterMap (fun c => s.faultOn q c [m]) = [] := by
      rw [List.filterMap_eq_nil_iff]
      intro c hc
      simp [State.faultOn, hbads c hc]
    simp [State.raises, hill, hpriv, hfault]
  have hwait : ∀ c ∈ s.gang q, s.waitsOn q c [m] = [] := by
    intro c hc
    have hone : (m.waitsOn s q c).filter (· != Wait.none) = [] := by
      unfold Sem.waitsOn
      by_cases ho : m.on s q c = true
      · by_cases hh : m.hereOn s q c = true
        · have hm1 (hmm : m.mem = true) := hm.mem hmm c hc hh
          simp [ho, hh, h.blocked hc, hm.wait c hc hh, h.still.whl]
          exact ⟨fun _ hmm hf => absurd hf (by simp [(hm1 hmm).1]), fun _ hmm ho hw => absurd hw (by simp [(hm1 hmm).2 ho])⟩
        · simp [ho, hh, h.blocked hc]
      · simp [ho]
    simp [State.waitsOn, hone, (h.core hc).1.accw, (h.core hc).1.accLeft]
  have hstand : s.standAt q (plainHeader [i]) = s := by
    unfold State.standAt
    simp [plainHeader, h.still.whl, h.still.lineUp]
  have hws : (((s.gang q).map fun c => (c, s.waitsOn q c [m])).any fun w => !w.2.isEmpty) = false := by
    rw [List.any_eq_false]
    intro w hw
    obtain ⟨c, hc, rfl⟩ := List.mem_map.1 hw
    simp [hwait c hc]
  have hmis : s.mismatch q [m] = false := by simp [State.mismatch, h.unpaired]
  have hhdr : s.headerRaise q (plainHeader [i]) = none := by simp [State.headerRaise, plainHeader]
  unfold State.issueOne
  simp only [h.focus, h.still.run, List.isEmpty_iff, h.gang, if_false]
  unfold State.issueOps
  have hw0 : ((plainHeader [i]).whl == 1) = false := rfl
  have hs0 : ((plainHeader [i]).syn == 1) = false := rfl
  simp only [hstand, List.foldl_cons, List.foldl_nil, hm.stand, hw0, hraises, hhdr, he, hws, hs0, hmis]
  simp [State.issuedOne]

/-! ### The end of its cycle -/

theorem Ready.loopStep {s : State} {q : Nat} (h : Ready s q) :
    s.loopStep q = { next := (s.seq q).pc + 64, rotate := false, boundary := none, x := s.seq q } := by
  have := h.still.straight
  unfold Seq.straight at this
  unfold State.loopStep loopCascade
  cases hi : (s.seq q).innermost with
  | none => rfl
  | some k => simp only [hi, Option.elim, bne_iff_ne, ne_eq] at this; simp [this]

theorem State.postSkew_id (s : State) (q : Nat) (cs : List Nat) (h : ∀ c ∈ cs, ((s.core c).pp.post.find? fun p => p.1 == 0x14) = none)
    (t : State) : State.postSkew s q cs t = t := by
  induction cs generalizing t with
  | nil => rfl
  | cons c r ih =>
    rw [State.postSkew, h c (by simp)]
    exact ih (fun d hd => h d (by simp [hd])) t

/-- A sequencer that writes no special register and makes no transfer goes to the next bundle. -/
theorem Seq.endBundle_onward {x : Seq} (g : Gen) (hx : x.xfer = none) (hp : x.post = []) :
    Seq.endBundle x x.onward g x = { x with
      pc := x.pc + 64, brkSkip := none, lineUp := false, whl := none, released := false, reserved := [], mword := none,
      issued := x.issued + 1 } := by
  cases x
  simp only at hx hp
  subst hx hp
  rfl

/-- The end of the cycle of a bundle from a sequencer that stands ready, with the header the assembler writes. `t` is the state that
its slots have made. -/
theorem State.endBundle_plain {s : State} {q : Nat} (h : Ready s q) (i : Instr) {t : State} (hg : t.gang q = s.gang q)
    (hp : t.paired q = false)
    (hpost : ∀ c ∈ s.gang q, ((t.core c).pp.post.find? fun p => p.1 == 0x14) = none) :
    ∃ C S, s.endBundle t q (plainHeader [i]) = { t with cores := C, seqs := S } ∧
      (∀ c, SMap.get .reset C c = if c ∈ s.gang q then (t.core c).endBundle (s.seq q).sys false (s.genOf q) else t.core c) ∧
      (∀ r, SMap.get .reset S r =
        let x := if r = q then Seq.endBundle (s.seq q) (s.seq q).onward (s.genOf q) (t.seq q) else t.seq r
        if r = s.runSeq q ∧ (s.seq q).sys = false then x.useRun else x) := by
  have hall : t.allCores q = s.gang q := by simp [State.allCores, hp, hg]
  have hls : s.loopStep q = (s.seq q).onward := h.loopStep
  have hhwn : s.hostWindow q (plainHeader [i]) = false := by simp [State.hostWindow, plainHeader]
  have hrel := h.still.released
  have hyld : ((plainHeader [i]).yld == 1) = false := rfl
  have hb : (if (t.seq q).xfer.isNone = true then ((s.seq q).onward.boundary) else none) = none := by split <;> rfl
  have hrot : ((t.seq q).xfer.isNone && (s.seq q).onward.rotate) = false := by simp [Seq.onward]
  unfold State.endBundle
  simp only [hall, hls, hhwn, hrel, State.postSkew_id t q _ hpost, hb, hrot, State.afterBundle, hyld, State.lands, Bool.false_eq_true, if_false]
  rw [State.modCores_eq]
  cases hs : (s.seq q).sys with
  | true =>
    refine ⟨_, _, rfl, fun c => State.core_modCores t _ h.nodup c, fun r => ?_⟩
    simp only [Bool.true_eq_false, and_false, if_false]
    exact SMap.get_set ..
  | false =>
    refine ⟨_, _, rfl, fun c => State.core_modCores t _ h.nodup c, fun r => ?_⟩
    simp only [and_true]
    refine (SMap.get_set ..).trans ?_
    by_cases hr : r = s.runSeq q
    · subst hr; simp only [if_true]; congr 1; exact SMap.get_set ..
    · simp only [hr, if_false]; exact SMap.get_set ..

theorem Seq.writeSr_fin (sys : Bool) (g : Gen) (sr : Nat) (v : Word) (x : Seq) : (x.writeSr sys g sr v).fin = x.fin := by
  unfold Seq.writeSr; repeat' split
  all_goals rfl
theorem Seq.writeSrs_fin (sys : Bool) (g : Gen) (l : List (Nat × Word)) (x : Seq) :
    (l.foldl (fun z p => z.writeSr sys g p.1 p.2) x).fin = x.fin := by
  induction l generalizing x with
  | nil => rfl
  | cons p r ih => rw [List.foldl_cons, ih, Seq.writeSr_fin]
theorem Seq.endBundle_fin (x0 : Seq) (step : LoopStep) (g : Gen) (x : Seq) : (Seq.endBundle x0 step g x).fin = x.fin := by
  unfold Seq.endBundle
  simp only [Seq.writeSrs_fin]
  cases x.xfer <;> rfl

/-- A bundle of one operation from a sequencer that stands ready. `t` is the state that its slots have made. -/
theorem State.issuedOne_eq {s : State} {q : Nat} (h : Ready s q) (i : Instr) {m : Sem} {t : State} (ht : s.performSlots q [m] = t)
    (hg : t.gang q = s.gang q) (hp : t.paired q = false) (hf : (t.seq q).fin = none)
    (hpost : ∀ c ∈ s.gang q, ((t.core c).pp.post.find? fun p => p.1 == 0x14) = none) :
    ∃ C S, s.issuedOne i m q = { t with cores := C, seqs := S, free := t.free + 1 } ∧
      (∀ c, SMap.get .reset C c = if c ∈ s.gang q then (t.core c).endBundle (s.seq q).sys false (s.genOf q) else t.core c) ∧
      (∀ r, SMap.get .reset S r =
        let x := if r = q then Seq.endBundle (s.seq q) (s.seq q).onward (s.genOf q) (t.seq q) else t.seq r
        if r = s.runSeq q ∧ (s.seq q).sys = false then x.useRun else x) := by
  subst ht
  obtain ⟨C, S, he, hC, hS⟩ := State.endBundle_plain h i hg hp hpost
  have hfin : ((s.endBundle (s.performSlots q [m]) q (plainHeader [i])).seq q).fin = none := by
    rw [he]
    refine (congrArg Seq.fin (hS q)).trans ?_
    simp only [if_true]
    split
    · exact (Seq.endBundle_fin ..).trans hf
    · exact (Seq.endBundle_fin ..).trans hf
  refine ⟨C, S, ?_, hC, hS⟩
  unfold State.issuedOne State.finish
  simp only [hfin]
  rw [he]

/-- An operation that acts on the cores of its gang and on nothing else. -/
structure LocalOp (m : Sem) (s : State) (q : Nat) : Prop where
  shared : ∀ c t, m.shared s q c t = t
  once : ∀ t, m.once s q t = t
  issued : ∀ t, m.issued s q t = t
  post : ∀ c ∈ s.gang q, ((m.act s q c (s.core c)).pp.post.find? fun p => p.1 == 0x14) = none

theorem State.shareSlots_id {m : Sem} {s : State} {q : Nat} (h : ∀ c t, m.shared s q c t = t) (cs : List Nat) (t : State) :
    s.shareSlots q [m] cs t = t := by
  induction cs generalizing t with
  | nil => rfl
  | cons c r ih => simp only [State.shareSlots, State.shareCore, h, ih, ite_self]

/-- What the slots of a bundle of one local operation make. -/
theorem State.performSlots_local {s : State} {q : Nat} (h : Ready s q) {m : Sem} (hl : LocalOp m s q) :
    s.performSlots q [m] = { s with cores := (State.actAll s q [m] (s.gang q) s).cores, nextId := s.nextId + bundleIds } := by
  have hid : (State.actAll s q [m] (s.gang q) s).nextId = s.nextId := by rw [State.actAll_eq]
  unfold State.performSlots
  simp only [h.allCores, State.shareSlots_id hl.shared, State.onceSlots, hl.once, hl.issued, ite_self, hid]
  rw [State.actAll_eq]

/-- A core at the end of a bundle of one operation: its effect where it acts, then the end of the cycle. -/
def State.coreAfter (s : State) (q : Nat) (m : Sem) (c : Nat) : Core :=
  (if m.on s q c then m.act s q c (s.core c) else s.core c).endBundle (s.seq q).sys false (s.genOf q)

/-- A bundle of one local operation from a sequencer that stands ready: every core of the gang takes the effect where it acts, the next
bundle follows, and nothing else changes but the model's counters. -/
theorem State.issuedOne_local {s : State} {q : Nat} (h : Ready s q) (i : Instr) {m : Sem} (hl : LocalOp m s q) :
    ∃ C S, s.issuedOne i m q = { s with cores := C, seqs := S, nextId := s.nextId + bundleIds, free := s.free + 1 } ∧
      (∀ c, SMap.get .reset C c = if c ∈ s.gang q then s.coreAfter q m c else s.core c) ∧
      (∀ r, SMap.get .reset S r =
        let x := if r = q then Seq.endBundle (s.seq q) (s.seq q).onward (s.genOf q) (s.seq q) else s.seq r
        if r = s.runSeq q ∧ (s.seq q).sys = false then x.useRun else x) := by
  have hperf := State.performSlots_local h hl
  have hcore : ∀ c, (s.performSlots q [m]).core c =
      if c ∈ s.gang q then (if m.on s q c then m.act s q c (s.core c) else s.core c) else s.core c := by
    intro c
    rw [hperf]
    exact State.core_actAll s q m h.nodup s c
  have hq : (s.performSlots q [m]).seq = s.seq := by rw [hperf]; rfl
  obtain ⟨C, S, he, hC, hS⟩ := State.issuedOne_eq h i (m := m) rfl (by rw [hperf]; rfl) (by rw [hperf]; exact h.unpaired)
    (by rw [hq]; exact h.still.fin) (by
      intro c hc
      rw [hcore]
      simp only [hc, if_true]
      split
      · exact hl.post c hc
      · rw [h.corePost hc]; rfl)
  refine ⟨C, S, by rw [he, hperf], ?_, ?_⟩
  · intro c
    rw [hC, hcore]
    by_cases hc : c ∈ s.gang q <;> simp [hc, State.coreAfter]
  · intro r
    rw [hS, hq]

/-! ### A core at the end of the cycle (R59) -/

theorem Core.commit_pp (k : Core) (g : Gen) (e : LqEntry) : (k.commit g e).pp = k.pp := by
  unfold Core.commit; repeat' split
  all_goals rfl
theorem Core.commit_mx (k : Core) (g : Gen) (e : LqEntry) : (k.commit g e).mx = k.mx := by
  unfold Core.commit; repeat' split
  all_goals rfl
theorem Core.commit_shp (k : Core) (g : Gen) (e : LqEntry) : (k.commit g e).me.shp = k.me.shp := by
  unfold Core.commit; repeat' split
  all_goals rfl

theorem MemoryRegs.tickShapes_nil {m : MemoryRegs} (h : m.shp = []) : m.tickShapes = m := by
  cases m; simp only at h; subst h; rfl

theorem Core.commitAll_keeps (k : Core) (g : Gen) (l : List LqEntry) :
    (k.commitAll g l).pp = k.pp ∧ (k.commitAll g l).mx = k.mx ∧ (k.commitAll g l).me.shp = k.me.shp := by
  induction l generalizing k with
  | nil => exact ⟨rfl, rfl, rfl⟩
  | cons e r ih =>
    obtain ⟨h1, h2, h3⟩ := ih (k.commit g e)
    exact ⟨h1.trans (Core.commit_pp ..), h2.trans (Core.commit_mx ..), h3.trans (Core.commit_shp ..)⟩

theorem LqEntry.count_stays {e : LqEntry} (h : e.held = true ∨ 1 < e.rem) : (!e.count.held && e.count.rem == 0) = false := by
  unfold LqEntry.count
  rcases h with h | h
  · simp [h]
  · by_cases hh : e.held = true
    · simp [hh]
    · simp [hh]; omega

/-- The end of a bundle on a core whose queued results all stay: its own results commit or join the queue, and nothing else changes. -/
theorem Core.endBundle_quiet {k : Core} (hq : ∀ e ∈ k.pp.lq, e.held = true ∨ 1 < e.rem) (hs : k.me.shp = []) (hp : k.pp.post = [])
    (sys : Bool) (g : Gen) :
    k.endBundle sys false g =
      { k.commitAll g (k.pp.fresh.filter fun e => e.rem == 0) with
        pp := k.pp.settled (k.pp.fresh.filter fun e => e.rem != 0) ((k.pp.fresh.filter fun e => e.rem == 0).map LqEntry.path) } := by
  have hdone : ((k.pp.lq.map LqEntry.count).filter fun e => !e.held && e.rem == 0) = [] := by
    rw [List.filter_eq_nil_iff]
    intro e he
    obtain ⟨x, hx, rfl⟩ := List.mem_map.1 he
    simp [LqEntry.count_stays (hq x hx)]
  have hkeep : ((k.pp.lq.map LqEntry.count).filter fun e => e.held || e.rem != 0) = k.pp.lq.map LqEntry.count := by
    rw [List.filter_eq_self]
    intro e he
    obtain ⟨x, hx, rfl⟩ := List.mem_map.1 he
    have := LqEntry.count_stays (hq x hx)
    revert this
    cases x.count.held <;> cases h0 : x.count.rem == 0 <;> simp [h0, bne]
  have hc : (fun e : LqEntry => if e.held = true then e else { e with rem := e.rem - 1 }) = LqEntry.count := by
    funext e; rfl
  obtain ⟨h1, h2, h3⟩ := Core.commitAll_keeps k g (k.pp.fresh.filter fun e => e.rem == 0)
  unfold Core.endBundle Core.landCycle
  simp only [hp, hc, hdone, hkeep, List.nil_append, List.foldl_nil, Bool.false_eq_true, if_false]
  rw [MemoryRegs.tickShapes_nil (h3.trans hs), h1]
  rfl

/-- Where the sequencers stand after a bundle without a transfer or a special register of the sequencer. -/
theorem State.onward_of {s : State} {q : Nat} (h : Ready s q) {t : State}
    (hS : ∀ r, t.seq r =
        let x := if r = q then Seq.endBundle (s.seq q) (s.seq q).onward (s.genOf q) (s.seq q) else s.seq r
        if r = s.runSeq q ∧ (s.seq q).sys = false then x.useRun else x) : s.Onward t q := by
  refine ⟨?_, ?_, ?_⟩
  · have := hS q
    simp only [if_true, Seq.endBundle_onward _ h.still.xfer h.still.post] at this
    by_cases hr : q = s.runSeq q ∧ (s.seq q).sys = false
    · rw [if_pos hr] at this
      rw [this]; simp [Seq.useRun]
    · rw [if_neg hr] at this
      rw [this]
  · have := hS (s.runSeq q)
    simp only [true_and, Seq.endBundle_onward _ h.still.xfer h.still.post] at this
    rw [this]
    cases hs : (s.seq q).sys <;> by_cases hr : s.runSeq q = q <;> simp [hr, Seq.useRun]
  · intro r hr
    have := hS r
    simp only [hr, if_false] at this
    refine ⟨?_, ?_⟩
    · rw [this]; split <;> simp [Seq.useRun]
    · intro hrr; rw [this]; simp [hrr]

/-- The bundle of one local operation, in the terms of the claims. -/
theorem State.exec_local {s : State} {q : Nat} (h : Ready s q) (i : Instr) {m : Sem} (hm : Passes m s q) (hl : LocalOp m s q)
    {early : Early} (he : early s q = s) :
    ∃ t, s.runOne i m early = .next t ∧ s.Plain t q ∧ ∀ c ∈ s.gang q, t.core c = s.coreAfter q m c := by
  obtain ⟨C, S, hi, hC, hS⟩ := State.issuedOne_local h i hl
  refine ⟨_, by rw [State.runOne, State.issueOne_ready h i hm he, hi], ⟨rfl, ?_, State.onward_of h (t := { s with cores := C, seqs := S, nextId := _, free := _ }) hS⟩, ?_⟩
  · intro c hc
    exact (hC c).trans (by simp [hc])
  · intro c hc
    exact (hC c).trans (by simp [hc])

/-! ### Results -/

/-- The entry of a result of the bundle at issue (R59). -/
def landed (path : WPath) (file : RFile) (index : Nat) (g : Gen) (mask : Pred) (value : VWord) (L : Nat) : LqEntry :=
  { rem := L - 1, path := path, file := file, index := index, gen := g, mask := mask, value := value, held := false, load := none }

theorem Core.commit_withPipe (k : Core) (p : Pipe) (g : Gen) (e : LqEntry) :
    ({ k with pp := p } : Core).commit g e = { k.commit g e with pp := p } := by
  have hd : ∀ n, ({ k with pp := p } : Core).dead g n = k.dead g n := fun _ => rfl
  unfold Core.commit
  simp only [hd]
  cases e.file <;> simp only <;> repeat' split
  all_goals rfl

/-- A core after a bundle of one operation that lands one result there. -/
theorem State.coreAfter_land {s : State} {q : Nat} (h : Ready s q) {c : Nat} (hc : c ∈ s.gang q) {m : Sem} {path : WPath}
    {file : RFile} {index : Nat} {mask : Pred} {value : VWord} {L : Nat} (hL : 1 ≤ L)
    (ha : m.act s q c (s.core c) = (s.core c).land (s.genOf q) path file index mask value L) :
    s.coreAfter q m c =
      if m.on s q c then
        let e := landed path file index (s.genOf q) mask value L
        if L = 1 then { (s.core c).commit (s.genOf q) e with pp := (s.core c).pp.settled [] [path] }
        else { s.core c with pp := (s.core c).pp.settled [e] }
      else { s.core c with pp := (s.core c).pp.settled [] } := by
  have hq := h.lq hc
  have hs := (h.core hc).1.shp
  have hp := h.corePost hc
  have hf := h.fresh hc
  unfold State.coreAfter
  split
  · rw [ha]
    have := Core.endBundle_quiet (k := (s.core c).land (s.genOf q) path file index mask value L) hq hs hp (s.seq q).sys (s.genOf q)
    rw [this]
    simp only [Core.land, hf, List.nil_append]
    by_cases h1 : L = 1
    · subst h1
      simp only [Nat.sub_self, if_true, landed]
      rw [List.filter_cons_of_pos (by rfl), List.filter_cons_of_neg (by simp)]
      simp only [List.filter_nil, Core.commitAll]
      rw [Core.commit_withPipe]
      rfl
    · simp only [h1, if_false, landed]
      rw [List.filter_cons_of_neg (by simp; omega), List.filter_cons_of_pos (by simp; omega)]
      rfl
  · rw [Core.endBundle_quiet hq hs hp, hf]; rfl

/-- A result for which a core has room collides with nothing (R64 items 8 to 10). -/
theorem Core.collides_landed {k : Core} (hq : ∀ e ∈ k.pp.lq, e.held = true ∨ 1 < e.rem) {path : WPath} {file : RFile} {index L : Nat}
    (g : Gen) (mask : Pred) (value : VWord) (hL : 1 ≤ L) (hr : k.roomFor path file index L = true) :
    k.collides [landed path file index g mask value L] = false := by
  have hfull : k.pp.lq.filter (fun e => e.held || decide (1 < e.rem)) = k.pp.lq := by
    rw [List.filter_eq_self]; intro e he; simpa using hq e he
  unfold Core.collides
  simp only [Core.collides.go, hfull, List.any_nil, Bool.or_false, Bool.or_eq_false_iff, decide_eq_false_iff_not, Nat.not_lt]
  constructor
  · rw [List.any_eq_false]
    intro o ho
    by_cases h1 : L = 1
    · subst h1
      rcases hq o ho with h | h
      · simp [h]
      · simp [landed]; intro _ h2; omega
    · simp only [Core.roomFor, h1, decide_false, Bool.false_or, Bool.and_eq_true, List.all_eq_true, decide_eq_true_eq] at hr
      have := hr.2 o ho
      simp only [Bool.or_eq_true, bne_iff_ne, ne_eq, Bool.and_eq_true, Bool.not_eq_true'] at this
      simp only [landed, LqEntry.clash, Bool.and_eq_true, Bool.not_eq_true', beq_iff_eq, not_and, Bool.or_eq_true]
      rintro hh hrem
      have hL' : o.rem = L := by omega
      rcases this with (hx | hx) | hx
      · simp [hh] at hx
      · exact absurd hL' hx
      · rcases hrem with hp | hp
        · exact hx.1 hp
        · simp [hp] at hx
  · by_cases h1 : L = 1
    · subst h1; simp [landed]
    · simp only [Core.roomFor, h1, decide_false, Bool.false_or, Bool.and_eq_true, decide_eq_true_eq] at hr
      refine Nat.le_trans (List.length_filter_le _ _) ?_
      simp; omega

theorem Core.collides_nil {k : Core} : k.collides [] = false := by
  simp [Core.collides, Core.collides.go]

/-- The parts of an operation that names none of them. -/
structure Sem.Simple (m : Sem) : Prop where
  stand : m.stand = fun _ s => s
  always : m.always = fun _ _ _ => none
  check : m.check = fun _ _ _ => none
  takes : m.takes = fun _ _ _ => none
  wait : m.wait = fun _ _ _ => .none
  mem : m.mem = false
  priv : m.priv = false
  shared : m.shared = fun _ _ _ t => t
  once : m.once = fun _ _ t => t
  issued : m.issued = fun _ _ t => t

/-- An operation whose results find room on each core passes where nothing but its results holds it. -/
theorem Passes.ofFits {s : State} {q : Nat} {m : Sem} (hm : m.Simple)
    (hf : ∀ c ∈ s.gang q, (s.core c).collides (s.acted q c [m]).pp.fresh = false) : Passes m s q where
  stand := by simp [hm.stand]
  always := by simp [hm.always]
  check := by simp [hm.check]
  takes := by simp [State.tooMany, hm.takes]
  priv := by simp [hm.priv]
  fits := hf
  mem := by simp [hm.mem]
  wait := by simp [hm.wait]

/-- Each core has room for the result that an operation lands there. -/
theorem State.acted_land {s : State} {q : Nat} (h : Ready s q) {m : Sem} {path : WPath} {file : RFile} {index : Nat → Nat}
    {mask : Nat → Pred} {value : Nat → VWord} {L : Nat} (hL : 1 ≤ L)
    (ha : ∀ c, m.act s q c (s.core c) = (s.core c).land (s.genOf q) path file (index c) (mask c) (value c) L)
    (hroom : ∀ c ∈ s.gang q, m.on s q c = true → (s.core c).roomFor path file (index c) L = true) :
    ∀ c ∈ s.gang q, (s.core c).collides (s.acted q c [m]).pp.fresh = false := by
  intro c hc
  unfold State.acted
  simp only [List.foldl_cons, List.foldl_nil]
  by_cases ho : m.on s q c = true
  · simp only [ho, if_true, ha]
    simp only [Core.land, h.fresh hc, List.nil_append]
    exact Core.collides_landed (h.lq hc) _ _ _ hL (hroom c hc ho)
  · simp [ho, h.fresh hc, Core.collides_nil]

/-- A bundle of one operation that lands one result on each core where it acts, and does nothing else. -/
theorem State.exec_land {s : State} {q : Nat} (h : Ready s q) (i : Instr) {m : Sem} (hm : m.Simple) {path : WPath} {file : RFile}
    {index : Nat → Nat} {mask : Nat → Pred} {value : Nat → VWord} {L : Nat} (hL : 1 ≤ L)
    (ha : ∀ c, m.act s q c (s.core c) = (s.core c).land (s.genOf q) path file (index c) (mask c) (value c) L)
    (hroom : ∀ c ∈ s.gang q, m.on s q c = true → (s.core c).roomFor path file (index c) L = true) {early : Early}
    (he : early s q = s) :
    ∃ t, s.runOne i m early = .next t ∧ s.Plain t q ∧ ∀ c ∈ s.gang q, t.core c =
      if m.on s q c then
        let e := landed path file (index c) (s.genOf q) (mask c) (value c) L
        if L = 1 then { (s.core c).commit (s.genOf q) e with pp := (s.core c).pp.settled [] [path] }
        else { s.core c with pp := (s.core c).pp.settled [e] }
      else { s.core c with pp := (s.core c).pp.settled [] } := by
  have hpass : Passes m s q := Passes.ofFits hm (State.acted_land h hL ha hroom)
  have hloc : LocalOp m s q := ⟨by simp [hm.shared], by simp [hm.once], by simp [hm.issued], by
    intro c hc; rw [ha]; simp [Core.land, h.corePost hc]⟩
  obtain ⟨t, h1, h2, h3⟩ := State.exec_local h i hpass hloc he
  exact ⟨t, h1, h2, fun c hc => by rw [h3 c hc, State.coreAfter_land h hc hL (ha c)]⟩

end Sys2Proof.Machine
end

