-- ==== Sys2Proof/Laws/Memory.lean ====
section
/-! SUPPORT. The laws of memory: reading after a write, and the canonical form, which every memory operation keeps. -/

namespace Sys2Proof.Machine

/-! ### Reading after a write -/

theorem Memory.read_write_self (m : List Host.Cell) (a : Nat) (b : Byte) : Memory.read (Memory.write m a b) a = b :=
  SMap.get_set_self ..
theorem Memory.read_write_ne (m : List Host.Cell) {a j : Nat} (b : Byte) (h : j ≠ a) :
    Memory.read (Memory.write m a b) j = Memory.read m j := SMap.get_set_ne _ _ _ _ h

/-- Bytes outside those written read as before. -/
theorem Memory.read_writeN_ne (m : List Host.Cell) (a : Nat) (bs : List Byte) {j : Nat} (h : j < a ∨ a + bs.length ≤ j) :
    Memory.read (Memory.writeN m a bs) j = Memory.read m j := by
  induction bs generalizing m a with
  | nil => rfl
  | cons b r ih =>
    simp only [Memory.writeN, List.length_cons] at h ⊢
    rw [ih _ _ (by omega), Memory.read_write_ne _ _ (by omega)]

/-- Each byte written reads back. -/
theorem Memory.read_writeN_mem (m : List Host.Cell) (a : Nat) (bs : List Byte) {j : Nat} (h : j < bs.length) :
    Memory.read (Memory.writeN m a bs) (a + j) = bs[j] := by
  induction bs generalizing m a j with
  | nil => simp at h
  | cons b r ih =>
    simp only [Memory.writeN]
    cases j with
    | zero => rw [Memory.read_writeN_ne _ _ _ (by omega)]; exact Memory.read_write_self ..
    | succ i =>
      have := ih (Memory.write m a b) (a + 1) (j := i) (by simpa using h)
      simpa [Nat.add_assoc, Nat.add_comm 1 i] using this

/-- A range reads back what was written to it. -/
theorem Memory.readN_writeN (m : List Host.Cell) (a : Nat) (bs : List Byte) :
    Memory.readN (Memory.writeN m a bs) a bs.length = bs := by
  suffices ∀ (n : Nat) (k : Nat), k + n = bs.length → Memory.readN (Memory.writeN m a bs) (a + k) n = bs.drop k from
    this bs.length 0 (by omega)
  intro n
  induction n with
  | zero => intro k hk; simp [Memory.readN, show k = bs.length by omega]
  | succ n ih =>
    intro k hk
    have hlt : k < bs.length := by omega
    rw [Memory.readN, Memory.read_writeN_mem m a bs hlt, Nat.add_assoc, ih (k + 1) (by omega), List.drop_eq_getElem_cons hlt]

/-- A cleared range reads as nothing listed; every other byte reads as before. -/
theorem Memory.read_clear (m : List Host.Cell) (a n j : Nat) :
    Memory.read (Memory.clear m a n) j = if a ≤ j ∧ j < a + n then unlistedByte else Memory.read m j := by
  unfold Memory.read Memory.clear
  rw [SMap.get_keep]
  by_cases h : a ≤ j ∧ j < a + n <;> simp [h]

/-! ### The canonical form -/

theorem Memory.wf_write {m : List Host.Cell} (h : Memory.wf m = true) (a : Nat) (b : Byte) : Memory.wf (Memory.write m a b) = true :=
  SMap.wf_set h a b
theorem Memory.wf_writeN {m : List Host.Cell} (h : Memory.wf m = true) (a : Nat) (bs : List Byte) :
    Memory.wf (Memory.writeN m a bs) = true := by
  induction bs generalizing m a with
  | nil => exact h
  | cons b r ih => exact ih (Memory.wf_write h a b) (a + 1)
theorem Memory.wf_clear {m : List Host.Cell} (h : Memory.wf m = true) (a n : Nat) : Memory.wf (Memory.clear m a n) = true :=
  SMap.wf_keep h _

namespace State

variable {s : State}

theorem putRaw_memWf (h : s.memWf) (a : Nat) (bs : List Byte) : (s.putRaw a bs).memWf := Memory.wf_writeN h a bs
theorem setUnit_memWf (h : s.memWf) (loc : Nat) (u : TagUnit) : (s.setUnit loc u).memWf := h
theorem clearFull_memWf (h : s.memWf) (loc n : Nat) : (s.clearFull loc n).memWf := h
theorem dirty_memWf (h : s.memWf) (a : Acc) (loc : Nat) : (s.dirty a loc).memWf := by
  unfold State.dirty; split
  · exact h
  · dsimp only; split <;> exact h
theorem stamp_memWf (h : s.memWf) (a : Acc) (loc : Nat) : (s.stamp a loc).memWf := by
  unfold State.stamp; split
  · exact h
  · dsimp only; split <;> exact Memory.wf_clear h _ _
theorem writeUnit_memWf (h : s.memWf) (a : Acc) (loc : Nat) (bs : List Byte) : (s.writeUnit a loc bs).memWf := by
  have h' := stamp_memWf (dirty_memWf h a loc) a loc
  unfold State.writeUnit; dsimp only; split
  · split
    · exact putRaw_memWf (setUnit_memWf h' _ _) _ _
    · exact h'
  · exact putRaw_memWf h' _ _
theorem writeUnits_memWf (a : Acc) (k : Nat) (h : s.memWf) (loc : Nat) (bs : List Byte) : (State.writeUnits a k s loc bs).memWf := by
  induction k generalizing s loc bs with
  | zero => exact h
  | succ k ih =>
    unfold State.writeUnits; split
    · exact h
    · exact ih (writeUnit_memWf h ..) _ _
theorem writeBytes_memWf (h : s.memWf) (a : Acc) (loc : Nat) (bs : List Byte) : (s.writeBytes a loc bs).memWf :=
  writeUnits_memWf a _ h loc bs
theorem setFull_memWf (h : s.memWf) (g : Gen) (loc : Nat) (b : Bool) : (s.setFull g loc b).memWf :=
  (stamp_memWf h ..: (s.stamp _ loc).memWf)
theorem wipeRange_memWf (h : s.memWf) (loc n : Nat) : (s.wipeRange loc n).memWf := Memory.wf_clear h loc n
theorem wipeSpad_memWf (h : s.memWf) (c : Nat) : (s.wipeSpad c).memWf := wipeRange_memWf h ..

/-- Right after reset memory lists nothing. -/
theorem reset_memWf : State.reset.memWf := rfl

end State

end Sys2Proof.Machine
end

