-- ==== Sys2Proof/Tests/Slice0.lean ====
section
/-! SUPPORT. The model's own tests: words written out from the spec's encodings, ill-formed terms that the check refuses, a state that
meets the hypotheses of every statement, and single steps at values the spec works out. -/

namespace Sys2Proof

open Sys2Proof.Machine

set_option Elab.async false

/-! ### Words of each slot -/

/-- Each word of a slot decodes to its operation. -/
def Tests.decoded (l : List (Slot × Nat × Instr)) : Bool :=
  l.all fun e => decide ((decodeSlot e.1 e.2.1).toOption = some (some e.2.2))

/-- R68, R103, R104: layout A. -/
theorem test_decode_scalar_arithmetic : Tests.decoded ([
    (.scalar, 0x1A1BE8400000000, .sAdd { grd := 5, d := 3, a := 31, i := 0, b := 566935683072 }),
    (.scalar, 0x2A23D8001234567, .sSub { grd := 5, d := 4, a := 30, i := 1, b := 549774902631 }),
    (.scalar, 0x3A2BA7C00000000, .sMul { grd := 5, d := 5, a := 29, i := 0, b := 532575944704 }),
    (.scalar, 0x4A339800369D035, .sMulh { grd := 5, d := 6, a := 28, i := 1, b := 549813080117 }),
    (.scalar, 0x5A3B67400000000, .sMulhz { grd := 5, d := 7, a := 27, i := 0, b := 498216206336 }),
    (.scalar, 0x6A4358005B05B03, .sDiv { grd := 5, d := 8, a := 26, i := 1, b := 549851257603 }),
    (.scalar, 0x7A4B26C00000000, .sDivz { grd := 5, d := 9, a := 25, i := 0, b := 463856467968 }),
    (.scalar, 0x8A5318007F6E5D1, .sRem { grd := 5, d := 10, a := 24, i := 1, b := 549889435089 }),
    (.scalar, 0x9A5AE6400000000, .sAnd { grd := 5, d := 11, a := 23, i := 0, b := 429496729600 }),
    (.scalar, 0xAA62D800A3D709F, .sOr { grd := 5, d := 12, a := 22, i := 1, b := 549927612575 }),
    (.scalar, 0xBA6AA5C00000000, .sXor { grd := 5, d := 13, a := 21, i := 0, b := 395136991232 }),
    (.scalar, 0xCA729800C83FB6D, .sAndn { grd := 5, d := 14, a := 20, i := 1, b := 549965790061 }),
    (.scalar, 0xDA7A70000000033, .sShl { grd := 5, d := 15, a := 19, i := 1, b := 51 }),
    (.scalar, 0xEA8250000000032, .sShr { grd := 5, d := 16, a := 18, i := 1, b := 50 }),
    (.scalar, 0xFA8A30000000031, .sSra { grd := 5, d := 17, a := 17, i := 1, b := 49 }),
    (.scalar, 0x10A9210000000030, .sRot { grd := 5, d := 18, a := 16, i := 1, b := 48 }),
    (.scalar, 0x11A99E0000000000, .sClz { grd := 5, d := 19, a := 15, i := 0, b := 0 }),
    (.scalar, 0x12AA1C0000000000, .sCtz { grd := 5, d := 20, a := 14, i := 0, b := 0 }),
    (.scalar, 0x13AA9A0000000000, .sPopc { grd := 5, d := 21, a := 13, i := 0, b := 0 }),
    (.scalar, 0x14AB1980159E26A5, .sMin { grd := 5, d := 22, a := 12, i := 1, b := 550118500005 }),
    (.scalar, 0x15AB963400000000, .sMax { grd := 5, d := 23, a := 11, i := 0, b := 223338299392 }),
    (.scalar, 0x16AC158017E4B173, .sMinz { grd := 5, d := 24, a := 10, i := 1, b := 550156677491 }),
    (.scalar, 0x17AC922C00000000, .sMaxz { grd := 5, d := 25, a := 9, i := 0, b := 188978561024 })] : List (Slot × Nat × Instr)) = true := by decide +kernel

/-- R68, R103: the other layouts of the scalar slot. -/
theorem test_decode_scalar_others : Tests.decoded ([
    (.scalar, 0x18B3A1C00000004D, .sCmp { grd := 5, cond := 9, qd := 6, a := 33, i := 1, b := 274877907021 }),
    (.scalar, 0x19AAC05E00000000, .sSel { grd := 5, d := 21, a := 32, sb := 11, qc := 6 }),
    (.scalar, 0x1AAAC00000000005, .sLi { grd := 5, d := 21, imm := 70368744177669 }),
    (.scalar, 0x1BAB000089ABCDEF, .sLih { grd := 5, d := 22, imm := 2309737967 }),
    (.scalar, 0x1CAB0E7320000000, .sExt { grd := 5, d := 22, a := 7, lsb := 14, width := 50 }),
    (.scalar, 0x1DAB0E7320000000, .sIns { grd := 5, d := 22, a := 7, lsb := 14, width := 50 }),
    (.scalar, 0x20A00000FFFFFFF0, .sBr { grd := 5, off := 4294967280 }),
    (.scalar, 0x22A00000FFFFFFF2, .sCall { grd := 5, off := 4294967282 }),
    (.scalar, 0x21AE4C2080000001, .sBrc { grd := 5, cond := 7, a := 9, sb := 33, off := 2147483649 }),
    (.scalar, 0x23A0000000000000, .sRet { grd := 5 }),
    (.scalar, 0x24A0260000000000, .sJr { grd := 5, a := 19 }),
    (.scalar, 0x28B7555558000001, .sLoop { grd := 5, lvl := 5, i := 1, cnt := 1398101, len := 134217729 }),
    (.scalar, 0x28A8880000000003, .sLoop { grd := 5, lvl := 2, i := 0, cnt := 557056, len := 3 }),
    (.scalar, 0x29AC000000000000, .sLbrk { grd := 5, lvl := 3 }),
    (.scalar, 0x30AE894000000000, .sRdsr { grd := 5, r := 29, sr := 74 }),
    (.scalar, 0x31B0094000000000, .sWrsr { grd := 5, r := 32, sr := 74 }),
    (.scalar, 0x38A347C000000000, .sFromv { grd := 5, d := 6, vsel := 17, word := 30 }),
    (.scalar, 0x39A3700000000000, .sFroma { grd := 5, d := 6, an := 14 })] : List (Slot × Nat × Instr)) = true := by decide +kernel

/-- R70, R157. -/
theorem test_decode_matrix : Tests.decoded ([
    (.matrix, 0x1BA531400000000, .mMma { grd := 5, td := 6, ba := 9, bw := 4, v := 1, vr := 34, sel := 2 }),
    (.matrix, 0x2BA571C00000000, .mMms { grd := 5, td := 6, ba := 9, bw := 5, v := 1, vr := 35, sel := 2 }),
    (.matrix, 0x3B8000000000000, .mZero { grd := 5, t := 6 }),
    (.matrix, 0x4AF000000000000, .mAcc { grd := 5, td := 3, ts := 6 }),
    (.matrix, 0x8AF6E8000000000, .mRd { grd := 5, d := 61, ts := 5, k := 13 }),
    (.matrix, 0x9B5F58000000000, .mWr { grd := 5, td := 5, vs := 62, k := 11 }),
    (.matrix, 0xABBFE0000000000, .mSt { grd := 5, t := 6, off := 8176 }),
    (.matrix, 0x10BB0A0000000000, .mFmt { grd := 5, fb := 13, n := 16, lvl := 5 }),
    (.matrix, 0x18AE002000000000, .mSave { grd := 5, t := 3, off := 4097 }),
    (.matrix, 0x19B2006000000000, .mRest { grd := 5, t := 4, off := 4099 }),
    (.matrix, 0x1ABC000000000000, .mWait { grd := 5, t := 7 })] : List (Slot × Nat × Instr)) = true := by decide +kernel

/-- R71, R184. -/
theorem test_decode_load : Tests.decoded ([
    (.load, 0x1AA4E0000800001, .lS { grd := 5, d := 20, an := 9, sz := 6, fq := 0, off := 8388609 }),
    (.load, 0x2AAC80000800001, .lV { grd := 5, d := 21, an := 9, sz := 0, fq := 0, off := 8388609 }),
    (.load, 0x3AB4A0000800001, .lVp { grd := 5, d := 22, an := 9, sz := 2, fq := 0, off := 8388609 }),
    (.load, 0x5AC490000800001, .lB { grd := 5, d := 24, an := 9, sz := 1, fq := 0, off := 8388609 }),
    (.load, 0x6ACC80002800001, .lFe { grd := 5, d := 25, an := 9, sz := 0, fq := 2, off := 8388609 }),
    (.load, 0x4B95B0000800002, .lG { grd := 5, d := 50, ab := 11, ai := 6, off := 8388610 }),
    (.load, 0x8A06800007FFFFF, .lScl { grd := 5, an := 13, off := 8388607 }),
    (.load, 0x9B9700000000000, .lRcv { grd := 5, d := 50, ch := 14 }),
    (.load, 0x10B8674000000000, .lAadd { grd := 5, ad := 12, an := 3, i := 0, b := 7971459301376 }),
    (.load, 0x10A5B80000000009, .lAadd { grd := 5, ad := 2, an := 13, i := 1, b := 8796093022217 }),
    (.load, 0x11B68123456789AB, .lAli { grd := 5, ad := 11, imm := 141988488251819 }),
    (.load, 0x12B4D80000000000, .lAmov { grd := 5, ad := 10, sa := 27 }),
    (.load, 0x13A0300000ABCDEF, .lMpc { grd := 5, an := 6, off := 11259375 })] : List (Slot × Nat × Instr)) = true := by decide +kernel

/-- R72, R191. -/
theorem test_decode_store : Tests.decoded ([
    (.store, 0x1A7A58000800003, .wS { grd := 5, src := 30, an := 9, sz := 3, k := 0, off := 8388611 }),
    (.store, 0x2AFD80000000005, .wV { grd := 5, src := 63, an := 6, sz := 0, k := 0, off := 5 }),
    (.store, 0x3AF9D0F00000006, .wVp { grd := 5, src := 62, an := 7, sz := 2, k := 15, off := 6 }),
    (.store, 0x5AF600F00000007, .wFe { grd := 5, src := 61, an := 8, sz := 0, k := 15, off := 7 }),
    (.store, 0x4AF290800000008, .wSc { grd := 5, vs := 60, an := 10, vi := 33, off := 8 }),
    (.store, 0x8AF17AF00000009, .wAtom { grd := 5, sd := 30, sv := 11, an := 13, aop := 7, ty := 2, off := 9 }),
    (.store, 0x9AE98BF2000000A, .wCas { grd := 5, sd := 29, sc := 12, sn := 23, an := 14, ty := 1, off := 10 }),
    (.store, 0xAAF26A80000000B, .wRed { grd := 5, src := 60, vec := 1, an := 3, aop := 5, ty := 1, off := 11 }),
    (.store, 0xCAED80000000000, .wSnd { grd := 5, vs := 59, ch := 6 })] : List (Slot × Nat × Instr)) = true := by decide +kernel

/-- R73, R74, R204, R222. -/
theorem test_decode_copy_sync : Tests.decoded ([
    (.copy, 0x6EAC0000000, .cShp { grd := 5, hd := 13, sa := 22 }),
    (.copy, 0xAE5AE004000, .cGo { grd := 5, dk := 1, dst := 9, src := 6, hs := 11, tl := 2049 }),
    (.copy, 0xEE4004FFF00, .cRing { grd := 5, b := 12, base := 4097, size := 4095 }),
    (.copy, 0x22CAA9004000, .cIcinv { grd := 5, an := 9, sl := 21, scope := 4, tl := 2050 }),
    (.copy, 0x26D2C1006000, .cL2wb { grd := 5, an := 10, sl := 22, tl := 2051 }),
    (.copy, 0x2ADAE1008000, .cL2inv { grd := 5, an := 11, sl := 23, tl := 2052 }),
    (.copy, 0x42B4C0280000, .cGq { grd := 5, an := 6, gq := 9, tl := 2053 }),
    (.copy, 0x62D600000000, .cSeal { grd := 5, tpl := 21, mode := 2 }),
    (.sync, 0x6C032200000, .yTlwait { grd := 5, tl := 2054, sa := 17 }),
    (.sync, 0xAC03A400000, .yTladv { grd := 5, tl := 2055, sa := 18 }),
    (.sync, 0xEA701000000, .yTlread { grd := 5, sd := 19, tl := 2056 }),
    (.sync, 0x22C030000000, .yPhreg { grd := 5, ph := 513, mode := 2 }),
    (.sync, 0x26C120000000, .yPhdrop { grd := 5, ph := 521 }),
    (.sync, 0x2AC140000000, .yPhsig { grd := 5, ph := 522 }),
    (.sync, 0x2EC160000000, .yPhwait { grd := 5, ph := 523 }),
    (.sync, 0x42D800000000, .yFence { grd := 5, scope := 11 }),
    (.sync, 0x46B000000000, .yDrain { grd := 5, scope := 6 }),
    (.sync, 0x62BC5AC00000, .yClm { grd := 5, sk := 30, sv := 11, sh := 22 }),
    (.sync, 0x66BA50000000, .yObj { grd := 5, sk := 29, sh := 10 }),
    (.sync, 0x6ABA58000000, .yClwait { grd := 5, sk := 29, sh := 11 }),
    (.sync, 0x6EB84A800000, .yClread { grd := 5, sd := 28, sk := 9, sh := 20 }),
    (.sync, 0x82CD9D800000, .ySpawn { grd := 5, sib := 2, se := 27, sm := 14, ab := 24 }),
    (.sync, 0x86A000000000, .yJoin { grd := 5, sib := 1 }),
    (.sync, 0x8A8000000000, .yRetire { grd := 5 }),
    (.sync, 0xA68000000000, .yTret { grd := 5 }),
    (.sync, 0xC28000000000, .yGeninc { grd := 5 }),
    (.sync, 0xA2C000800000, .yTrap { grd := 5, imm := 32769 }),
    (.sync, 0xE2B500060000, .yEvt { grd := 5, sa := 26, code := 32771 }),
    (.sync, 0xE6C002800000, .yDbg { grd := 5, imm := 32773 })] : List (Slot × Nat × Instr)) = true := by decide +kernel

/-- R69, R130, on both sides. -/
theorem test_decode_vector_1 : Tests.decoded ([
    (.va, 0x1B1E583000C0000, .vadd .va { grd := 5, d := 71, a := 75, b := 3, c := 0, ty := 0, rm := 1, sat := 1, i := 0, fn := 0, k := 0 }),
    (.vb, 0x1B1E583000C0000, .vadd .vb { grd := 5, d := 71, a := 75, b := 3, c := 0, ty := 0, rm := 1, sat := 1, i := 0, fn := 0, k := 0 }),
    (.va, 0x2B1E58400340000, .vsub .va { grd := 5, d := 71, a := 75, b := 4, c := 0, ty := 1, rm := 2, sat := 1, i := 0, fn := 0, k := 0 }),
    (.vb, 0x2B1E58400340000, .vsub .vb { grd := 5, d := 71, a := 75, b := 4, c := 0, ty := 1, rm := 2, sat := 1, i := 0, fn := 0, k := 0 }),
    (.va, 0x3B1E585005C0000, .vmul .va { grd := 5, d := 71, a := 75, b := 5, c := 0, ty := 2, rm := 3, sat := 1, i := 0, fn := 0, k := 0 }),
    (.vb, 0x3B1E585005C0000, .vmul .vb { grd := 5, d := 71, a := 75, b := 5, c := 0, ty := 2, rm := 3, sat := 1, i := 0, fn := 0, k := 0 }),
    (.va, 0x4A2632180580000, .vfma .va { grd := 5, d := 9, a := 70, b := 33, c := 64, ty := 2, rm := 3, sat := 0, i := 0, fn := 0, k := 0 }),
    (.vb, 0x4A2632180580000, .vfma .vb { grd := 5, d := 9, a := 70, b := 33, c := 64, ty := 2, rm := 3, sat := 0, i := 0, fn := 0, k := 0 }),
    (.va, 0x5A2A32182340000, .vfms .va { grd := 5, d := 10, a := 70, b := 33, c := 65, ty := 1, rm := 2, sat := 1, i := 0, fn := 0, k := 0 }),
    (.vb, 0x5A2A32182340000, .vfms .vb { grd := 5, d := 10, a := 70, b := 33, c := 65, ty := 1, rm := 2, sat := 1, i := 0, fn := 0, k := 0 }),
    (.va, 0x6A2E32184080000, .vfnma .va { grd := 5, d := 11, a := 70, b := 33, c := 66, ty := 0, rm := 1, sat := 0, i := 0, fn := 0, k := 0 }),
    (.vb, 0x6A2E32184080000, .vfnma .vb { grd := 5, d := 11, a := 70, b := 33, c := 66, ty := 0, rm := 1, sat := 0, i := 0, fn := 0, k := 0 }),
    (.va, 0x7A0410300200000, .vmin .va { grd := 5, d := 1, a := 2, b := 3, c := 0, ty := 1, rm := 0, sat := 0, i := 0, fn := 0, k := 0 }),
    (.vb, 0x7A0410300200000, .vmin .vb { grd := 5, d := 1, a := 2, b := 3, c := 0, ty := 1, rm := 0, sat := 0, i := 0, fn := 0, k := 0 }),
    (.va, 0x8A1028600400000, .vmax .va { grd := 5, d := 4, a := 5, b := 6, c := 0, ty := 2, rm := 0, sat := 0, i := 0, fn := 0, k := 0 }),
    (.vb, 0x8A1028600400000, .vmax .vb { grd := 5, d := 4, a := 5, b := 6, c := 0, ty := 2, rm := 0, sat := 0, i := 0, fn := 0, k := 0 }),
    (.va, 0x9AFDF0000200000, .vabs .va { grd := 5, d := 63, a := 62, b := 0, c := 0, ty := 1, rm := 0, sat := 0, i := 0, fn := 0, k := 0 }),
    (.vb, 0x9AFDF0000200000, .vabs .vb { grd := 5, d := 63, a := 62, b := 0, c := 0, ty := 1, rm := 0, sat := 0, i := 0, fn := 0, k := 0 }),
    (.va, 0xAAF9E8000400000, .vneg .va { grd := 5, d := 62, a := 61, b := 0, c := 0, ty := 2, rm := 0, sat := 0, i := 0, fn := 0, k := 0 }),
    (.vb, 0xAAF9E8000400000, .vneg .vb { grd := 5, d := 62, a := 61, b := 0, c := 0, ty := 2, rm := 0, sat := 0, i := 0, fn := 0, k := 0 }),
    (.va, 0xBA1DE3B0040A000, .vcmp .va { grd := 5, d := 7, a := 60, b := 59, c := 0, ty := 2, rm := 0, sat := 0, i := 0, fn := 5, k := 0 }),
    (.vb, 0xBA1DE3B0040A000, .vcmp .vb { grd := 5, d := 7, a := 60, b := 59, c := 0, ty := 2, rm := 0, sat := 0, i := 0, fn := 5, k := 0 }),
    (.va, 0xCA28A0000200000, .vclass .va { grd := 5, d := 10, a := 20, b := 0, c := 0, ty := 1, rm := 0, sat := 0, i := 0, fn := 0, k := 0 }),
    (.vb, 0xCA28A0000200000, .vclass .vb { grd := 5, d := 10, a := 20, b := 0, c := 0, ty := 1, rm := 0, sat := 0, i := 0, fn := 0, k := 0 }),
    (.va, 0xDA2CF0000000000, .vrcp .va { grd := 5, d := 11, a := 30, b := 0, c := 0, ty := 0, rm := 0, sat := 0, i := 0, fn := 0, k := 0 }),
    (.vb, 0xDA2CF0000000000, .vrcp .vb { grd := 5, d := 11, a := 30, b := 0, c := 0, ty := 0, rm := 0, sat := 0, i := 0, fn := 0, k := 0 }),
    (.va, 0xEA30F8000280000, .vrsqrt .va { grd := 5, d := 12, a := 31, b := 0, c := 0, ty := 1, rm := 1, sat := 0, i := 0, fn := 0, k := 0 }),
    (.vb, 0xEA30F8000280000, .vrsqrt .vb { grd := 5, d := 12, a := 31, b := 0, c := 0, ty := 1, rm := 1, sat := 0, i := 0, fn := 0, k := 0 }),
    (.va, 0xFA3500000500000, .vsqrt .va { grd := 5, d := 13, a := 32, b := 0, c := 0, ty := 2, rm := 2, sat := 0, i := 0, fn := 0, k := 0 }),
    (.vb, 0xFA3500000500000, .vsqrt .vb { grd := 5, d := 13, a := 32, b := 0, c := 0, ty := 2, rm := 2, sat := 0, i := 0, fn := 0, k := 0 }),
    (.va, 0x10AA14AA00340000, .vdiv .va { grd := 5, d := 40, a := 41, b := 42, c := 0, ty := 1, rm := 2, sat := 1, i := 0, fn := 0, k := 0 }),
    (.vb, 0x10AA14AA00340000, .vdiv .vb { grd := 5, d := 40, a := 41, b := 42, c := 0, ty := 1, rm := 2, sat := 1, i := 0, fn := 0, k := 0 }),
    (.va, 0x11AAD68000280000, .vexp2 .va { grd := 5, d := 43, a := 45, b := 0, c := 0, ty := 1, rm := 1, sat := 0, i := 0, fn := 0, k := 0 }),
    (.vb, 0x11AAD68000280000, .vexp2 .vb { grd := 5, d := 43, a := 45, b := 0, c := 0, ty := 1, rm := 1, sat := 0, i := 0, fn := 0, k := 0 }),
    (.va, 0x12AB170000540000, .vlog2 .va { grd := 5, d := 44, a := 46, b := 0, c := 0, ty := 2, rm := 2, sat := 1, i := 0, fn := 0, k := 0 }),
    (.vb, 0x12AB170000540000, .vlog2 .vb { grd := 5, d := 44, a := 46, b := 0, c := 0, ty := 2, rm := 2, sat := 1, i := 0, fn := 0, k := 0 }),
    (.va, 0x13ABD80000380000, .vrnd .va { grd := 5, d := 47, a := 48, b := 0, c := 0, ty := 1, rm := 3, sat := 0, i := 0, fn := 0, k := 0 }),
    (.vb, 0x13ABD80000380000, .vrnd .vb { grd := 5, d := 47, a := 48, b := 0, c := 0, ty := 1, rm := 3, sat := 0, i := 0, fn := 0, k := 0 }),
    (.va, 0x14AC5933004C0000, .vscale .va { grd := 5, d := 49, a := 50, b := 51, c := 0, ty := 2, rm := 1, sat := 1, i := 0, fn := 0, k := 0 }),
    (.vb, 0x14AC5933004C0000, .vscale .vb { grd := 5, d := 49, a := 50, b := 51, c := 0, ty := 2, rm := 1, sat := 1, i := 0, fn := 0, k := 0 }),
    (.va, 0x15AD1A8000148030, .vcvt .va { grd := 5, d := 52, a := 53, b := 0, c := 0, ty := 0, rm := 2, sat := 1, i := 0, fn := 4, k := 3 }),
    (.vb, 0x15AD1A8000148030, .vcvt .vb { grd := 5, d := 52, a := 53, b := 0, c := 0, ty := 0, rm := 2, sat := 1, i := 0, fn := 4, k := 3 }),
    (.va, 0x18AD9B8000480000, .vredsum .va { grd := 5, d := 54, a := 55, b := 0, c := 0, ty := 2, rm := 1, sat := 0, i := 0, fn := 0, k := 0 }),
    (.vb, 0x18AD9B8000480000, .vredsum .vb { grd := 5, d := 54, a := 55, b := 0, c := 0, ty := 2, rm := 1, sat := 0, i := 0, fn := 0, k := 0 })] : List (Slot × Nat × Instr)) = true := by decide +kernel

/-- R69, R130, on both sides. -/
theorem test_decode_vector_2 : Tests.decoded ([
    (.va, 0x19AE1C8001000000, .vredmax .va { grd := 5, d := 56, a := 57, b := 0, c := 0, ty := 8, rm := 0, sat := 0, i := 0, fn := 0, k := 0 }),
    (.vb, 0x19AE1C8001000000, .vredmax .vb { grd := 5, d := 56, a := 57, b := 0, c := 0, ty := 8, rm := 0, sat := 0, i := 0, fn := 0, k := 0 }),
    (.va, 0x1AAE9D8000A00000, .vredmin .va { grd := 5, d := 58, a := 59, b := 0, c := 0, ty := 5, rm := 0, sat := 0, i := 0, fn := 0, k := 0 }),
    (.vb, 0x1AAE9D8000A00000, .vredmin .vb { grd := 5, d := 58, a := 59, b := 0, c := 0, ty := 5, rm := 0, sat := 0, i := 0, fn := 0, k := 0 }),
    (.va, 0x20A30B2000A40000, .viadd .va { grd := 5, d := 12, a := 22, b := 32, c := 0, ty := 5, rm := 0, sat := 1, i := 0, fn := 0, k := 0 }),
    (.vb, 0x20A30B2000A40000, .viadd .vb { grd := 5, d := 12, a := 22, b := 32, c := 0, ty := 5, rm := 0, sat := 1, i := 0, fn := 0, k := 0 }),
    (.va, 0x21A34BA100C40000, .visub .va { grd := 5, d := 13, a := 23, b := 33, c := 0, ty := 6, rm := 0, sat := 1, i := 0, fn := 0, k := 0 }),
    (.vb, 0x21A34BA100C40000, .visub .vb { grd := 5, d := 13, a := 23, b := 33, c := 0, ty := 6, rm := 0, sat := 1, i := 0, fn := 0, k := 0 }),
    (.va, 0x22A38C2200E40000, .vimul .va { grd := 5, d := 14, a := 24, b := 34, c := 0, ty := 7, rm := 0, sat := 1, i := 0, fn := 0, k := 0 }),
    (.vb, 0x22A38C2200E40000, .vimul .vb { grd := 5, d := 14, a := 24, b := 34, c := 0, ty := 7, rm := 0, sat := 1, i := 0, fn := 0, k := 0 }),
    (.va, 0x23A3CCA301200000, .vimulh .va { grd := 5, d := 15, a := 25, b := 35, c := 0, ty := 9, rm := 0, sat := 0, i := 0, fn := 0, k := 0 }),
    (.vb, 0x23A3CCA301200000, .vimulh .vb { grd := 5, d := 15, a := 25, b := 35, c := 0, ty := 9, rm := 0, sat := 0, i := 0, fn := 0, k := 0 }),
    (.va, 0x24A40D245D440000, .vimad .va { grd := 5, d := 16, a := 26, b := 36, c := 46, ty := 10, rm := 0, sat := 1, i := 0, fn := 0, k := 0 }),
    (.vb, 0x24A40D245D440000, .vimad .vb { grd := 5, d := 16, a := 26, b := 36, c := 46, ty := 10, rm := 0, sat := 1, i := 0, fn := 0, k := 0 }),
    (.va, 0x25A44DA500C00000, .vand .va { grd := 5, d := 17, a := 27, b := 37, c := 0, ty := 6, rm := 0, sat := 0, i := 0, fn := 0, k := 0 }),
    (.vb, 0x25A44DA500C00000, .vand .vb { grd := 5, d := 17, a := 27, b := 37, c := 0, ty := 6, rm := 0, sat := 0, i := 0, fn := 0, k := 0 }),
    (.va, 0x26A48E2600E00000, .vor .va { grd := 5, d := 18, a := 28, b := 38, c := 0, ty := 7, rm := 0, sat := 0, i := 0, fn := 0, k := 0 }),
    (.vb, 0x26A48E2600E00000, .vor .vb { grd := 5, d := 18, a := 28, b := 38, c := 0, ty := 7, rm := 0, sat := 0, i := 0, fn := 0, k := 0 }),
    (.va, 0x27A4CEA701000000, .vxor .va { grd := 5, d := 19, a := 29, b := 39, c := 0, ty := 8, rm := 0, sat := 0, i := 0, fn := 0, k := 0 }),
    (.vb, 0x27A4CEA701000000, .vxor .vb { grd := 5, d := 19, a := 29, b := 39, c := 0, ty := 8, rm := 0, sat := 0, i := 0, fn := 0, k := 0 }),
    (.va, 0x28A50F2801200000, .vandn .va { grd := 5, d := 20, a := 30, b := 40, c := 0, ty := 9, rm := 0, sat := 0, i := 0, fn := 0, k := 0 }),
    (.vb, 0x28A50F2801200000, .vandn .vb { grd := 5, d := 20, a := 30, b := 40, c := 0, ty := 9, rm := 0, sat := 0, i := 0, fn := 0, k := 0 }),
    (.va, 0x29A54F8900E00000, .vshl .va { grd := 5, d := 21, a := 31, b := 9, c := 0, ty := 7, rm := 0, sat := 0, i := 0, fn := 0, k := 0 }),
    (.vb, 0x29A54F8900E00000, .vshl .vb { grd := 5, d := 21, a := 31, b := 9, c := 0, ty := 7, rm := 0, sat := 0, i := 0, fn := 0, k := 0 }),
    (.va, 0x2AA5900001021FE0, .vshr .va { grd := 5, d := 22, a := 32, b := 0, c := 0, ty := 8, rm := 0, sat := 0, i := 1, fn := 0, k := 510 }),
    (.vb, 0x2AA5900001021FE0, .vshr .vb { grd := 5, d := 22, a := 32, b := 0, c := 0, ty := 8, rm := 0, sat := 0, i := 1, fn := 0, k := 510 }),
    (.va, 0x2BA5D08001221FD0, .vsra .va { grd := 5, d := 23, a := 33, b := 0, c := 0, ty := 9, rm := 0, sat := 0, i := 1, fn := 0, k := 509 }),
    (.vb, 0x2BA5D08001221FD0, .vsra .vb { grd := 5, d := 23, a := 33, b := 0, c := 0, ty := 9, rm := 0, sat := 0, i := 1, fn := 0, k := 509 }),
    (.va, 0x2CA6112C00A00000, .vimin .va { grd := 5, d := 24, a := 34, b := 44, c := 0, ty := 5, rm := 0, sat := 0, i := 0, fn := 0, k := 0 }),
    (.vb, 0x2CA6112C00A00000, .vimin .vb { grd := 5, d := 24, a := 34, b := 44, c := 0, ty := 5, rm := 0, sat := 0, i := 0, fn := 0, k := 0 }),
    (.va, 0x2DA651AD01400000, .vimax .va { grd := 5, d := 25, a := 35, b := 45, c := 0, ty := 10, rm := 0, sat := 0, i := 0, fn := 0, k := 0 }),
    (.vb, 0x2DA651AD01400000, .vimax .vb { grd := 5, d := 25, a := 35, b := 45, c := 0, ty := 10, rm := 0, sat := 0, i := 0, fn := 0, k := 0 }),
    (.va, 0x2EA6920000E00000, .vpopc .va { grd := 5, d := 26, a := 36, b := 0, c := 0, ty := 7, rm := 0, sat := 0, i := 0, fn := 0, k := 0 }),
    (.vb, 0x2EA6920000E00000, .vpopc .vb { grd := 5, d := 26, a := 36, b := 0, c := 0, ty := 7, rm := 0, sat := 0, i := 0, fn := 0, k := 0 }),
    (.va, 0x2FA6D28001000000, .vclz .va { grd := 5, d := 27, a := 37, b := 0, c := 0, ty := 8, rm := 0, sat := 0, i := 0, fn := 0, k := 0 }),
    (.vb, 0x2FA6D28001000000, .vclz .vb { grd := 5, d := 27, a := 37, b := 0, c := 0, ty := 8, rm := 0, sat := 0, i := 0, fn := 0, k := 0 }),
    (.va, 0x30A1532701212000, .vicmp .va { grd := 5, d := 5, a := 38, b := 39, c := 0, ty := 9, rm := 0, sat := 0, i := 0, fn := 9, k := 0 }),
    (.vb, 0x30A1532701212000, .vicmp .vb { grd := 5, d := 5, a := 38, b := 39, c := 0, ty := 9, rm := 0, sat := 0, i := 0, fn := 9, k := 0 }),
    (.va, 0x38A7143200600000, .vperm .va { grd := 5, d := 28, a := 40, b := 50, c := 0, ty := 3, rm := 0, sat := 0, i := 0, fn := 0, k := 0 }),
    (.vb, 0x38A7143200600000, .vperm .vb { grd := 5, d := 28, a := 40, b := 50, c := 0, ty := 3, rm := 0, sat := 0, i := 0, fn := 0, k := 0 }),
    (.va, 0x39A7548000800FF0, .vbcast .va { grd := 5, d := 29, a := 41, b := 0, c := 0, ty := 4, rm := 0, sat := 0, i := 0, fn := 0, k := 255 }),
    (.vb, 0x39A7548000800FF0, .vbcast .vb { grd := 5, d := 29, a := 41, b := 0, c := 0, ty := 4, rm := 0, sat := 0, i := 0, fn := 0, k := 255 }),
    (.va, 0x3AA79534004007F0, .vlsh .va { grd := 5, d := 30, a := 42, b := 52, c := 0, ty := 2, rm := 0, sat := 0, i := 0, fn := 0, k := 127 }),
    (.vb, 0x3AA79534004007F0, .vlsh .vb { grd := 5, d := 30, a := 42, b := 52, c := 0, ty := 2, rm := 0, sat := 0, i := 0, fn := 0, k := 127 })] : List (Slot × Nat × Instr)) = true := by decide +kernel

/-- R69, R130, on both sides. -/
theorem test_decode_vector_3 : Tests.decoded ([
    (.va, 0x3BA7D5B500000010, .vzip .va { grd := 5, d := 31, a := 43, b := 53, c := 0, ty := 0, rm := 0, sat := 0, i := 0, fn := 0, k := 1 }),
    (.vb, 0x3BA7D5B500000010, .vzip .vb { grd := 5, d := 31, a := 43, b := 53, c := 0, ty := 0, rm := 0, sat := 0, i := 0, fn := 0, k := 1 }),
    (.va, 0x3CA8163601400010, .vunzip .va { grd := 5, d := 32, a := 44, b := 54, c := 0, ty := 10, rm := 0, sat := 0, i := 0, fn := 0, k := 1 }),
    (.vb, 0x3CA8163601400010, .vunzip .vb { grd := 5, d := 32, a := 44, b := 54, c := 0, ty := 10, rm := 0, sat := 0, i := 0, fn := 0, k := 1 }),
    (.va, 0x3DA8568000C00000, .vrev .va { grd := 5, d := 33, a := 45, b := 0, c := 0, ty := 6, rm := 0, sat := 0, i := 0, fn := 0, k := 0 }),
    (.vb, 0x3DA8568000C00000, .vrev .vb { grd := 5, d := 33, a := 45, b := 0, c := 0, ty := 6, rm := 0, sat := 0, i := 0, fn := 0, k := 0 }),
    (.va, 0x3EA897380D000000, .vsel .va { grd := 5, d := 34, a := 46, b := 56, c := 6, ty := 8, rm := 0, sat := 0, i := 0, fn := 0, k := 0 }),
    (.vb, 0x3EA897380D000000, .vsel .vb { grd := 5, d := 34, a := 46, b := 56, c := 6, ty := 8, rm := 0, sat := 0, i := 0, fn := 0, k := 0 }),
    (.va, 0x3FA8D7800A200000, .vcompress .va { grd := 5, d := 35, a := 47, b := 0, c := 5, ty := 1, rm := 0, sat := 0, i := 0, fn := 0, k := 0 }),
    (.vb, 0x3FA8D7800A200000, .vcompress .vb { grd := 5, d := 35, a := 47, b := 0, c := 5, ty := 1, rm := 0, sat := 0, i := 0, fn := 0, k := 0 }),
    (.va, 0x40A9180006E00000, .vexpand .va { grd := 5, d := 36, a := 48, b := 0, c := 3, ty := 7, rm := 0, sat := 0, i := 0, fn := 0, k := 0 }),
    (.vb, 0x40A9180006E00000, .vexpand .vb { grd := 5, d := 36, a := 48, b := 0, c := 3, ty := 7, rm := 0, sat := 0, i := 0, fn := 0, k := 0 }),
    (.va, 0x48A0438200000000, .pand .va { grd := 5, d := 1, a := 7, b := 2, c := 0, ty := 0, rm := 0, sat := 0, i := 0, fn := 0, k := 0 }),
    (.vb, 0x48A0438200000000, .pand .vb { grd := 5, d := 1, a := 7, b := 2, c := 0, ty := 0, rm := 0, sat := 0, i := 0, fn := 0, k := 0 }),
    (.va, 0x49A0830300000000, .por .va { grd := 5, d := 2, a := 6, b := 3, c := 0, ty := 0, rm := 0, sat := 0, i := 0, fn := 0, k := 0 }),
    (.vb, 0x49A0830300000000, .por .vb { grd := 5, d := 2, a := 6, b := 3, c := 0, ty := 0, rm := 0, sat := 0, i := 0, fn := 0, k := 0 }),
    (.va, 0x4AA0C28400000000, .pxor .va { grd := 5, d := 3, a := 5, b := 4, c := 0, ty := 0, rm := 0, sat := 0, i := 0, fn := 0, k := 0 }),
    (.vb, 0x4AA0C28400000000, .pxor .vb { grd := 5, d := 3, a := 5, b := 4, c := 0, ty := 0, rm := 0, sat := 0, i := 0, fn := 0, k := 0 }),
    (.va, 0x4BA1808000000000, .pnot .va { grd := 5, d := 6, a := 1, b := 0, c := 0, ty := 0, rm := 0, sat := 0, i := 0, fn := 0, k := 0 }),
    (.vb, 0x4BA1808000000000, .pnot .vb { grd := 5, d := 6, a := 1, b := 0, c := 0, ty := 0, rm := 0, sat := 0, i := 0, fn := 0, k := 0 }),
    (.va, 0x4C07430000000000, .pcnt .va { grd := 0, d := 29, a := 6, b := 0, c := 0, ty := 0, rm := 0, sat := 0, i := 0, fn := 0, k := 0 }),
    (.vb, 0x4C07430000000000, .pcnt .vb { grd := 0, d := 29, a := 6, b := 0, c := 0, ty := 0, rm := 0, sat := 0, i := 0, fn := 0, k := 0 }),
    (.va, 0x4D07828000000000, .pfirst .va { grd := 0, d := 30, a := 5, b := 0, c := 0, ty := 0, rm := 0, sat := 0, i := 0, fn := 0, k := 0 }),
    (.vb, 0x4D07828000000000, .pfirst .vb { grd := 0, d := 30, a := 5, b := 0, c := 0, ty := 0, rm := 0, sat := 0, i := 0, fn := 0, k := 0 }),
    (.va, 0x4EA1000001200800, .pset .va { grd := 5, d := 4, a := 0, b := 0, c := 0, ty := 9, rm := 0, sat := 0, i := 0, fn := 0, k := 128 }),
    (.vb, 0x4EA1000001200800, .pset .vb { grd := 5, d := 4, a := 0, b := 0, c := 0, ty := 9, rm := 0, sat := 0, i := 0, fn := 0, k := 128 }),
    (.va, 0x50A958BB001C6030, .vqnt .va { grd := 5, d := 37, a := 49, b := 59, c := 0, ty := 0, rm := 3, sat := 1, i := 0, fn := 3, k := 3 }),
    (.vb, 0x50A958BB001C6030, .vqnt .vb { grd := 5, d := 37, a := 49, b := 59, c := 0, ty := 0, rm := 3, sat := 1, i := 0, fn := 3, k := 3 }),
    (.va, 0x51A9998000400000, .vgmax .va { grd := 5, d := 38, a := 51, b := 0, c := 0, ty := 2, rm := 0, sat := 0, i := 0, fn := 0, k := 0 }),
    (.vb, 0x51A9998000400000, .vgmax .vb { grd := 5, d := 38, a := 51, b := 0, c := 0, ty := 2, rm := 0, sat := 0, i := 0, fn := 0, k := 0 }),
    (.va, 0x58056300000001F0, .tos .va { grd := 0, d := 21, a := 70, b := 0, c := 0, ty := 0, rm := 0, sat := 0, i := 0, fn := 0, k := 31 }),
    (.vb, 0x58056300000001F0, .tos .vb { grd := 0, d := 21, a := 70, b := 0, c := 0, ty := 0, rm := 0, sat := 0, i := 0, fn := 0, k := 31 }),
    (.va, 0x59A9C08000C00000, .froms .va { grd := 5, d := 39, a := 1, b := 0, c := 0, ty := 6, rm := 0, sat := 0, i := 0, fn := 0, k := 0 }),
    (.vb, 0x59A9C08000C00000, .froms .vb { grd := 5, d := 39, a := 1, b := 0, c := 0, ty := 6, rm := 0, sat := 0, i := 0, fn := 0, k := 0 })] : List (Slot × Nat × Instr)) = true := by decide +kernel

/-! ### Ill-formed terms and words -/

/-- The checks refuse each operation, by the item of R64 that its fields fail. -/
def Tests.refused (l : List (Instr × DecodeErr)) : Bool := l.all fun e => decide (e.1.wfError = some e.2) && !e.1.wf

/-- The decoder refuses each word of a slot, by the item of R64 that it fails. -/
def Tests.rejected (l : List (Slot × Nat × DecodeErr)) : Bool := l.all fun e => match decodeSlot e.1 e.2.1 with
  | .error x => decide (x = e.2.2)
  | .ok _ => false

/-- The checks of the scalar slot (R64, R103, R104, R107, R110, R115, R119, R122). -/
theorem test_ill_formed_scalar : Tests.refused ([
    (.sAdd { grd := 0, d := 32, a := 4, i := 0, b := 0x1400000000 }, .reservedOperand),
    (.sAdd { grd := 0, d := 3, a := 34, i := 0, b := 0x1400000000 }, .reservedOperand),
    (.sClz { grd := 0, d := 3, a := 4, i := 0, b := 1 }, .unassignedFunction),
    (.sClz { grd := 0, d := 3, a := 4, i := 1, b := 0 }, .unassignedFunction),
    (.sSub { grd := 0, d := 3, a := 4, i := 0, b := 0x1400000001 }, .reservedField),
    (.sMul { grd := 0, d := 3, a := 4, i := 0, b := 0x8800000000 }, .reservedOperand),
    (.sShl { grd := 0, d := 3, a := 4, i := 1, b := 64 }, .reservedField),
    (.sRot { grd := 0, d := 3, a := 4, i := 1, b := 0x8000000000 }, .reservedField),
    (.sCmp { grd := 0, cond := 10, qd := 1, a := 3, i := 1, b := 0 }, .unassignedFunction),
    (.sCmp { grd := 0, cond := 0, qd := 1, a := 34, i := 1, b := 0 }, .reservedOperand),
    (.sCmp { grd := 0, cond := 0, qd := 1, a := 3, i := 0, b := 1 }, .reservedField),
    (.sCmp { grd := 0, cond := 0, qd := 1, a := 3, i := 0, b := 292057776128 }, .reservedOperand),
    (.sSel { grd := 0, d := 32, a := 1, sb := 2, qc := 1 }, .reservedOperand),
    (.sSel { grd := 0, d := 3, a := 34, sb := 2, qc := 1 }, .reservedOperand),
    (.sSel { grd := 0, d := 3, a := 3, sb := 34, qc := 1 }, .reservedOperand),
    (.sLi { grd := 0, d := 32, imm := 0 }, .reservedOperand),
    (.sLih { grd := 0, d := 33, imm := 0 }, .reservedOperand),
    (.sExt { grd := 0, d := 32, a := 1, lsb := 0, width := 1 }, .reservedOperand),
    (.sExt { grd := 0, d := 3, a := 34, lsb := 0, width := 1 }, .reservedOperand),
    (.sExt { grd := 0, d := 3, a := 3, lsb := 0, width := 0 }, .unassignedFunction),
    (.sIns { grd := 0, d := 3, a := 3, lsb := 33, width := 32 }, .unassignedFunction),
    (.sBrc { grd := 0, cond := 10, a := 1, sb := 2, off := 0 }, .unassignedFunction),
    (.sBrc { grd := 0, cond := 9, a := 34, sb := 2, off := 0 }, .reservedOperand),
    (.sBrc { grd := 0, cond := 9, a := 3, sb := 34, off := 0 }, .reservedOperand),
    (.sJr { grd := 0, a := 34 }, .reservedOperand),
    (.sLoop { grd := 0, lvl := 6, i := 1, cnt := 0, len := 1 }, .unassignedFunction),
    (.sLoop { grd := 0, lvl := 5, i := 1, cnt := 0, len := 0 }, .unassignedFunction),
    (.sLoop { grd := 0, lvl := 5, i := 0, cnt := 1, len := 1 }, .reservedField),
    (.sLoop { grd := 0, lvl := 5, i := 0, cnt := 1114112, len := 1 }, .reservedOperand),
    (.sLbrk { grd := 0, lvl := 6 }, .unassignedFunction),
    (.sRdsr { grd := 0, r := 32, sr := 0 }, .reservedOperand),
    (.sRdsr { grd := 0, r := 3, sr := 4 }, .reservedOperand),
    (.sWrsr { grd := 0, r := 34, sr := 0 }, .reservedOperand),
    (.sWrsr { grd := 0, r := 3, sr := 70 }, .reservedOperand),
    (.sFromv { grd := 0, d := 32, vsel := 0, word := 0 }, .reservedOperand),
    (.sFromv { grd := 0, d := 3, vsel := 20, word := 0 }, .reservedOperand),
    (.sFroma { grd := 0, d := 32, an := 1 }, .reservedOperand)] : List (Instr × DecodeErr)) = true := by decide +kernel

/-- The checks of the vector slots (R64, R128, R131, R143 to R151). -/
theorem test_ill_formed_vector : Tests.refused ([
    (.vadd .va { grd := 0, d := 1, a := 2, b := 0, c := 0, ty := 13, rm := 0, sat := 0, i := 0, fn := 0, k := 0 }, .reservedOperand),
    (.vadd .va { grd := 0, d := 1, a := 2, b := 0, c := 0, ty := 5, rm := 0, sat := 0, i := 0, fn := 0, k := 0 }, .unassignedFunction),
    (.pand .va { grd := 0, d := 1, a := 2, b := 3, c := 0, ty := 1, rm := 0, sat := 0, i := 0, fn := 0, k := 0 }, .reservedField),
    (.tos .va { grd := 1, d := 1, a := 2, b := 0, c := 0, ty := 0, rm := 0, sat := 0, i := 0, fn := 0, k := 0 }, .reservedField),
    (.vadd .va { grd := 0, d := 1, a := 2, b := 0, c := 0, ty := 0, rm := 0, sat := 0, i := 1, fn := 0, k := 0 }, .unassignedFunction),
    (.vmin .va { grd := 0, d := 1, a := 2, b := 0, c := 0, ty := 0, rm := 1, sat := 0, i := 0, fn := 0, k := 0 }, .reservedField),
    (.vimulh .va { grd := 0, d := 1, a := 2, b := 0, c := 0, ty := 5, rm := 0, sat := 1, i := 0, fn := 0, k := 0 }, .reservedField),
    (.vrnd .va { grd := 0, d := 1, a := 2, b := 0, c := 0, ty := 0, rm := 0, sat := 1, i := 0, fn := 0, k := 0 }, .reservedField),
    (.vcvt .va { grd := 0, d := 1, a := 2, b := 0, c := 0, ty := 0, rm := 0, sat := 1, i := 0, fn := 5, k := 0 }, .reservedField),
    (.vcvt .va { grd := 0, d := 1, a := 2, b := 0, c := 0, ty := 5, rm := 1, sat := 0, i := 0, fn := 6, k := 0 }, .reservedField),
    (.vredsum .va { grd := 0, d := 1, a := 2, b := 0, c := 0, ty := 5, rm := 1, sat := 0, i := 0, fn := 0, k := 0 }, .reservedField),
    (.vredsum .va { grd := 0, d := 1, a := 2, b := 0, c := 0, ty := 0, rm := 0, sat := 1, i := 0, fn := 0, k := 0 }, .reservedField),
    (.vqnt .va { grd := 0, d := 1, a := 2, b := 0, c := 0, ty := 0, rm := 0, sat := 1, i := 0, fn := 7, k := 0 }, .reservedField),
    (.vadd .va { grd := 0, d := 1, a := 2, b := 0, c := 0, ty := 0, rm := 0, sat := 0, i := 0, fn := 1, k := 0 }, .reservedField),
    (.vcmp .va { grd := 0, d := 1, a := 2, b := 0, c := 0, ty := 0, rm := 0, sat := 0, i := 0, fn := 6, k := 0 }, .unassignedFunction),
    (.vicmp .va { grd := 0, d := 1, a := 2, b := 0, c := 0, ty := 5, rm := 0, sat := 0, i := 0, fn := 10, k := 0 }, .unassignedFunction),
    (.vicmp .va { grd := 0, d := 1, a := 2, b := 0, c := 0, ty := 7, rm := 0, sat := 0, i := 0, fn := 0, k := 0 }, .unassignedFunction),
    (.vcvt .va { grd := 0, d := 1, a := 2, b := 0, c := 0, ty := 1, rm := 0, sat := 0, i := 0, fn := 1, k := 0 }, .unassignedFunction),
    (.vcvt .va { grd := 0, d := 1, a := 2, b := 0, c := 0, ty := 1, rm := 0, sat := 0, i := 0, fn := 11, k := 0 }, .unassignedFunction),
    (.vqnt .va { grd := 0, d := 1, a := 2, b := 0, c := 0, ty := 0, rm := 0, sat := 0, i := 0, fn := 5, k := 0 }, .unassignedFunction),
    (.vadd .va { grd := 0, d := 1, a := 2, b := 0, c := 0, ty := 0, rm := 0, sat := 0, i := 0, fn := 0, k := 1 }, .reservedField),
    (.vcvt .va { grd := 0, d := 1, a := 2, b := 0, c := 0, ty := 0, rm := 0, sat := 0, i := 0, fn := 3, k := 4 }, .unassignedFunction),
    (.vbcast .va { grd := 0, d := 1, a := 2, b := 0, c := 0, ty := 0, rm := 0, sat := 0, i := 0, fn := 0, k := 64 }, .unassignedFunction),
    (.vbcast .va { grd := 0, d := 1, a := 2, b := 0, c := 0, ty := 1, rm := 0, sat := 0, i := 0, fn := 0, k := 128 }, .unassignedFunction),
    (.vzip .va { grd := 0, d := 1, a := 2, b := 0, c := 0, ty := 0, rm := 0, sat := 0, i := 0, fn := 0, k := 2 }, .unassignedFunction),
    (.tos .va { grd := 0, d := 1, a := 2, b := 0, c := 0, ty := 0, rm := 0, sat := 0, i := 0, fn := 0, k := 32 }, .unassignedFunction),
    (.pset .va { grd := 0, d := 1, a := 0, b := 0, c := 0, ty := 0, rm := 0, sat := 0, i := 0, fn := 0, k := 65 }, .unassignedFunction),
    (.pset .va { grd := 0, d := 1, a := 0, b := 0, c := 0, ty := 1, rm := 0, sat := 0, i := 0, fn := 0, k := 129 }, .unassignedFunction),
    (.pset .va { grd := 0, d := 1, a := 0, b := 0, c := 0, ty := 7, rm := 0, sat := 0, i := 0, fn := 0, k := 1 }, .unassignedFunction),
    (.vshl .va { grd := 0, d := 1, a := 2, b := 3, c := 0, ty := 5, rm := 0, sat := 0, i := 0, fn := 0, k := 1 }, .unassignedFunction),
    (.vshl .va { grd := 0, d := 1, a := 2, b := 3, c := 0, ty := 5, rm := 0, sat := 0, i := 1, fn := 0, k := 1 }, .reservedField),
    (.vadd .va { grd := 0, d := 72, a := 2, b := 0, c := 0, ty := 0, rm := 0, sat := 0, i := 0, fn := 0, k := 0 }, .reservedOperand),
    (.vadd .va { grd := 0, d := 1, a := 76, b := 0, c := 0, ty := 0, rm := 0, sat := 0, i := 0, fn := 0, k := 0 }, .reservedOperand),
    (.vadd .va { grd := 0, d := 1, a := 2, b := 76, c := 0, ty := 0, rm := 0, sat := 0, i := 0, fn := 0, k := 0 }, .reservedOperand),
    (.vfma .va { grd := 0, d := 1, a := 2, b := 0, c := 76, ty := 0, rm := 0, sat := 0, i := 0, fn := 0, k := 0 }, .reservedOperand),
    (.vabs .va { grd := 0, d := 1, a := 2, b := 1, c := 0, ty := 0, rm := 0, sat := 0, i := 0, fn := 0, k := 0 }, .reservedField),
    (.vabs .va { grd := 0, d := 1, a := 2, b := 0, c := 1, ty := 0, rm := 0, sat := 0, i := 0, fn := 0, k := 0 }, .reservedField),
    (.vsel .va { grd := 0, d := 1, a := 2, b := 0, c := 8, ty := 0, rm := 0, sat := 0, i := 0, fn := 0, k := 0 }, .reservedField),
    (.vcmp .va { grd := 0, d := 8, a := 2, b := 0, c := 0, ty := 0, rm := 0, sat := 0, i := 0, fn := 0, k := 0 }, .reservedField),
    (.pcnt .va { grd := 0, d := 32, a := 1, b := 0, c := 0, ty := 0, rm := 0, sat := 0, i := 0, fn := 0, k := 0 }, .reservedOperand),
    (.pcnt .va { grd := 0, d := 64, a := 1, b := 0, c := 0, ty := 0, rm := 0, sat := 0, i := 0, fn := 0, k := 0 }, .reservedField),
    (.froms .va { grd := 0, d := 1, a := 2, b := 0, c := 0, ty := 0, rm := 0, sat := 0, i := 0, fn := 0, k := 0 }, .reservedOperand),
    (.vadd .vb { grd := 0, d := 72, a := 2, b := 0, c := 0, ty := 0, rm := 0, sat := 0, i := 0, fn := 0, k := 0 }, .reservedOperand)] : List (Instr × DecodeErr)) = true := by decide +kernel

/-- The checks of the matrix and load slots (R64, R157, R158, R184 to R187). -/
theorem test_ill_formed_matrix_load : Tests.refused ([
    (.mMma { grd := 0, td := 0, ba := 1, bw := 1, v := 0, vr := 0, sel := 0 }, .unassignedFunction),
    (.mMma { grd := 0, td := 0, ba := 0, bw := 1, v := 0, vr := 1, sel := 0 }, .reservedField),
    (.mMms { grd := 0, td := 0, ba := 0, bw := 1, v := 0, vr := 0, sel := 1 }, .reservedField),
    (.mMms { grd := 0, td := 0, ba := 0, bw := 1, v := 1, vr := 0, sel := 0 }, .unassignedFunction),
    (.mRd { grd := 0, d := 64, ts := 0, k := 0 }, .unassignedFunction),
    (.mWr { grd := 0, td := 0, vs := 0, k := 0 }, .unassignedFunction),
    (.mWr { grd := 0, td := 0, vs := 64, k := 0 }, .unassignedFunction),
    (.mSt { grd := 0, t := 0, off := 8177 }, .unassignedFunction),
    (.mSave { grd := 0, t := 0, off := 8177 }, .unassignedFunction),
    (.mRest { grd := 0, t := 0, off := 8191 }, .unassignedFunction),
    (.mFmt { grd := 0, fb := 0, n := 0, lvl := 0 }, .unassignedFunction),
    (.mFmt { grd := 0, fb := 0, n := 17, lvl := 0 }, .unassignedFunction),
    (.mFmt { grd := 0, fb := 0, n := 1, lvl := 6 }, .unassignedFunction),
    (.lS { grd := 0, d := 32, an := 1, sz := 0, fq := 0, off := 0 }, .reservedOperand),
    (.lS { grd := 0, d := 1, an := 1, sz := 7, fq := 0, off := 0 }, .unassignedFunction),
    (.lS { grd := 0, d := 1, an := 1, sz := 0, fq := 1, off := 0 }, .unassignedFunction),
    (.lV { grd := 0, d := 1, an := 1, sz := 1, fq := 0, off := 0 }, .unassignedFunction),
    (.lVp { grd := 0, d := 1, an := 1, sz := 3, fq := 0, off := 0 }, .unassignedFunction),
    (.lB { grd := 0, d := 1, an := 1, sz := 3, fq := 0, off := 0 }, .unassignedFunction),
    (.lFe { grd := 0, d := 1, an := 1, sz := 1, fq := 1, off := 0 }, .unassignedFunction),
    (.lFe { grd := 0, d := 1, an := 1, sz := 0, fq := 0, off := 0 }, .unassignedFunction),
    (.lFe { grd := 0, d := 1, an := 1, sz := 0, fq := 3, off := 0 }, .unassignedFunction),
    (.lAadd { grd := 0, ad := 1, an := 1, i := 0, b := 1 }, .reservedField),
    (.lAadd { grd := 0, ad := 1, an := 1, i := 0, b := 8796093022208 }, .reservedOperand),
    (.lAmov { grd := 0, ad := 1, sa := 32 }, .reservedOperand)] : List (Instr × DecodeErr)) = true := by decide +kernel

/-- The checks of the store, copy and sync slots (R64, R191 to R199, R204, R222). -/
theorem test_ill_formed_store_copy_sync : Tests.refused ([
    (.wS { grd := 0, src := 64, an := 1, sz := 0, k := 0, off := 0 }, .reservedField),
    (.wS { grd := 0, src := 32, an := 1, sz := 0, k := 0, off := 0 }, .reservedOperand),
    (.wS { grd := 0, src := 1, an := 1, sz := 4, k := 0, off := 0 }, .unassignedFunction),
    (.wS { grd := 0, src := 1, an := 1, sz := 0, k := 1, off := 0 }, .reservedField),
    (.wV { grd := 0, src := 0, an := 1, sz := 0, k := 0, off := 0 }, .unassignedFunction),
    (.wV { grd := 0, src := 1, an := 1, sz := 1, k := 0, off := 0 }, .unassignedFunction),
    (.wV { grd := 0, src := 1, an := 1, sz := 0, k := 1, off := 0 }, .unassignedFunction),
    (.wVp { grd := 0, src := 1, an := 1, sz := 2, k := 16, off := 0 }, .unassignedFunction),
    (.wFe { grd := 0, src := 1, an := 1, sz := 0, k := 16, off := 0 }, .unassignedFunction),
    (.wSc { grd := 0, vs := 0, an := 1, vi := 1, off := 0 }, .unassignedFunction),
    (.wSc { grd := 0, vs := 1, an := 1, vi := 64, off := 0 }, .unassignedFunction),
    (.wAtom { grd := 0, sd := 32, sv := 1, an := 1, aop := 0, ty := 0, off := 0 }, .reservedOperand),
    (.wAtom { grd := 0, sd := 1, sv := 32, an := 1, aop := 0, ty := 0, off := 0 }, .reservedOperand),
    (.wAtom { grd := 0, sd := 1, sv := 1, an := 1, aop := 10, ty := 0, off := 0 }, .unassignedFunction),
    (.wAtom { grd := 0, sd := 1, sv := 1, an := 1, aop := 0, ty := 3, off := 0 }, .unassignedFunction),
    (.wAtom { grd := 0, sd := 1, sv := 1, an := 1, aop := 9, ty := 0, off := 0 }, .unassignedFunction),
    (.wCas { grd := 0, sd := 32, sc := 1, sn := 1, an := 1, ty := 0, off := 0 }, .reservedOperand),
    (.wCas { grd := 0, sd := 1, sc := 1, sn := 1, an := 1, ty := 3, off := 0 }, .unassignedFunction),
    (.wRed { grd := 0, src := 1, vec := 0, an := 1, aop := 8, ty := 0, off := 0 }, .unassignedFunction),
    (.wRed { grd := 0, src := 64, vec := 0, an := 1, aop := 0, ty := 0, off := 0 }, .reservedField),
    (.wRed { grd := 0, src := 32, vec := 0, an := 1, aop := 0, ty := 0, off := 0 }, .reservedOperand),
    (.wRed { grd := 0, src := 0, vec := 1, an := 1, aop := 0, ty := 1, off := 0 }, .unassignedFunction),
    (.wRed { grd := 0, src := 1, vec := 1, an := 1, aop := 0, ty := 0, off := 0 }, .unassignedFunction),
    (.wSnd { grd := 0, vs := 0, ch := 0 }, .unassignedFunction),
    (.cShp { grd := 0, hd := 0, sa := 32 }, .reservedOperand),
    (.cRing { grd := 0, b := 0, base := 0, size := 0 }, .unassignedFunction),
    (.cRing { grd := 0, b := 0, base := 1, size := 8192 }, .unassignedFunction),
    (.cIcinv { grd := 0, an := 0, sl := 32, scope := 0, tl := 0 }, .reservedOperand),
    (.cIcinv { grd := 0, an := 0, sl := 1, scope := 5, tl := 0 }, .unassignedFunction),
    (.cL2wb { grd := 0, an := 0, sl := 32, tl := 0 }, .reservedOperand),
    (.cL2inv { grd := 0, an := 0, sl := 32, tl := 0 }, .reservedOperand),
    (.cSeal { grd := 0, tpl := 0, mode := 3 }, .unassignedFunction),
    (.yTlwait { grd := 0, tl := 0, sa := 32 }, .reservedOperand),
    (.yTladv { grd := 0, tl := 0, sa := 32 }, .reservedOperand),
    (.yTlread { grd := 0, sd := 32, tl := 0 }, .reservedOperand),
    (.yPhreg { grd := 0, ph := 0, mode := 3 }, .unassignedFunction),
    (.yFence { grd := 0, scope := 7 }, .unassignedFunction),
    (.yDrain { grd := 0, scope := 12 }, .unassignedFunction),
    (.yClm { grd := 0, sk := 1, sv := 1, sh := 32 }, .reservedOperand),
    (.yObj { grd := 0, sk := 32, sh := 1 }, .reservedOperand),
    (.yClwait { grd := 0, sk := 1, sh := 32 }, .reservedOperand),
    (.yClread { grd := 0, sd := 32, sk := 1, sh := 1 }, .reservedOperand),
    (.ySpawn { grd := 0, sib := 0, se := 32, sm := 1, ab := 1 }, .reservedOperand),
    (.ySpawn { grd := 0, sib := 0, se := 1, sm := 1, ab := 0 }, .unassignedFunction),
    (.ySpawn { grd := 0, sib := 0, se := 1, sm := 1, ab := 25 }, .unassignedFunction),
    (.yEvt { grd := 0, sa := 32, code := 0 }, .reservedOperand)] : List (Instr × DecodeErr)) = true := by decide +kernel

/-- R64 items 1 to 5, R68 to R74: unassigned opcodes, reserved bits and a no-op with bits set. -/
theorem test_rejected_words : Tests.rejected ([
    (.scalar, 0x1E00000000000000, .unassignedOpcode), (.scalar, 0xFF00000000000000, .unassignedOpcode),
    (.va, 0x1600000000000000, .unassignedOpcode), (.vb, 0x4700000000000000, .unassignedOpcode),
    (.matrix, 0x0500000000000000, .unassignedOpcode), (.load, 0x0700000000000000, .unassignedOpcode),
    (.store, 0x0B00000000000000, .unassignedOpcode), (.copy, 0x100000000000, .unassignedOpcode),
    (.sync, 0xE80000000000, .unassignedOpcode), (.scalar, 0x0000000000000001, .opcodeZeroBits),
    (.sync, 0x008000000000, .opcodeZeroBits), (.scalar, 0x2300000000000001, .reservedField),
    (.va, 0x0100000000000001, .reservedField), (.matrix, 0x0318000000000001, .reservedField),
    (.load, 0x0900000000000001, .reservedField), (.store, 0x0C00400000000001, .reservedField),
    (.copy, 0x040000000001, .reservedField), (.sync, 0x880000000001, .reservedField)] : List (Slot × Nat × DecodeErr)) = true := by
  decide +kernel

/-- R41 to R44, R64 items 6 and 7: a port without a reader, a reader without its port, and headers that no rule allows. -/
theorem test_rejected_bundles : ([0x00000900, 0x010A281800000000 * 2 ^ 32 + 0x00000100, 0x80020000 + 2 ^ 20, 2 ^ 17, 2 ^ 22] : List Nat).all
    (fun w => (decodeBundle w).toOption.isNone) = true := by
  decide +kernel

/-! ### What the witnesses are built from -/

/-- An access with nothing outstanding, and a flit with nothing in it. -/
def Tests.quiet : Flight :=
  { id := 1, bnd := 1, core := 0, ctx := 0, gen := 1, op := .store, pieces := [], data := [], dest := none, due := none, failed := none,
    window := none, pins := [], sc := none, acked := true, sent := none, ready := false, written := false }
def Tests.noFlit : Machine.Flit :=
  { mask := 0, dst := 0, src := 0, kind := 0, gen := 1, ctxid := 0, addr := 0, epoch := 0, seq := 0, rsv := 0, payload := 0, note := FlitNote.none }
/-- CBIND of a core. -/
def Tests.bindCore (s : State) (c v : Nat) : State :=
  s.setDctl (c / 160) (0x5000 + 0x100 * (c / 16 % 10) + 8 * (c % 16)) (BitVec.ofNat 64 v)
/-- A program on sequencer 0 with cores 0 and 1, memory and registers in use, and another context on sequencer 4 with core 16. -/
def Tests.rich : State :=
  let s := State.reset.placeProgram
  let s := s.modSeq 0 fun x => { x with gang := [0, 1], runleft := 100, sleft := 50 }
  let k (n : Nat) (k : Core) : Core := { k with
    sc := { s := (List.range 31).map (fun i => (i+1, Reg.of (BitVec.ofNat 64 (1000*n+i+3)) 1)), q := [(1, Reg.of 1 1)], ls := [(0, Reg.of 5 1)] }
    me := { k.me with a := [(1, Reg.of 0x1000 1), (2, Reg.of 0x2000 1)], h := [(0, Reg.of 0x40 1)], b := [(2, Reg.of 7 1)] }
    ve := { k.ve with v := [(3, Reg.of 77 1)], p := [(2, Reg.of 3 1)], oa := [(0, Reg.of 9 1)] }
    sp := { k.sp with crank := n % 16, gangsz := 2 } }
  let s := s.modCore 0 (k 0)
  let s := s.modCore 1 (k 1)
  let s := s.modCore 16 (fun c => { k 16 c with sp := { (k 16 c).sp with gangsz := 1 } })
  let s := s.setCtx 1025 (some { programCtx with gen := 2, asid := 2, gangs := [{ seq := 4, mask := 1, drank := 0, grank := 0 }] })
  let s := s.setSeq 4 { programSeq with ctx := some 1025, gang := [16], asid := 2, sleft := 9, sys := false }
  let s := s.putRaw (locSpad 0 0x1000) [1,2,3,4,5,6,7,8]
  let s := s.putRaw (locSpad 1 0x1000) [9,8,7]
  let s := s.putRaw (locSpad 16 0x1000) [9,8,7]
  let s := s.putRaw (locDram 0 0x40000) [4,4,4]
  let s := s.setUnit (locSpad 0 0x1000) { tag := Tag.of 1, poison := false, pend := false }
  let s := s.setUnit (locSpad 16 0x1000) { tag := Tag.of 2, poison := false, pend := false }
  let s := s.setUnit (locDram 0 0x40000) { tag := Tag.of 1, poison := false, pend := false }
  { s with time := 17 * 1000000, nextId := 5 }

/-- What holds of the default and of every entry holds of every reading of a map. -/
theorem Tests.getAll {α : Type} {P : Nat → α → Prop} {d : α} {m : SMap α} (hd : ∀ k, P k d) (hm : ∀ e ∈ m, P e.1 e.2) (k : Nat) :
    P k (SMap.get d m k) := by
  induction m with
  | nil => exact hd k
  | cons e r ih =>
    obtain ⟨j, v⟩ := e
    simp only [SMap.get]
    split
    · next h => exact h ▸ hm (j, v) (List.mem_cons_self ..)
    · exact ih fun e h => hm e (List.mem_cons_of_mem _ h)
theorem Tests.onlySome {α : Type} {P : α → Prop} {o : Option α} {a : α} (h : o = some a) (p : P a) : ∀ q, o = some q → P q :=
  fun _ e => Option.some.inj (h.symm.trans e) ▸ p
/-- Nothing of the machine waits for accesses to perform. -/
theorem Tests.calmed {s : State} {d : Nat}
    (h : ((s.die d).hwn.isEmpty && s.errors.isEmpty && s.flights.all fun f => match f.op with | .event _ => false | _ => true) = true) :
    Claims.calm s d := by
  simp only [Bool.and_eq_true, List.isEmpty_iff, List.all_eq_true] at h
  refine ⟨h.1.1, h.1.2, fun f hf cs he => ?_⟩
  have := h.2 f hf
  rw [he] at this
  exact nomatch this
theorem Tests.unspilledAll {s : State} {x : Nat} {c : Ctx} {l : List Nat}
    (h : (l.all fun k => (s.ctxPlace x (dieOfCore k) (c.spillAddr k + 0x8000)).elim true fun e =>
      fieldOf (wordOf (s.readBytes { gen := c.gen, tagged := e.2, part := none } e.1 8)) 0 9 == 0) = true) :
    ∀ k ∈ l, Claims.unspilled s x c k := by
  intro k hk loc tagged hp
  have h := List.all_eq_true.mp h k hk
  rw [hp] at h
  exact beq_iff_eq.mp h
theorem Tests.someGetD {α : Type} {o : Option α} {d : α} (h : o.isSome = true) : o = some (o.getD d) := by
  obtain _ | _ := o
  · exact nomatch h
  · rfl
theorem Tests.belowFour {P : Nat → Prop} (h0 : P 0) (h1 : P 1) (h2 : P 2) (h3 : P 3) : ∀ i < 4, P i
  | 0, _ => h0
  | 1, _ => h1
  | 2, _ => h2
  | 3, _ => h3
/-- Bytes at a location, as the cells of a memory that holds nothing else. -/
def Tests.cells (loc : Nat) (bs : List Byte) : List Host.Cell := (bs.zipIdx.filter fun e => e.1 ≠ 0).map fun e => (loc + e.2, e.1)
theorem Tests.okOf {ε α : Type} {x : Except ε α} {a : α} (h : x.toOption = some a) : x = .ok a := by
  obtain _ | _ := x
  · exact nomatch h
  · exact congrArg _ (Option.some.inj h)
/-- The state after an outcome. -/
def Tests.after : Host.Outcome State Fault Refusal → State
  | .next t => t
  | _ => State.reset
theorem Tests.nextOf {o : Host.Outcome State Fault Refusal} (h : (match o with | .next _ => true | _ => false) = true) :
    o = .next (Tests.after o) := by
  obtain _ | _ | _ := o
  · rfl
  · exact nomatch h
  · exact nomatch h
theorem Tests.ofIf {α : Type} {c : Prop} [Decidable c] {l m : List α} {Q : α → Prop} (hl : ∀ g ∈ l, Q g) (hm : ∀ g ∈ m, Q g) :
    ∀ g ∈ (if c then l else m), Q g := by
  split <;> assumption
/-- What holds of every entry that is there holds of every one read. -/
theorem Tests.someAll {α : Type} {P : Nat → α → Prop} [∀ k o, Decidable (P k o)] {m : SMap (Option α)}
    (h : (m.all fun e => e.2.elim true fun o => decide (P e.1 o)) = true) (k : Nat) (o : α) (hk : SMap.get none m k = some o) : P k o := by
  have := Tests.getAll (P := fun k v => v.elim true (fun o => decide (P k o)) = true) (d := none) (m := m) (fun _ => rfl)
    (List.all_eq_true.mp h) k
  rw [hk] at this
  exact of_decide_eq_true this
theorem Tests.slots {k : Socket} {Q : Nat → Packet → Prop} [∀ j o, Decidable (Q j o)]
    (h : ((List.range 15).all fun j => (k.slot j).pkt.elim true fun o => decide (Q j o)) = true) :
    ∀ j < 15, ∀ o, Claims.inSlot k j o → Q j o := by
  intro j hj o ho
  have := List.all_eq_true.mp h j (List.mem_range.mpr hj)
  rw [ho] at this
  exact of_decide_eq_true this
theorem Tests.noneOf {α : Type} {l m : List α} {P : α → Prop} [DecidablePred P] (h : m = l) (hl : (l.all fun f => decide ¬ P f) = true) :
    ¬ ∃ f ∈ m, P f :=
  fun ⟨f, hf, hp⟩ => of_decide_eq_true (List.all_eq_true.mp hl f (h ▸ hf)) hp
theorem Tests.fetchedOf {x : Fetched} {w : Nat} (h : (match x with | .ok v => some v | _ => none) = some w) : x = .ok w := by
  obtain _ | _ := x
  · exact congrArg _ (Option.some.inj h)
  all_goals exact nomatch h
theorem Tests.ofGang {s : State} {q a : Nat} {P : Nat → Prop} (h : s.gang q = [a]) (p : P a) : ∀ c ∈ s.gang q, P c := by
  intro c hc
  rw [h, List.mem_singleton] at hc
  exact hc ▸ p
theorem Tests.ofTriple {α β γ : Type} {a : α} {b : β} {c : γ} {P : α → β → γ → Prop} (h : P a b c) : ∀ x y z, some (a, b, c) = some (x, y, z) → P x y z
  | _, _, _, rfl => h
theorem Tests.ofQuadruple {α β γ δ : Type} {a : α} {b : β} {c : γ} {d : δ} {P : α → β → γ → δ → Prop} (h : P a b c d) :
    ∀ w x y z, some (a, b, c, d) = some (w, x, y, z) → P w x y z
  | _, _, _, _, rfl => h
/-- No message of a claim is on its way, and none waits on the claim plane of a die. -/
theorem Tests.noneDueOf {s : State} {d : Nat}
    (hp : (s.dies.all fun e => e.2.ports.all fun x => (x.2.sendq ++ x.2.wire ++ x.2.recv).isEmpty) = true) (hc : (s.die d).claimIn = []) :
    Claims.noneDue s d := by
  refine ⟨fun e p f hf => ?_, fun m hm => ?_⟩
  · have hd : ((s.die e).ports.all fun x => (x.2.sendq ++ x.2.wire ++ x.2.recv).isEmpty) = true :=
      Tests.getAll (P := fun _ (y : Die) => (y.ports.all fun x => (x.2.sendq ++ x.2.wire ++ x.2.recv).isEmpty) = true) (fun _ => rfl)
        (List.all_eq_true.mp hp) e
    have h := Tests.getAll (P := fun _ (x : Port) => (x.sendq ++ x.wire ++ x.recv).isEmpty = true) (d := Port.reset) (fun _ => rfl)
      (List.all_eq_true.mp hd) p
    rw [State.port, List.isEmpty_iff.mp h] at hf
    exact nomatch hf
  · rw [hc] at hm
    exact nomatch hm
/-- A walk that ends in a 2 MiB leaf ends there for every address of its page. -/
theorem Tests.walkFrom_region {s : State} {d va vb : Nat} (hv : va / 2 ^ 21 = vb / 2 ^ 21) {e : Word} :
    ∀ {f t : Nat}, f ≤ 4 → s.walkFrom d va f t = .leaf e 2 → s.walkFrom d vb f t = .leaf e 2
  | 0, _, _, h => nomatch h
  | 1, t, _, h => by
    exfalso
    revert h
    rw [State.walkFrom]
    generalize s.rawWord (locDram d (t + 8 * walkIndex va (3 - 0))) = w
    dsimp only [State.walkFrom]
    repeat' split
    all_goals (intro h; injection h)
    next h => exact absurd h (by decide)
  | f + 2, t, hf, h => by
    have hi : walkIndex va (3 - (f + 1)) = walkIndex vb (3 - (f + 1)) := by
      obtain rfl | rfl | rfl : f = 0 ∨ f = 1 ∨ f = 2 := by omega
      all_goals (simp only [walkIndex]; omega)
    have ih := fun t => @Tests.walkFrom_region s d va vb hv e (f + 1) t (by omega)
    rw [State.walkFrom] at h ⊢
    rw [← hi]
    revert h
    generalize s.rawWord (locDram d (t + 8 * walkIndex va (3 - (f + 1)))) = w
    revert ih
    generalize State.walkFrom s d va (f + 1) = ra
    generalize State.walkFrom s d vb (f + 1) = rb
    intro ih
    by_cases h1 : (!s.frameBit d (t / 2 ^ 16)) = true
    · rw [if_pos h1]; exact (nomatch ·)
    rw [if_neg h1, if_neg h1]
    dsimp only
    by_cases h2 : (!w.getLsbD 0 || decide (fieldOf w 52 12 ≠ 0)) = true
    · rw [if_pos h2]; exact (nomatch ·)
    rw [if_neg h2, if_neg h2]
    by_cases h3 : (!w.getLsbD 1) = true
    · rw [if_pos h3, if_pos h3]
      split
      · exact (nomatch ·)
      · exact ih _
    rw [if_neg h3, if_neg h3]
    exact id
theorem Tests.walk_region {s : State} {asid d va vb : Nat} (hv : va / 2 ^ 21 = vb / 2 ^ 21) {e : Word} (h : s.walk asid d va = .leaf e 2) :
    s.walk asid d vb = .leaf e 2 := by
  unfold State.walk at h ⊢
  revert h
  split
  · exact (nomatch ·)
  · dsimp only
    split
    · exact Tests.walkFrom_region hv (Nat.le_refl 4)
    · exact (nomatch ·)
/-- A 2 MiB leaf maps an address, to this die, and meets a condition. -/
def Tests.mapped (s : State) (asid d va : Nat) (p : Word → Bool) : Bool :=
  match s.walk asid d va with
  | .leaf e lvl => decide (lvl = 2) && decide (entryTgt e = 0) && p e
  | _ => false
/-- Pages of a range that 2 MiB leaves map. -/
theorem Tests.pagesMeet {s : State} {asid d va n : Nat} {p : Word → Bool} (m : Nat)
    (hm : (va % 2 ^ 16 + n + 2 ^ 16 - 1) / 2 ^ 16 + va / 2 ^ 16 % 32 ≤ 32 * m)
    (h : ((List.range m).all fun i => Tests.mapped s asid d ((va / 2 ^ 21 + i) * 2 ^ 21) p) = true) : s.pagesMeet asid d va n p = true := by
  rw [State.pagesMeet, List.all_eq_true]
  intro i hi
  have hi := List.mem_range.mp hi
  have hk := List.all_eq_true.mp h ((va / 2 ^ 16 % 32 + i) / 32) (List.mem_range.mpr (by omega))
  revert hk
  unfold Tests.mapped
  split
  · next e lvl hw =>
    intro hk
    simp only [Bool.and_eq_true, decide_eq_true_eq] at hk
    obtain ⟨⟨rfl, ht⟩, hp⟩ := hk
    rw [Tests.walk_region (vb := (va / 2 ^ 16 + i) * 2 ^ 16) (by omega) hw]
    simp [ht, hp]
  · exact (nomatch ·)
theorem Tests.planMaps {s : State} {rd : ImgRead} {p : LoadPlan} {img : Image} {d : Nat} (h0 : planDies p = [d]) (h1 : s.present d = true)
    (ha : (areasApart (planAreas rd p img) && s.framesApart d p (planAreas rd p img)) = true)
    (hc : s.pagesMeet p.asid d p.code.toNat (rd.sec 1).len
      (fun e => e.getLsbD 6 && !e.getLsbD 5 && (entryUntag e == rd.isSystem && (rd.isSystem || !e.getLsbD 7))) = true)
    (hd : s.pagesMeet p.asid d p.data.toNat (pages4k (rd.sec 6).len)
      (fun e => e.getLsbD 4 && e.getLsbD 5 && (entryUntag e == rd.isSystem && (rd.isSystem || !e.getLsbD 7))) = true)
    (ht : s.pagesMeet p.asid d p.templates.toNat 4096
      (fun e => e.getLsbD 4 && e.getLsbD 5 && (entryUntag e == rd.isSystem && (rd.isSystem || !e.getLsbD 7))) = true)
    (hs : s.pagesMeet p.asid d p.save.toNat (256 + 160 * (0x18100 + img.kernels.foldl (fun n k => max n k.keep) 0))
      (fun e => e.getLsbD 4 && e.getLsbD 5 && (rd.isSystem || (entryUntag e == rd.isSystem && (rd.isSystem || !e.getLsbD 7)))) = true)
    (hp : s.pagesMeet p.asid d p.spill.toNat (160 * 0x8400)
      (fun e => e.getLsbD 4 && e.getLsbD 5 && (rd.isSystem || (entryUntag e == rd.isSystem && (rd.isSystem || !e.getLsbD 7)))) = true) :
    s.planMaps rd p img = true := by
  simp only [Bool.and_eq_true] at ha
  unfold State.planMaps
  simp only [h0, List.isEmpty_cons, Bool.not_false, List.all_cons, List.all_nil, Bool.and_true, h1, ha.1, ha.2, hc, hd, ht, hs, hp]
/-- Frames of areas that 2 MiB leaves map, but for one page. -/
theorem Tests.framesApart {s : State} {d : Nat} {p : LoadPlan} {l : List (Nat × Nat)} (L R : List Nat) (tab : Nat → Word) (one f : Nat)
    (hL : areaPages l = L) (h1 : s.frameOf p.asid d one = some f) (hR : (L.all fun n => n == one || R.contains (n / 32)) = true)
    (ht : ∀ m ∈ R, s.walk p.asid d (m * 2 ^ 21) = .leaf (tab m) 2)
    (hx : (let g := L.map fun n => if n = one then f else pageFrame n (tab (n / 32)) 2
      decide (g.eraseDups.length = g.length) && (p.tables.all fun t => t.1 != d || !g.contains (t.2.1 / 2 ^ 16)) &&
      (p.page / 2 ^ 46 != d || !g.contains (p.page % 2 ^ 46 / 2 ^ 16))) = true) : s.framesApart d p l = true := by
  have hg : L.filterMap (s.frameOf p.asid d) = L.map fun n => if n = one then f else pageFrame n (tab (n / 32)) 2 := by
    clear hx hL
    induction L with
    | nil => rfl
    | cons n r ih =>
    rw [List.all_cons, Bool.and_eq_true] at hR
    rw [List.filterMap_cons, List.map_cons, ih hR.2]
    by_cases h : n = one
    · rw [if_pos h, h, h1]
    · rw [if_neg h]
      have hr := hR.1
      simp only [Bool.or_eq_true, beq_iff_eq, h, false_or, List.contains_iff_mem] at hr
      rw [State.frameOf, Tests.walk_region (by omega) (ht _ hr)]
  rw [State.framesApart, hL, hg]
  exact hx

/-! ### Witnesses: sequencers and switches -/

namespace Tests.Witness1

/-- A store of 16 bytes at a location of core 1 that has not been performed. -/
def access (n : Nat) (op : FlightOp) : Flight :=
  { quiet with id := n, bnd := n, op := op, pieces := [{ loc := locSpad 1 0, off := 0, len := 16, tagged := true, done := false }],
               data := List.replicate 16 0 }
/-- A full/empty request and a store of core 0 are outstanding. -/
def asking : State :=
  { (rich.modCore 0 fun k => { k with pp := { k.pp with fed := [(4, 1)] } }) with flights := [access 1 (.fe false false), access 2 .store] }
/-- A copy whose sum with its bobbin, where it has one, stands at its first byte. -/
def copyRun : CopyRun :=
  { ctx := 0, asid := 1, gen := 1, held := 1, sys := true, gone := none, tl := 3, num := 4, src := 0x1000, dst := 0x3000, bobbin := none, len := 100,
    dims := [], idx := [], off := 0, sealed := none, wait := 0, failed := none, finished := false }
/-- A copy into the full ring of bobbin 3, ahead of another, on a gang that is landing. -/
def ringFull : State :=
  ((rich.modSeq 0 fun x => { x with phase := .landWait }).modCore 0 fun k =>
    { k with chan := [(0, [{ copyRun with bobbin := some 3 }, copyRun])], me := { k.me with b := [(3, Reg.of (bobPack 0 4 0 1024 0) 1)] } }).modDie 0
    fun y => { y with tls := [(3, { Timeline.reset with next := 5, done := 3 })] }
/-- The context of a landing gang, which saves the spans of its SAVECTR. -/
def landingCtx : Ctx := { programCtx with group := .landing, savectr := 7, cctl := [(0x310, 1)] }
def landing : State := (rich.modSeq 0 fun x => { x with phase := .landWait }).setCtx 0 (some landingCtx)
def launch0 : Launch := { queue := 3, kidx := 0, cookie := 9, cevt := true, args := [1, 2, 3, 4, 5, 6, 7, 8] }
/-- A group that is starting, with its one gang placed on sequencer 0. -/
def startingCtx : Ctx :=
  { programCtx with phase := .ready, group := .starting, launch := some launch0, gangs := [{ seq := 0, mask := 3, drank := 0, grank := 0 }] }
def offered : State :=
  ((bindCore (bindCore rich 0 0x80) 1 0xB0).modSeq 0 fun x => { x with ctx := none, phase := .idle }).setCtx 0 (some startingCtx)
/-- A group whose dies have asked for an agreement. -/
def agreeing (a : Agreement) (g : GroupPhase) : Ctx := { programCtx with agree := some a, group := g, taken := [0] }
def agreed (a : Agreement) (g : GroupPhase) (p : Phase) : State := (rich.setCtx 0 (some (agreeing a g))).modSeq 0 fun x => { x with phase := p }
/-- The one gang of a line stands at a bundle, with its input high. -/
def gathering (w : Nat) : State :=
  (((rich.withFetchWord 512 w).modSeq 0 fun x => { x with lineUp := true, cline := 0x80 }).setDctl 0 0x4018 0x100).modDie 0 fun y =>
    { y with lines := [(0, { phase := .gathering, owner := some 0 })] }
def yielding : State := rich.modSeq 0 fun x => { x with phase := .yieldWait true }

theorem test_witness_evAsyncTrap : ∃ (s : State) (q k : Nat),
    Claims.stands s q ∧
    s.acting q = false ∧
    k ∈ (s.seq q).async ∧
    (∀ j ∈ (s.seq q).async, k ≤ j) :=
  ⟨(rich.modSeq 0 fun x => { x with async := [7, 3, 12] }), 0, 3,
   by decide +kernel⟩

theorem test_witness_evWaitTimeout : ∃ (s : State) (q frm : Nat),
    let limit (c : Nat) := if (s.core c).sp.waitlim.toNat % 2 ^ 32 = 0 then 2 ^ 32 else (s.core c).sp.waitlim.toNat % 2 ^ 32
    let late (c : Nat) : Bool := decide (limit c ≤ (s.core c).pp.waitCnt)
    Claims.stands s q ∧
    (s.seq q).released = false ∧
    (s.gang q).find? late = some frm ∧
    ¬ (s.acting q = true ∧ tcNest (s.core (s.lead q)).sp.tcause = true ∧ (s.seq q).sys = true) :=
  ⟨(rich.modCore 1 fun k => { k with pp := { k.pp with waitCnt := 2 ^ 24, waitSlot := 5 } }), 0, 1,
   by decide +kernel⟩

theorem test_witness_evRunOverrun : ∃ (s : State) (q : Nat),
    Claims.stands s q ∧
    (s.seq q).sys = false ∧
    (s.seq (s.runSeq q)).runleft = 0 :=
  ⟨(rich.modSeq 4 fun x => { x with sys := false, runleft := 0 }), 4,
   by decide +kernel⟩

theorem test_witness_evSliceExpire : ∃ (s : State) (q x : Nat) (c : Ctx),
    (s.seq q).ctx = some x ∧
    s.ctx? x = some c ∧
    s.charged q = true ∧
    (s.seq q).sleft = 1 :=
  ⟨(rich.modSeq 4 fun x => { x with sleft := 1 }), 4, 1025, (rich.ctx? 1025).getD programCtx,
   by decide +kernel⟩

theorem test_witness_evLineRelease_0 : ∃ (s : State) (d n x : Nat),
    let l := SMap.get AndLine.reset (s.die d).lines n
    l.owner = some x ∧
    l.phase = .gathering ∧
    s.lineMembers d x ≠ [] ∧
    s.evictedOn d x = false ∧
    s.reserveAll (s.lineMembers d x) = none :=
  ⟨gathering 0, 0, 0, 0,
   by decide +kernel⟩

theorem test_witness_evLineRelease_5 : ∃ (s : State) (d n x : Nat) (u : _),
    let l := SMap.get AndLine.reset (s.die d).lines n
    s.reserveAll (s.lineMembers d x) = some u ∧
    l.owner = some x ∧
    l.phase = .gathering ∧
    s.lineMembers d x ≠ [] ∧
    s.evictedOn d x = false :=
  ⟨gathering 0x40000, 0, 0, 0, ((gathering 0x40000).reserveAll ((gathering 0x40000).lineMembers 0 0)).getD rich,
   someGetD (by decide +kernel), by decide +kernel⟩

theorem test_witness_evFeWithdrawal : ∃ (s : State) (q : Nat),
    (s.seq q).phase = .run ∧
    s.fedOut q = true ∧
    (s.asyncDue q ≠ none ∨ s.timeouts q ≠ []) :=
  ⟨(asking.modSeq 0 fun x => { x with async := [12] }), 0,
   by decide +kernel⟩

theorem test_witness_evFeWithdrawalAnswer : ∃ (s : State) (q : Nat),
    (s.seq q).phase = .withdraw false ∧
    s.asyncDue q = none ∧
    s.timeouts q = [] ∧
    (s.seq q).haltAsk = false ∧
    (∀ c ∈ s.gang q, ∀ e ∈ (s.core c).pp.fed, ∃ f, s.flight? e.2 = some f ∧ f.allDone = false) :=
  ⟨(asking.modSeq 0 fun x => { x with phase := .withdraw false }), 0,
   by decide +kernel⟩

theorem test_witness_evYieldClear : ∃ (s : State) (q x : Nat) (c : Ctx),
    (∀ k ∈ s.gang q, k < 1280 ∧ accOwner (s.core k).mx.accown = x ∧ Claims.unspilled s x c k) ∧
    (s.seq q).phase = .yieldWait true ∧
    s.yieldReady q = true ∧
    (s.seq q).ctx = some x ∧
    s.ctx? x = some c ∧
    s.paired q = false :=
  ⟨yielding, 0, 0, programCtx,
   fun k hk => have h := ((by decide +kernel) : ∀ k ∈ yielding.gang 0, k < 1280 ∧ accOwner (yielding.core k).mx.accown = 0) k hk; ⟨h.1, h.2, unspilledAll (by decide +kernel) k hk⟩, by decide +kernel⟩

theorem test_witness_evCopyCancel : ∃ (s : State) (c ch q b : Nat) (r : CopyRun) (rest : List CopyRun),
    s.seqOfCore c = some q ∧
    (s.core c).chanOf ch = r :: rest ∧
    ((s.seq q).phase = .landWait ∨ (s.seq q).phase = .held ∨ ∃ b, (s.seq q).phase = .yieldWait b) ∧
    (∀ d ∈ s.gang q, (s.core d).mx.eng = none) ∧
    r.failed = none ∧
    r.finished = false ∧
    r.bobbin = some b ∧
    bobRoom ((s.core c).readB r.gen b) = 0 :=
  ⟨ringFull, 0, 0, 0, 3, { copyRun with bobbin := some 3 }, [copyRun],
   by decide +kernel⟩

theorem test_witness_evPreemptSave : ∃ (s : State) (q x : Nat) (c : Ctx) (p : GangPlace),
    (∀ r, r ≠ q → (s.seq r).ctx ≠ some x) ∧
    q < 320 ∧
    (s.seq q).phase = .landWait ∧
    s.landReady q = true ∧
    (s.seq q).ctx = some x ∧
    s.ctx? x = some c ∧
    (s.seq q).parent = none ∧
    (s.seq q).gidx = 0 ∧
    c.group = .landing ∧
    c.gangs = [p] ∧
    p.seq = q ∧
    c.retired = [] ∧
    c.evicted = [] ∧
    c.landed = [] ∧
    c.yielded = [] ∧
    (∀ k ∈ s.allCores q, k < 1280) :=
  ⟨landing, 0, 0, landingCtx, { seq := 0, mask := 1, drank := 0, grank := 0 },
   getAll (P := fun r y => r ≠ 0 → y.ctx ≠ some 0) (m := landing.seqs) (d := Seq.reset) (fun _ _ => (by decide +kernel)) (by decide +kernel), by decide +kernel⟩

theorem test_witness_evArbiterDecision : ∃ (s : State) (q x : Nat) (c : Ctx) (p : GangPlace) (l : Launch) (k : Kernel),
    (∀ b ∈ s.boundGang q, Claims.unspilled s x c b) ∧
    (s.seq q).ctx = none ∧
    (s.seq q).phase = .idle ∧
    (s.seq q).fenced = false ∧
    (s.seq q).chosen = none ∧
    (s.placedOn q).filter (s.mustTake q) = [] ∧
    s.choice q ((s.placedOn q).filter (s.mayChoose q)) = some x ∧
    s.ctx? x = some c ∧
    c.gangs.head? = some p ∧
    p.seq = q ∧
    c.parkedAt = [] ∧
    c.launch = some l ∧
    c.image.kernels[l.kidx + p.drank]? = some k ∧
    s.paired q = false :=
  ⟨offered, 0, 0, startingCtx, { seq := 0, mask := 3, drank := 0, grank := 0 }, launch0, programCtx.image.kernels.headD { entry := 0, run := 0, maxpos := 0, loopTab := [], regions := [], fmt := [], keep := 0 },
   unspilledAll (by decide +kernel), by decide +kernel⟩

theorem test_witness_evGroupStart : ∃ (s : State) (q x d : Nat) (c : Ctx),
    Claims.agreed s q x d c .start ∧
    c.group = .starting :=
  ⟨agreed .start .starting .held, 0, 0, 0, agreeing .start .starting,
   by decide +kernel⟩

theorem test_witness_evGroupYield : ∃ (s : State) (q x d : Nat) (c : Ctx),
    Claims.agreed s q x d c .yieldPark ∧
    (s.seq q).ctx = some x ∧
    (s.seq q).phase = .atYield ∧
    (s.seq q).thrCyc = 0 :=
  ⟨agreed .yieldPark .yielding .atYield, 0, 0, 0, agreeing .yieldPark .yielding,
   by decide +kernel⟩

theorem test_witness_evGroupPreempt : ∃ (s : State) (q x d : Nat) (c : Ctx),
    Claims.agreed s q x d c .preempt ∧
    c.group = .running :=
  ⟨agreed .preempt .running .run, 0, 0, 0, agreeing .preempt .running,
   by decide +kernel⟩

end Tests.Witness1

/-! ### Witnesses: accesses and units -/

namespace Tests.Witness2

/-- A piece of an access that has not been performed. -/
def part (loc off len : Nat) : Piece := { loc := loc, off := off, len := len, tagged := true, done := false }
def performed (loc len : Nat) : Piece := { part loc 0 len with done := true }
def withAccesses (l : List Flight) : State := { rich with flights := l }
def store : Flight := { quiet with data := [1, 2, 3, 4, 5, 6, 7, 8], pieces := [part (locSpad 1 0x1001) 0 7, part (locSpad 1 0x2000) 7 1] }
def adds : Flight := { quiet with op := .atom .add 0 (5 : Word) true, data := List.replicate 8 0, pieces := [part (locDram 0 0x40000) 0 8], dest := some { file := .s, index := 5 } }
def loaded : Flight := { quiet with op := .load (.scalar true) false, data := [0xFF], pieces := [performed (locDram 0 0x40000) 1], dest := some { file := .s, index := 31 } }
def vloaded : Flight := { loaded with op := .load .vector false, data := List.replicate 256 3, pieces := [performed (locDram 0 0x40000) 256], dest := some { file := .v, index := 63 } }
def ownLoad : Flight := { quiet with op := .load .vector true, data := List.replicate 8 0, pieces := [part (locSpad 0 0x1000) 0 8], due := some 1 }
def scale : Flight := { quiet with op := .scl, data := List.replicate 64 7, pieces := [performed (locDram 0 0x40000) 64] }
def feStore : Flight := { quiet with op := .fe true false, sent := some 7, data := List.replicate 16 7, pieces := [part (locSpad 1 0x1000) 0 16] }
def feFull : State := ({ withAccesses [feStore] with full := [(locSpad 1 0x1000, true)] }).setUnit (locSpad 1 0x1000) { tag := Tag.of 1, poison := false, pend := false }
def stamp : ScStamp := { rev := 1, pos := 3, grank := 0, slot := 0 }
def ordered : Flight := { quiet with op := .store, data := [1, 2], pieces := [part (locDram 0 0x40000) 0 2], sc := some stamp }
def posted : Flight := { quiet with op := .store, window := some 2, acked := false, sent := some 5, pieces := [performed (locFabric 0x40000) 2], data := [1, 2] }
def postedCtx : Ctx := { programCtx with outs := [(2, 1), (3, 1)] }
/-- A step in the matrix engine's last cycle, and a tile store in its last. -/
def stepping : State := rich.modCore 0 fun k => { k with mx := { k.mx with eng := some { left := 1, op := .step 2 (7 : Tile) 1 3 4 100 50, bnd := 9 } } }
def tileStore : State := rich.modCore 0 fun k => { k with mx := { k.mx with tst := some { left := 0, op := .write 2 0x1FFE00 (List.replicate 512 5) (Tag.of 1), bnd := 9 } } }
def copyRun : CopyRun :=
  { ctx := 0, asid := 1, gen := 1, held := 1, sys := true, gone := none, tl := 3, num := 4, src := 0x1001, dst := 0x3003, bobbin := none, len := 100,
    dims := [], idx := [], off := 0, sealed := none, wait := 0, failed := none, finished := false }
def copying (r : CopyRun) : State :=
  (rich.modCore 0 fun k => { k with chan := [(0, [r, copyRun]), (1, [copyRun])] }).modDie 0 fun y =>
    { y with tls := [(3, { Timeline.reset with next := 5, done := 3 })] }
def maint : Maint := { id := 7, die := 1, tl := 3, num := 1, ctx := 0, gen := 1, kind := 1, asid := 1, lo := 0x100000000, len := 64, dies := [0] }
def maintaining : State :=
  { rich with maints := [maint], l2 := [(locDram 0 0x20000, some { part := 0, old := 0, oldMeta := TagUnit.wiped })] }.setUnit (locDram 0 0x20000)
    { tag := Tag.of 1, poison := false, pend := false }

theorem test_witness_evNearStore : ∃ (s : State) (n k : Nat) (f : Flight) (p : Piece),
    Claims.arrives s n k f p ∧
    f.op = .store :=
  ⟨withAccesses [store], 1, 0, store, part (locSpad 1 0x1001) 0 7,
   (by refine ⟨?_, ?_, ?_, ?_, ?_, ?_, ?_, ?_, ?_, ?_, calmed ?_⟩ <;> decide +kernel), by decide +kernel⟩

theorem test_witness_evAtomic : ∃ (s : State) (n : Nat) (f : Flight) (p : Piece),
    Claims.arrives s n 0 f p ∧
    ((∃ aop ty v ret, f.op = .atom aop ty v ret) ∨ (∃ ty c v, f.op = .cas ty c v)) ∧
    f.pieces = [p] :=
  ⟨withAccesses [adds], 1, adds, part (locDram 0 0x40000) 0 8,
   (by refine ⟨?_, ?_, ?_, ?_, ?_, ?_, ?_, ?_, ?_, ?_, calmed ?_⟩ <;> decide +kernel), Or.inl ⟨_, _, _, _, rfl⟩, by decide +kernel⟩

theorem test_witness_evLongResult : ∃ (s : State) (n r q : Nat) (v : Bool) (f : Flight),
    s.flight? n = some f ∧
    f.allDone = true ∧
    f.due = none ∧
    f.failed = none ∧
    f.dest = some { file := if v then .v else .s, index := r } ∧
    (0 < r ∨ v = true) ∧
    r < (if v then 64 else 32) ∧
    f.ready = false ∧
    f.written = false ∧
    s.pathBusy f = false ∧
    s.seqOfCore f.core = some q ∧
    s.paired q = false :=
  ⟨withAccesses [loaded], 1, 31, 0, false, loaded,
   by decide +kernel⟩

theorem test_witness_evLongResult_v : ∃ (s : State) (n r q : Nat) (v : Bool) (f : Flight),
    s.flight? n = some f ∧
    f.allDone = true ∧
    f.due = none ∧
    f.failed = none ∧
    f.dest = some { file := if v then .v else .s, index := r } ∧
    (0 < r ∨ v = true) ∧
    r < (if v then 64 else 32) ∧
    f.ready = false ∧
    f.written = false ∧
    s.pathBusy f = false ∧
    s.seqOfCore f.core = some q ∧
    s.paired q = false :=
  ⟨withAccesses [vloaded], 1, 63, 0, true, vloaded,
   by decide +kernel⟩

theorem test_witness_evSpadAccess : ∃ (s : State) (n : Nat) (f : Flight) (p : Piece) (form : Machine.LoadForm),
    Claims.calm s (dieOfCore f.core) ∧
    s.flight? n = some f ∧
    f.due = some 1 ∧
    f.op = .load form true ∧
    f.pieces = [p] ∧
    p.done = false ∧
    isSpad p.loc = true ∧
    spadCore p.loc = f.core ∧
    p.off = 0 ∧
    p.len = f.data.length ∧
    s.beforeOwn f = [] ∧
    s.readsPoison { gen := f.gen, tagged := p.tagged, part := none } p.loc p.len = false :=
  ⟨withAccesses [ownLoad], 1, ownLoad, part (locSpad 0 0x1000) 0 8, .vector,
   calmed (by decide +kernel), by decide +kernel⟩

theorem test_witness_evScaleEntry : ∃ (s : State) (n q : Nat) (f : Flight),
    s.flight? n = some f ∧
    f.op = .scl ∧
    f.allDone = true ∧
    f.failed = none ∧
    (∀ e ∈ s.flights, e.core = f.core → e.op = .scl → f.id ≤ e.id) ∧
    s.seqOfCore f.core = some q ∧
    s.paired q = false :=
  ⟨(withAccesses [scale, { scale with id := 2 }, { scale with core := 1, id := 0 }]), 1, 0, scale,
   by decide +kernel⟩

theorem test_witness_evFeApply_0 : ∃ (s : State) (n : Nat) (f : Flight),
    s.flight? n = some f ∧
    f.op.wants.isSome = true ∧
    f.sent = none :=
  ⟨(withAccesses [{ feStore with sent := none }]), 1, { feStore with sent := none },
   by decide +kernel⟩

theorem test_witness_evFeApply_1 : ∃ (s : State) (n at_ : Nat) (f : Flight) (p : Piece) (take : Bool),
    s.flight? n = some f ∧
    f.op = .fe take false ∧
    f.pieces = [p] ∧
    f.sent = some at_ ∧
    s.ticks ≠ at_ ∧
    s.isFull f.gen p.loc = true ∧
    s.feMeets f = true ∧
    (∀ e ∈ s.flights, s.feMeets e = true → s.feBefore e f = true → ∀ r ∈ e.pieces, r.loc ≠ p.loc) ∧
    s.mirrors (some f.core) p.loc = [p.loc] ∧
    isSpad p.loc = true ∧
    p.off = 0 ∧
    p.len = f.data.length ∧
    s.readsPoison { gen := f.gen, tagged := p.tagged, part := none } p.loc p.len = false :=
  ⟨feFull, 1, 7, feStore, part (locSpad 1 0x1000) 0 16, true,
   by decide +kernel⟩

theorem test_witness_evScApply : ∃ (s : State) (d r n : Nat) (f : Flight) (p : Piece) (x : ScStamp),
    Claims.calm s d ∧
    s.flights = [f] ∧
    f.op = .store ∧
    f.pieces = [p] ∧
    p.done = false ∧
    f.sc = some x ∧
    x.rev = r ∧
    x.pos = n ∧
    dieOfCore f.core = d ∧
    4096 * r + 4 * n + 2000 ≤ s.tbase d ∧
    p.loc < 2 ^ 66 ∧
    0 < p.len ∧
    p.loc + p.len ≤ unitBase p.loc + unitSize p.loc ∧
    (s.unit p.loc).poison = false ∧
    s.mirrors (some f.core) p.loc = [p.loc] ∧
    p.off + p.len ≤ f.data.length :=
  ⟨withAccesses [ordered], 0, 1, 3, ordered, part (locDram 0 0x40000) 0 2, stamp,
   calmed (by decide +kernel), by decide +kernel⟩

theorem test_witness_evPostedAck : ∃ (s : State) (n w : Nat) (f : Flight) (c : Ctx),
    s.flight? n = some f ∧
    f.window = some w ∧
    f.allDone = true ∧
    f.acked = false ∧
    f.sent ≠ none ∧
    s.ctx? f.ctx = some c :=
  ⟨(withAccesses [posted]).setCtx 0 (some postedCtx), 1, 2, posted, postedCtx,
   by decide +kernel⟩

theorem test_witness_evStepRetire : ∃ (s : State) (c q td ba bw sa sw left bnd : Nat) (v : Tile) (g : Gen),
    s.seqOfCore c = some q ∧
    (s.core c).mx.eng = some { left := left, op := .step td v g ba bw sa sw, bnd := bnd } ∧
    left ≤ 1 ∧
    ba ≠ bw :=
  ⟨stepping, 0, 0, 2, 3, 4, 100, 50, 1, 9, (7 : Tile), 1,
   by decide +kernel⟩

theorem test_witness_evTileStore : ∃ (s : State) (c q ts off rows left bnd : Nat) (bs : List Byte) (tag : Tag),
    Claims.calm s (dieOfCore c) ∧
    s.seqOfCore c = some q ∧
    (s.core c).mx.tst = some { left := left, op := .write ts off bs tag, bnd := bnd } ∧
    left ≤ 1 ∧
    bs.length = 256 * rows ∧
    off % 256 = 0 ∧
    off + bs.length ≤ 0x200000 ∧
    c < 1280 :=
  ⟨tileStore, 0, 0, 2, 0x1FFE00, 2, 0, 9, List.replicate 512 5, Tag.of 1,
   calmed (by decide +kernel), by decide +kernel⟩

theorem test_witness_evCopyChunk : ∃ (s : State) (c ch : Nat) (r : CopyRun) (rest : List CopyRun) (x : Ctx),
    (∀ q, s.seqOfCore c = some q → s.paired q = false) ∧
    Claims.calm s (dieOfCore c) ∧
    (s.core c).chanOf ch = r :: rest ∧
    c < 1280 ∧
    s.ctx? r.ctx = some x ∧
    r.gone = none ∧
    r.finished = false ∧
    r.wait = 0 ∧
    r.failed = none ∧
    r.sealed = none ∧
    r.bobbin = none ∧
    r.srcAt.toNat < 0x200000 ∧
    r.dstAt.toNat < 0x200000 ∧
    r.off < r.len :=
  ⟨copying copyRun, 0, 0, copyRun, [copyRun], programCtx,
   onlySome (a := 0) (by decide +kernel) (by decide +kernel), calmed (by decide +kernel), by decide +kernel⟩

theorem test_witness_evCopyComplete : ∃ (s : State) (c ch : Nat) (r : CopyRun) (rest : List CopyRun),
    (s.core c).chanOf ch = r :: rest ∧
    r.finished = true ∧
    r.sealed = none ∧
    s.copySnooped r = true :=
  ⟨(copying { copyRun with finished := true, failed := some 5 }), 0, 0, { copyRun with finished := true, failed := some 5 }, [copyRun],
   by decide +kernel⟩

theorem test_witness_evMaintDone : ∃ (s : State) (n d : Nat) (m : Maint),
    let lines := s.linesOfRange d m
    s.maints.find? (fun m => m.id == n && m.dies.contains d) = some m ∧
    m.dies = [d] ∧
    (∀ u ∈ lines, (s.unit u).tag.is m.gen = true) :=
  ⟨maintaining, 7, 0, maint,
   by decide +kernel⟩

end Tests.Witness2

/-! ### Witnesses: partitions, generations, loading, queues -/

namespace Tests.Witness3

/-- Partition 0 enabled with 16 ways of die 0's and die 1's cache left to it. -/
def enabled : State := { rich with parts := [(0, 0x0001000000008005)] }
/-- Partition 3 enabled and critical. -/
def critical : State := { rich with parts := [(0, 0x0001000000008005), (3, 0x000100000000800B)] }
def generations : State := { rich with gvstat := [(1, 1), (2, 2), (7, 3)] }
def sweeping : State := { rich with gvstat := [(1, 4), (2, 1)], carder := { passes := 7, active := true, set := [1], todo := [0, 1, 2] } }
def swept : State :=
  { rich with gvstat := [(1, 4), (2, 1), (1023, 4)], gpool := 0x0000000800100002,
              carder := { passes := 0xFFFFFFFF, active := true, set := [1, 1023], todo := [] } }
/-- The smallest image: a code segment with one bundle that retires, a kernel table with one kernel, and eight bytes of templates (R262). -/
def image : List Byte :=
  bytesOfWord 4 0x444E4D52 ++ bytesOfWord 2 3 ++ bytesOfWord 2 0 ++ bytesOfWord 2 0x0101 ++ bytesOfWord 2 3 ++ bytesOfWord 4 0 ++
  bytesOfWord 8 0 ++ bytesOfWord 8 328 ++ bytesOfWord 32 0 ++
  bytesOfWord 8 1 ++ bytesOfWord 8 192 ++ bytesOfWord 8 64 ++ bytesOfWord 8 0 ++
  bytesOfWord 8 2 ++ bytesOfWord 8 256 ++ bytesOfWord 8 64 ++ bytesOfWord 8 0 ++
  bytesOfWord 8 3 ++ bytesOfWord 8 320 ++ bytesOfWord 8 8 ++ bytesOfWord 8 0 ++ bytesOfWord 32 0 ++
  bytesOfWord 64 (0x880000000000 * 2 ^ 464) ++
  bytesOfWord 8 0 ++ bytesOfWord 2 1 ++ bytesOfWord 2 0 ++ bytesOfWord 2 0 ++ bytesOfWord 2 0 ++ bytesOfWord 8 0 ++
  bytesOfWord 8 (2 ^ 64 - 1) ++ bytesOfWord 4 0 ++ bytesOfWord 28 0 ++
  bytesOfWord 8 0
/-- The frame map, whose untagged frames are those of the page tables and of the image, and the page tables: one page of code, and twelve of
2 MiB with frames of their own. -/
def tables : List Host.Cell :=
  cells (locDram 0 0) [2, 0, 1] ++
  ([(0x10000, 0x11001), (0x11020, 0x12001), (0x12000, 0x13001)] ++ ((List.range 12).map fun i => (0x12008 + 8 * i, 0x400033 + 0x200000 * i)) ++
    [(0x13000, 0x200053)]).flatMap fun (e : Nat × Nat) => cells (locDram 0 e.1) (bytesOf (BitVec.ofNat 64 e.2))
/-- Die 0 with an image at 1 MiB, page tables below it, and LOAD asked for. -/
def loading : State :=
  let s := State.reset.modDie 0 fun y => { y with dctl := SMap.set (dctlReset 0x318) y.dctl 0x318 0 }
  let s := (s.setDctl 0 0x208 1).setDctl 0 0x200 0x100000
  { s with mem := tables ++ cells (locDram 0 0x100000) image, parts := [(0, 0x0001000000008005)] }
/-- The same with the image's magic number wrong. -/
def loadingBad : State := { loading with mem := tables ++ cells (locDram 0 0x100000) (image.set 0 0) }
def loadPlan : LoadPlan :=
  { index := 5, asid := 3, page := locDram 0 0x40000, roots := [(0, 0x10001)], code := 0x100000000, data := 0x100200000,
    templates := 0x100200000, save := 0x100201000, spill := 0x101200000, tables := [] }
def afterGen : State := ((loading.takeGen 5).map Prod.snd).getD State.reset
def relocated : ImgRead := ((loading.imageAt 0).relocated loadPlan.code loadPlan.data).getD fun _ => 0
def unloadCtx : Ctx := { programCtx with phase := .loaded, gen := 2, asid := 2 }
def withQueue (x : Queue) : State := { rich with queues := [(3, x), (4, { Queue.reset with phase := .idle, slot := 0, ctx := 9 })] }
def queue (p : QPhase) (c : Nat) : Queue :=
  { Queue.reset with cmd := c, phase := p, qcba := 0x8000, ctx := 0, logn := 4, prod := 5, cons := 5, rbase := 0x5000, lastck := 3 }
/-- A control block in host memory: ring base, context, and the other fields of R283. -/
def block : List Byte :=
  bytesOfWord 8 0x5000 ++ bytesOfWord 2 0 ++ bytesOfWord 1 2 ++ bytesOfWord 1 4 ++ bytesOfWord 2 3 ++ bytesOfWord 50 0 ++ bytesOfWord 4 5 ++
  bytesOfWord 4 3 ++ bytesOfWord 8 77 ++ bytesOfWord 48 0
def binding : State :=
  ((withQueue { Queue.reset with cmd := 1, qcba := 0x8000 }).setCtx 0 (some { programCtx with queue := none })).putRaw (blockLoc 0x8000) block
theorem rawPut (s : State) (a : Nat) (bs : List Byte) : (s.putRaw a bs).raw a bs.length = bs := Memory.readN_writeN ..
theorem settledBlock : binding.bindBlock 3 = block := by
  have h : ¬ (binding.queue 3).seen.length = 128 := by decide +kernel
  unfold State.bindBlock
  simp only [h, false_and, if_false]
  have hr : binding.raw (blockLoc (binding.queue 3).block) 128 = block := by
    rw [show (binding.queue 3).block = 0x8000 by decide +kernel, show 128 = block.length by decide +kernel, binding]
    exact rawPut _ _ block
  rw [hr]
  decide +kernel
def packet : List Byte :=
  bytesOfWord 2 1 ++ bytesOfWord 2 0 ++ bytesOfWord 4 1 ++ bytesOfWord 8 0x99 ++ bytesOfWord 48 0 ++ ((List.range 8).flatMap fun i => bytesOfWord 8 (i + 5))
def queueCtx (l : Option Launch) : Ctx := { programCtx with phase := .loaded, group := .placed, queue := some 3, launch := l }
def launch0 : Launch := { queue := 3, kidx := 0, cookie := 9, cevt := true, args := [] }
def areas : List (Nat × Nat) := [(0x100000000, 64), (0x100200000, 0), (0x100200000, 4096), (0x100201000, 15769856), (0x101200000, 5406720)]
theorem areasOf : planAreas (loading.imageAt 0) loadPlan (relocated.image loadPlan.code) = areas := by decide +kernel
/-- The pages of the areas: that of the code, those of the templates and the save area, and those of the spill area. -/
def pages : List Nat := 0x10000 :: (upFrom 0x10020 241 ++ upFrom 0x10120 83)
theorem pagesOf : areaPages areas = pages := by decide +kernel

theorem test_witness_evRegisterWrite_0 : ∃ (d : Nat),
    d < 8 :=
  ⟨7,
   by decide +kernel⟩

theorem test_witness_evRegisterWrite_1 : ∃ (off n : Nat),
    off % 8 + n > 8 :=
  ⟨4, 5,
   by decide +kernel⟩

theorem test_witness_evPartitionEnable : ∃ (s : State) (p : Nat) (v : Word),
    p < 64 ∧
    v.getLsbD 0 = true ∧
    s.partState p = 0 ∧
    fieldOf v 48 16 ≠ 0 ∧
    Claims.sharesFit s p :=
  ⟨enabled, 5, 0x0007000000003003,
   by decide +kernel⟩

theorem test_witness_evPartitionDisable : ∃ (s : State) (p : Nat) (v : Word),
    p < 64 ∧
    v.getLsbD 0 = false ∧
    s.partState p = 1 ∧
    s.l2 = [] :=
  ⟨enabled, 0, 0,
   by decide +kernel⟩

theorem test_witness_evPl2Write : ∃ (s : State) (d p : Nat) (v : Word),
    p < 64 ∧
    s.partState p = 0 ∧
    fieldOf v 0 5 ≤ 16 ∧
    fieldOf v 8 5 < fieldOf v 0 5 ∧
    fieldOf (s.pblock d p 8) 8 5 ≤ fieldOf v 8 5 :=
  ⟨rich, 0, 63, 0x0F10,
   by decide +kernel⟩

theorem test_witness_evL2dirWrite : ∃ (s : State) (p : Nat) (v : Word),
    p < 64 ∧
    (∀ d ∈ s.presentDies, fieldOf (s.pblock d p 8) 8 5 ≤ fieldOf v 8 5 ∧
        fieldOf v 8 5 < fieldOf (s.pblock d p 8) 0 5) :=
  ⟨(allDies.foldl (fun s d => s.setDctl d (0x4000 + 0x40 * 5 + 8) 0x0210) rich), 5, 0x0F00,
   by decide +kernel⟩

theorem test_witness_evQuotaWrite : ∃ (s : State) (p : Nat) (tl : Bool) (v : Word),
    (∀ k < 64, s.partState k = 0) ∧
    s.partState p = 0 ∧
    (if tl then fieldOf v 0 12 + fieldOf v 32 13 ≤ 4096
        else fieldOf v 0 5 + fieldOf v 8 6 ≤ 32 ∧ fieldOf v 16 10 + fieldOf v 32 11 ≤ 1024) :=
  ⟨rich, 5, false, 0x0000012000300305,
   by decide +kernel⟩

theorem test_witness_evQuotaWrite_tl : ∃ (s : State) (p : Nat) (tl : Bool) (v : Word),
    (∀ k < 64, s.partState k = 0) ∧
    s.partState p = 0 ∧
    (if tl then fieldOf v 0 12 + fieldOf v 32 13 ≤ 4096
        else fieldOf v 0 5 + fieldOf v 8 6 ≤ 32 ∧ fieldOf v 16 10 + fieldOf v 32 11 ≤ 1024) :=
  ⟨rich, 5, true, 0x0000010000000F00,
   by decide +kernel⟩

theorem test_witness_evPqclmWrite : ∃ (s : State) (p : Nat) (v : Word),
    (∀ k < 64, s.partState k = 0) ∧
    s.partState p = 0 ∧
    fieldOf v 0 12 + fieldOf v 32 13 ≤ 4096 :=
  ⟨rich, 5, 0x0000010000000F00,
   by decide +kernel⟩

theorem test_witness_evGpoolWrite : ∃ (s : State) (v : Word),
    let n := fieldOf v 32 16
    4 ≤ n ∧
    n ≤ 1024 ∧
    (∀ k < 1024, n ≤ k → s.gvState k = 0) :=
  ⟨generations, 0x0000000800000400,
   by decide +kernel⟩

theorem test_witness_evL2Refill_0 : ∃ (s : State) (d slice x : Nat) (c : Ctx),
    let m := slice * 65536 + x
    s.ctx? x = some c ∧
    s.refillTime d ≤ SMap.get 0 (s.die d).l2At m :=
  ⟨(rich.modDie 0 fun y => { y with l2At := [(459777, 1000000000)] }), 0, 7, 1025, (rich.ctx? 1025).getD programCtx,
   by decide +kernel⟩

theorem test_witness_evL2Refill_1 : ∃ (s : State) (d slice x : Nat) (c : Ctx),
    let m := slice * 65536 + x
    s.ctx? x = some c ∧
    SMap.get 0 (s.die d).l2At m < s.refillTime d :=
  ⟨rich, 0, 7, 1025, (rich.ctx? 1025).getD programCtx,
   by decide +kernel⟩

theorem test_witness_evSyncRefill_0 : ∃ (s : State) (d p : Nat),
    s.refillTime d ≤ SMap.get 0 (s.die d).syncAt p :=
  ⟨(rich.modDie 0 fun y => { y with syncAt := [(5, 1000000000)] }), 0, 5,
   by decide +kernel⟩

theorem test_witness_evSyncRefill_1 : ∃ (s : State) (d p : Nat),
    SMap.get 0 (s.die d).syncAt p < s.refillTime d :=
  ⟨rich, 0, 5,
   by decide +kernel⟩

theorem test_witness_evCriticalEnd : ∃ (s : State) (p : Nat),
    (∀ k, k ≠ p → (s.pcfg k).getLsbD 1 = false) ∧
    p < 64 ∧
    s.partState p ≠ 0 ∧
    (s.pcfg p).getLsbD 1 = true :=
  ⟨critical, 3,
   getAll (P := fun k v => k ≠ 3 → v.getLsbD 1 = false) (m := critical.parts) (d := pcfgReset) (fun _ _ => (by decide +kernel)) (by decide +kernel), by decide +kernel⟩

theorem test_witness_evGenQuiet : ∃ (s : State) (g : Nat),
    s.gvState g = 2 ∧
    s.inflt (BitVec.ofNat 10 g) = 0 :=
  ⟨generations, 2,
   by decide +kernel⟩

theorem test_witness_evCarderStart : ∃ (s : State),
    s.carder.active = false ∧
    (∃ g < 1024, s.gvState g = 3) ∧
    s.l2 = [] :=
  ⟨generations,
   by decide +kernel⟩

theorem test_witness_evCarderSweep : ∃ (s : State) (d : Nat),
    (∀ c, SMap.wf (Reg.wiped 64) (s.core c).sc.s = true) ∧
    s.carder.active = true ∧
    d ∈ s.carder.todo ∧
    SMap.wf TagUnit.wiped s.metas = true ∧
    (∀ e ∈ s.metas, e.1 = unitBase e.1) ∧
    SMap.wf Core.reset s.cores = true :=
  ⟨sweeping, 0,
   getAll (P := fun _ k => SMap.wf (Reg.wiped 64) k.sc.s = true) (m := sweeping.cores) (d := Core.reset) (fun _ => (by decide +kernel)) (by decide +kernel), by decide +kernel⟩

theorem test_witness_evCarderEnd : ∃ (s : State),
    s.carder.active = true ∧
    s.carder.todo = [] ∧
    s.carder.set.Nodup ∧
    (∀ g ∈ s.carder.set, s.gvState g = 4) :=
  ⟨swept,
   by decide +kernel⟩

theorem test_witness_evHostWrite : ∃ (s : State) (x d loc : Nat) (va : Word) (bs : List Byte) (c : Ctx) (tagged : Bool),
    s.ctx? x = some c ∧
    bs ≠ [] ∧
    va.toNat % 64 + bs.length ≤ 64 ∧
    (∀ e ∈ allDies, s.ingressOf e (partOf x) < 4096) ∧
    s.ingressOf d (partOf x) < 4096 ∧
    s.ctxPlace x d va.toNat = some (loc, tagged) ∧
    loc < 2 ^ 84 ∧
    loc % 64 = va.toNat % 64 ∧
    (s.unit loc).poison = false ∧
    s.errors = [] :=
  ⟨rich, 0, 0, locDram 0 0x2003D, 0x10000003D, [1, 2, 3], programCtx, true,
   by decide +kernel⟩

theorem test_witness_evLoad_0 : ∃ (s : State) (d : Nat) (p : LoadPlan),
    let w := s.dctl d 0x208
    let r := s.loadCode (s.imageAt d) (s.imagePlaced d) (fieldOf w 10 6) p
    fieldOf w 0 4 = 1 ∧
    s.present d = true ∧
    r ≠ 0 ∧
    r < 256 :=
  ⟨loadingBad, 0, loadPlan,
   by decide +kernel⟩

theorem test_witness_evLoad_1 : ∃ (s u : State) (d g : Nat) (p : LoadPlan) (rd : ImgRead),
    let w := s.dctl d 0x208
    let part := fieldOf w 10 6
    let x := part * 1024 + p.index
    let raw := s.imageAt d
    let made := { newCtx p (rd.image p.code) (raw.num 8 1) g (Config.drawKey s.free) with queue := s.boundQueue x }
    raw.relocated p.code p.data = some rd ∧
    ({ ((p.tables.foldl (fun t e => t.putRaw (locDram e.1 e.2.1) (bytesOf e.2.2)) u).setCtx x (some made)) with
        free := s.free + 1 } : State).planMaps raw p (rd.image p.code) = true ∧
    fieldOf w 0 4 = 1 ∧
    s.present d = true ∧
    s.loadCode raw (s.imagePlaced d) part p = 0 ∧
    s.takeGen x = some (g, u) ∧
    s.planFree part p = true :=
  ⟨loading, afterGen, 0, 0, loadPlan, relocated,
   someGetD (by decide +kernel), planMaps (d := 0) (by decide +kernel) (by decide +kernel) (areasOf ▸ Bool.and_eq_true_iff.mpr ⟨(by decide +kernel), framesApart pages ((List.range 12).map (2049 + ·)) (fun m => BitVec.ofNat 64 (0x400033 + 0x200000 * (m - 2049))) 65536 0x20 pagesOf (by decide +kernel) (by decide +kernel) (by decide +kernel) (by decide +kernel)⟩) (by decide +kernel) (by decide +kernel) (by decide +kernel) (pagesMeet 8 (by decide +kernel) (by decide +kernel)) (pagesMeet 3 (by decide +kernel) (by decide +kernel)), by decide +kernel⟩

theorem test_witness_evUnload : ∃ (s : State) (d x : Nat) (c : Ctx),
    fieldOf (s.dctl d 0x208) 0 4 = 2 ∧
    s.present d = true ∧
    (s.dctl d 0x200).toNat = x ∧
    x < 2 ^ 16 ∧
    s.ctx? x = some c ∧
    c.phase ≠ .running ∧
    c.phase ≠ .halted :=
  ⟨(({ rich with gvstat := [(1, 1), (2, 1)] }.setDctl 0 0x208 2 |>.setDctl 0 0x200 1025).setCtx 1025 (some unloadCtx)), 0, 1025, unloadCtx,
   by decide +kernel⟩

theorem test_witness_evBind : ∃ (s : State) (n slot : Nat) (c : Ctx),
    let x := s.queue n
    let b := s.bindBlock n
    x.cmd = 1 ∧
    x.phase = .unbound ∧
    s.pollingSlot x.die = some slot ∧
    s.blockOk n b = true ∧
    s.ctx? (fieldAt b 8 2) = some c :=
  ⟨binding, 3, 1, { programCtx with queue := none },
   (by simp only [settledBlock]; decide +kernel)⟩

theorem test_witness_evStop : ∃ (s : State) (n : Nat),
    let x := s.queue n
    x.cmd = 2 ∧
    x.phase ∈ [.idle, .pending, .launched] :=
  ⟨withQueue (queue .launched 2), 3,
   by decide +kernel⟩

theorem test_witness_evStart : ∃ (s : State) (n : Nat),
    let x := s.queue n
    x.cmd = 3 ∧
    x.phase = .stopped :=
  ⟨withQueue (queue .stopped 3), 3,
   by decide +kernel⟩

theorem test_witness_evExport : ∃ (s : State) (n : Nat),
    let x := s.queue n
    x.cmd = 4 ∧
    x.phase = .stopped :=
  ⟨withQueue (queue .stopped 4), 3,
   by decide +kernel⟩

theorem test_witness_evUnbind : ∃ (s : State) (n : Nat) (c : Ctx),
    let x := s.queue n
    x.cmd = 5 ∧
    (x.phase = .stopped ∨ x.phase = .fenced) ∧
    s.ctx? x.ctx = some c ∧
    c.queue = some n :=
  ⟨((withQueue (queue .fenced 5)).setCtx 0 (some { programCtx with queue := some 3 })), 3, { programCtx with queue := some 3 },
   by decide +kernel⟩

theorem test_witness_evDoorbell : ∃ (s : State) (p q : Nat),
    let n := 16 * p + q
    let x := s.queue n
    x.phase ≠ .unbound ∧
    x.phase ≠ .fenced :=
  ⟨withQueue (queue .idle 0), 0, 3,
   by decide +kernel⟩

theorem test_witness_evQueueServe : ∃ (s : State) (n : Nat) (c : Ctx),
    let x := s.queue n
    let a := x.rbase.toNat + 128 * (x.cons.toNat % 2 ^ x.logn)
    let b := s.raw (locHost a) 128
    x.phase = .pending ∧
    s.ctx? x.ctx = some c ∧
    c.phase = .loaded ∧
    c.launch = none ∧
    (s.vf (n / 16)).ringFull = false ∧
    s.present x.die = true ∧
    fieldAt b 0 2 = 1 ∧
    fieldAt b 4 4 < 2 ∧
    zeroAt b 0x10 48 = true ∧
    c.group = .placed ∧
    0 < c.ndie ∧
    fieldAt b 2 2 + c.ndie ≤ c.image.kernels.length :=
  ⟨(((withQueue { queue .pending 0 with prod := 6 }).setCtx 0 (some (queueCtx none))).putRaw (locHost (0x5000 + 128 * 5)) packet), 3, queueCtx none,
   by decide +kernel⟩

theorem test_witness_evLaunchComplete : ∃ (s : State) (n : Nat) (c : Ctx) (l : Launch),
    let x := s.queue n
    s.ctx? x.ctx = some c ∧
    c.phase = .loaded ∧
    x.phase = .launched ∧
    c.launch = some l ∧
    s.launchQuiet x.ctx = true ∧
    (s.vf (n / 16)).ringFull = false :=
  ⟨((withQueue { queue .launched 2 with prod := 6 }).setCtx 0 (some (queueCtx (some launch0)))), 3, queueCtx (some launch0), launch0,
   by decide +kernel⟩

end Tests.Witness3

/-! ### Witnesses: placement and debug -/

namespace Tests.Witness4

def groupTable (l : List Word) : SMap Word := l.zipIdx.foldl (fun m e => SMap.set 0 m (0x400 + 8 * e.2) e.1) []
/-- A group-table entry: die, creel, sequencer and core mask (R335). -/
def groupEntry (d c q m : Nat) : Word := BitVec.ofNat 64 (2 ^ 63 + d * 2 ^ 56 + c * 2 ^ 52 + q * 2 ^ 50 + m)
/-- Cores 32, 33, 36 and 48 bound to the sequencers of creels 2 and 3. -/
def bound : State := bindCore (bindCore (bindCore (bindCore rich 32 0x80) 33 0x80) 36 0x81) 48 0x82
def placingCtx : Ctx :=
  { programCtx with phase := .loaded, group := .unplaced, gangs := [], ndie := 0, ncore := 0, cctl := groupTable [groupEntry 0 2 0 3, groupEntry 0 2 1 0x10, groupEntry 0 3 2 1] }
def placing : State := bound.setCtx 0 (some placingCtx)
def gang0 : GangPlace := { seq := 0, mask := 1, drank := 0, grank := 0 }
def evicting : State :=
  (rich.modCore 0 fun k => { k with sp := { k.sp with tcause := 512 } }).setCtx 0 (some { programCtx with group := .running })
def parked0 : Parked := { seq := { programSeq with pc := 0x100000040 }, cores := [(0, rich.core 0), (1, rich.core 1)], withState := false, sleft := 9 }
def splitCtx : Ctx := { programCtx with group := .split, evicted := [0], parkedAt := [(0, parked0)], cctl := [(0x220, 0x10001)] }
def split : State := ((bindCore (bindCore rich 0 0x80) 1 0x80).modSeq 0 fun x => { x with ctx := none, phase := .idle }).setCtx 0 (some splitCtx)
def checkingCtx : Ctx := { programCtx with group := .checking }
def checking : State := (((rich.setDctl 0 0x5A00 1).setDctl 0 0x5080 0x05000000).setCtx 0 (some checkingCtx)).modSeq 0 fun x => { x with phase := .held }
def owning (v o : Word) : State := rich.modCore 0 fun k => { k with pp := { k.pp with accw := some v }, mx := { k.mx with accown := o } }
def debugCtx (p : CtxPhase) : Ctx := { programCtx with phase := p, group := .running }
/-- A Running context whose partition the host may debug, and the same halted, with two entries in the landing queue of core 1. -/
def debugged : State := (rich.setCtx 0 (some (debugCtx .running))).setDctl 0 0xC008 1
def lq0 : LqEntry := { path := .s, file := .s, index := 1, value := 0, mask := 0, rem := 2, gen := 1, held := false, load := none }
def halted : State :=
  ((debugged.modSeq 0 fun x => { x with phase := .halted }).setCtx 0 (some (debugCtx .halted))).modCore 1 fun k => { k with pp := { k.pp with lq := [lq0, lq0] } }
/-- The same with the matrix state of core 1 owned by a protected context. -/
def guarded : State :=
  (halted.setCtx 1025 ((rich.ctx? 1025).map fun c => { c with image := { c.image with isProtected := true } })).modCore 1 fun k =>
    { k with mx := { k.mx with accown := 0x40100000000 } }

theorem test_witness_evPlace : ∃ (s : State) (x : Nat) (c : Ctx),
    s.ctx? x = some c ∧
    fieldOf (c.ctl 0x348) 0 4 = 0 ∧
    c.entriesOk = true :=
  ⟨placing, 0, placingCtx,
   by decide +kernel⟩

theorem test_witness_evRelease : ∃ (s : State) (x : Nat) (c : Ctx),
    s.ctx? x = some c ∧
    fieldOf (c.ctl 0x348) 0 4 = 0 :=
  ⟨placing, 0, placingCtx,
   by decide +kernel⟩

theorem test_witness_evEvict : ∃ (s : State) (x g : Nat) (c : Ctx) (p : GangPlace),
    s.ctx? x = some c ∧
    fieldOf (c.ctl 0x348) 0 4 = 0 ∧
    g < 512 ∧
    c.gangs[g]? = some p ∧
    (c.group = .running ∨ c.group = .yielding) ∧
    (s.seq p.seq).ctx = some x ∧
    (s.seq p.seq).sys = true ∧
    s.acting p.seq = true ∧
    (s.seq p.seq).phase = .run ∧
    s.fedOut p.seq = false :=
  ⟨evicting, 0, 0, { programCtx with group := .running }, gang0,
   by decide +kernel⟩

theorem test_witness_evReadmit : ∃ (s : State) (x g : Nat) (c : Ctx) (p : GangPlace) (k : Parked),
    s.ctx? x = some c ∧
    fieldOf (c.ctl 0x348) 0 4 = 0 ∧
    g < 512 ∧
    c.gangs[g]? = some p ∧
    c.group = .split ∧
    g ∈ c.evicted ∧
    c.parkedAt.find? (fun e => e.1 == g) = some (g, k) ∧
    k.withState = false ∧
    (s.seq p.seq).ctx = none ∧
    (s.seq p.seq).phase = .idle ∧
    (s.seq p.seq).fenced = false ∧
    c.gangAt p.seq = some g ∧
    s.paired p.seq = false :=
  ⟨split, 0, 0, splitCtx, gang0, parked0,
   by decide +kernel⟩

theorem test_witness_evCbind : ∃ (s : State) (c : Nat) (v : Word),
    let q := c / 16 * 4 + fieldOf v 0 2
    c < 1280 ∧
    (s.cbind c).getLsbD 7 = false ∧
    v.getLsbD 7 = true ∧
    s.pairTouches q = false ∧
    s.hasPlaced q = false ∧
    (s.seq q).phase = .idle ∧
    (s.seq q).ctx = none :=
  ⟨bound, 50, 0xF3,
   by decide +kernel⟩

theorem test_witness_evPair : ∃ (s : State) (d j : Nat) (v : Word),
    let old := s.dctl d (0x5A00 + 8 * j)
    (∀ i < 4, v.getLsbD i = true → old.getLsbD i = false →
        let q := d * 40 + j * 8 + i
        (∀ k < 16, s.cbind (q / 4 * 16 + k) = s.cbind (q / 4 * 16 + k + 16)) ∧ (s.boundGang q).length ∈ [1, 2, 4, 8, 16] ∧
        s.hasPlaced q = false ∧ s.hasPlaced (q + 4) = false) :=
  ⟨bindCore (bindCore rich 32 0x80) 48 0x80, 0, 1, 0xF1,
   belowFour (by decide +kernel) (by decide +kernel) (by decide +kernel) (by decide +kernel)⟩

theorem test_witness_evPairSelftest : ∃ (s : State) (q x creel : Nat) (c : Ctx),
    (s.seq q).ctx = some x ∧
    s.ctx? x = some c ∧
    c.group = .checking ∧
    s.paired q = true ∧
    (s.streams x).all s.gangQuiet = true ∧
    fieldOf (s.dctl (creel / 10) (0x5000 + 0x100 * (creel % 10) + 0x80)) 24 5 ≠ 0x1F ∧
    (s.seq q).phase = .held ∧
    (s.seq q).parent = none :=
  ⟨checking, 0, 0, 0, checkingCtx,
   by decide +kernel⟩

theorem test_witness_evPreemptRequest : ∃ (s : State) (x : Nat) (c : Ctx),
    s.ctx? x = some c :=
  ⟨rich, 1025, (rich.ctx? 1025).getD programCtx,
   by decide +kernel⟩

theorem test_witness_evAccown : ∃ (s : State) (c : Nat) (v : Word),
    let o := (s.core c).mx.accown
    (s.core c).pp.accw = some v ∧
    s.unitsIdle (s.withShadow c) = true ∧
    (s.seqOfCore c).isSome = true ∧
    (accOwner v = accOwner o ∨ (s.ctx? (accOwner v) = none ∧
        (s.ctx? (accOwner o) = none ∨ (fieldOf o 8 8 = 0 ∧ accSq o = false ∧ accFb o = false)))) :=
  ⟨owning 0x70007 0x50005, 0, 0x70007,
   by decide +kernel⟩

theorem test_witness_evDebugHalt : ∃ (s : State) (q x : Nat) (c : Ctx),
    (((s.seq q).phase = .run ∧ s.fedOut q = false ∧ (s.seq q).released = false) ∨
        (∃ k, (s.seq q).phase = .bubble k ∨ (s.seq q).phase = .start k ∨ (s.seq q).phase = .restore k)) ∧
    (s.seq q).ctx = some x ∧
    s.ctx? x = some c ∧
    c.group ≠ .starting ∧
    s.debugOk x (dieOfSeq q) = true :=
  ⟨debugged, 0, 0, debugCtx .running,
   Or.inl (by decide +kernel), by decide +kernel⟩

theorem test_witness_evDebugHalt_bubble : ∃ (s : State) (q x : Nat) (c : Ctx),
    (((s.seq q).phase = .run ∧ s.fedOut q = false ∧ (s.seq q).released = false) ∨
        (∃ k, (s.seq q).phase = .bubble k ∨ (s.seq q).phase = .start k ∨ (s.seq q).phase = .restore k)) ∧
    (s.seq q).ctx = some x ∧
    s.ctx? x = some c ∧
    c.group ≠ .starting ∧
    s.debugOk x (dieOfSeq q) = true :=
  ⟨(debugged.modSeq 0 fun x => { x with phase := .bubble 2 }), 0, 0, debugCtx .running,
   Or.inr ⟨2, (by decide +kernel)⟩, by decide +kernel⟩

theorem test_witness_evDebugResume : ∃ (s : State) (q x : Nat) (c : Ctx),
    (s.seq q).ctx = some x ∧
    s.ctx? x = some c ∧
    (s.seq q).phase = .halted ∧
    s.debugOk x (dieOfSeq q) = true :=
  ⟨halted, 0, 0, debugCtx .halted,
   by decide +kernel⟩

theorem test_witness_evDebugWrite_0 : ∃ (s : State) (q c i : Nat),
    s.debugMay q c = true ∧
    i < 32 :=
  ⟨halted, 0, 0, 31,
   by decide +kernel⟩

theorem test_witness_evDebugWrite_1 : ∃ (s : State) (q c i : Nat),
    s.debugMay q c = true ∧
    i < 8 :=
  ⟨halted, 0, 0, 7,
   by decide +kernel⟩

theorem test_witness_evDebugWrite_2 : ∃ (s : State) (q c i : Nat),
    s.debugMay q c = true ∧
    i < 64 :=
  ⟨halted, 0, 0, 63,
   by decide +kernel⟩

theorem test_witness_evDebugWrite_3 : ∃ (s : State) (q c i : Nat),
    s.debugMay q c = true ∧
    i < 8 :=
  ⟨halted, 0, 0, 7,
   by decide +kernel⟩

theorem test_witness_evDebugWrite_4 : ∃ (s : State) (q c i : Nat),
    s.debugMay q c = true ∧
    i < 16 :=
  ⟨halted, 0, 1, 15,
   by decide +kernel⟩

theorem test_witness_evDebugWrite_5 : ∃ (s : State) (q c : Nat),
    s.debugMay q c = true ∧
    s.guardedMatrix c = true :=
  ⟨guarded, 0, 1,
   by decide +kernel⟩

theorem test_witness_evDebugWrite_6 : ∃ (s : State) (q c i : Nat),
    s.debugMay q c = true ∧
    i < 8 ∧
    s.guardedMatrix c = false :=
  ⟨halted, 0, 1, 7,
   by decide +kernel⟩

theorem test_witness_evDebugWrite_7 : ∃ (s : State) (q c : Nat),
    s.debugMay q c = true :=
  ⟨halted, 0, 1,
   by decide +kernel⟩

theorem test_witness_evDebugLq_0 : ∃ (s : State) (q c i : Nat) (d : Word),
    s.debugMay q c = true ∧
    i < 32 ∧
    (fieldOf d 56 3 = 7 ∨ fieldOf d 53 3 = 7) :=
  ⟨halted, 0, 1, 31, 0x8700000000000000,
   by decide +kernel⟩

theorem test_witness_evDebugLq_1 : ∃ (s : State) (q c i : Nat) (d : Word),
    s.debugMay q c = true ∧
    i < 32 ∧
    d.getLsbD 63 = false ∧
    fieldOf d 56 3 ≠ 7 ∧
    fieldOf d 53 3 ≠ 7 :=
  ⟨halted, 0, 1, 1, 0,
   by decide +kernel⟩

theorem test_witness_evDebugLq_2 : ∃ (s : State) (q c i : Nat) (d : Word),
    let k := s.core c
    s.debugMay q c = true ∧
    i < 32 ∧
    d.getLsbD 63 = true ∧
    fieldOf d 56 3 ≠ 7 ∧
    fieldOf d 53 3 ≠ 7 ∧
    i < k.pp.lq.length :=
  ⟨halted, 0, 1, 1, 0x86C0000000000000,
   by decide +kernel⟩

end Tests.Witness4

/-! ### Witnesses: translation and links -/

namespace Tests.Witness5

def tlbed : State :=
  (((rich.modDie 0 fun y => { y with tlb := [⟨1, 0x100000000, 3, 5⟩, ⟨1, 0x100010000, 3, 5⟩] }).setDctl 0 0x300 0x100000000).modDie 0 fun y =>
    { y with inval := [⟨1, 0, 0, false, [1], [], none⟩, ⟨1, 0, 0, false, [77], [(1, 5)], none⟩] })
/-- A page whose entry is on hold, for the walk of another die's fetch. -/
def held : State := rich.putRaw (locDram 0 0x13000) (bytesOf 0x20273)
def migrating : State := (rich.setDctl 0 0x320 0x40000).setDctl 0 0x328 0x90000
def withPort (w : State) (d p : Nat) (x : Port) : State := w.modDie d fun y => { y with ports := SMap.set Port.reset y.ports p x }
def keyed : Port := { Port.reset with nxt := some 5, staged := 0x77, err := true }
/-- `w.snd` waits for credit on both cores of a gang. -/
def sending : Instr := .wSnd { grd := 0, ch := 5, vs := 3 }
def sendCtx : Ctx := { programCtx with cctl := [(0x220, 0x10001), (0x3A8, 0x8000000000000000)] }
def stalled : State :=
  [0, 1].foldl (fun s c => s.modCore c fun k => k.modRq 5 fun r => { r with credits := 0 }) ((rich.withFetchWord 512 (encode sending)).setCtx 0 (some sendCtx))
/-- Much later, with the smallest watchdog time. -/
def late : State := { (rich.setDctl 0 0xB308 1).setDctl 1 0xB308 1 with time := 17 * 100000000 }
def waiting : Flit := { noFlit with kind := 1, src := rich.selfFab 0, note := { FlitNote.none with tries := 1, since := some 3 } }
def part (loc off len : Nat) : Piece := { loc := loc, off := off, len := len, tagged := true, done := false }
def farLoad : Flight :=
  { quiet with id := 9, bnd := 4, op := .load .vector false, pieces := [part (locFabric 0x12345650) 0 32], data := List.replicate 32 7, window := some 3, acked := true, sent := some 4 }

theorem test_witness_evTlbInvalidate_0 : ∃ (s : State) (d : Nat),
    (s.dctl d 0x308).getLsbD 0 = true :=
  ⟨tlbed.setDctl 0 0x308 1, 0,
   by decide +kernel⟩

theorem test_witness_evTlbInvalidate_1 : ∃ (s : State) (d : Nat) (v : Word),
    (s.dctl d 0x308).getLsbD 0 = false ∧
    v.getLsbD 0 = true :=
  ⟨tlbed, 0, 0x0000000100004001,
   by decide +kernel⟩

theorem test_witness_evTlbDone : ∃ (s : State) (d : Nat),
    let finished (v : Inval) : Prop := (∀ n ∈ v.flights, ∀ f, s.flight? n = some f → f.allDone = true) ∧
        (∀ g ∈ v.guests, (∀ w ∈ (s.die g.1).sock.writes, w.id ≠ g.2) ∧ ∀ w ∈ (s.die g.1).sock.invs, w.id ≠ g.2) ∧
        ∀ a, v.forUnload = some a → ∀ k ∈ s.cores, ∀ ch ∈ k.2.chan, ∀ r ∈ ch.2, r.gone ≠ some a
    (∃ v ∈ (s.die d).inval, v.forUnload = none ∧ finished v) :=
  ⟨tlbed, 0,
   by decide +kernel⟩

theorem test_witness_evMigRewalk_0 : ∃ (s : State) (q : Nat),
    let d := dieOfSeq q
    let pc := (s.seq q).pc.toNat
    (s.seq q).ctx ≠ none ∧
    s.walk (s.seq q).asid d pc = .hold :=
  ⟨held, 0,
   by decide +kernel⟩

theorem test_witness_evMigRewalk_1 : ∃ (s : State) (q : Nat) (e lvl : _),
    let d := dieOfSeq q
    let pc := (s.seq q).pc.toNat
    (s.seq q).ctx ≠ none ∧
    s.walk (s.seq q).asid d pc = .leaf e lvl :=
  ⟨rich, 0, 0x20073, 3,
   by decide +kernel⟩

theorem test_witness_evMigrate : ∃ (s : State) (d : Nat) (v : Word),
    let n := fieldOf v 32 32
    let src := (s.dctl d 0x320).toNat / 2 ^ 16 * 2 ^ 16
    let dst := (s.dctl d 0x328).toNat / 2 ^ 16 * 2 ^ 16
    d < 8 ∧
    v.getLsbD 0 = true ∧
    (s.dctl d 0x330).getLsbD 0 = false ∧
    src + n * 65536 ≤ dramBytes ∧
    dst + n * 65536 ≤ dramBytes ∧
    (src + n * 65536 ≤ dst ∨ dst + n * 65536 ≤ src) ∧
    s.errors = [] ∧
    (∀ i < n * 1024, s.migWaits d src dst i = false) :=
  ⟨migrating, 0, 0x0000000100000001,
   by decide +kernel⟩

theorem test_witness_evMigrateDone_0 : ∃ (s : State) (d src dst n : Nat) (left : List Nat),
    (s.die d).mig = some (src, dst, n, left) ∧
    (∃ i ∈ left, s.migWaits d src dst i = true) :=
  ⟨((migrating.modDie 0 fun y => { y with mig := some (0x40000, 0x90000, 1, [3]) }).setUnit (locDram 0 0x400C0) { tag := Tag.of 1, poison := false, pend := true }), 0, 0x40000, 0x90000, 1, [3],
   by decide +kernel⟩

theorem test_witness_evMigrateDone_1 : ∃ (s : State) (d src dst n : Nat) (left : List Nat),
    (s.die d).mig = some (src, dst, n, left) ∧
    (∀ i ∈ left, s.migWaits d src dst i = false) :=
  ⟨(migrating.modDie 0 fun y => { y with mig := some (0x40000, 0x90000, 1, [3, 1023]) }), 0, 0x40000, 0x90000, 1, [3, 1023],
   by decide +kernel⟩

theorem test_witness_evTrain : ∃ (s : State) (d p : Nat),
    let x := s.port d p
    x.cmd = 1 ∧
    x.phase ≠ .training :=
  ⟨(withPort rich 0 0 { keyed with cmd := 1 }), 0, 0,
   by decide +kernel⟩

theorem test_witness_evInstall : ∃ (s : State) (d p : Nat),
    let x := s.port d p
    x.cmd = 2 ∧
    (x.phase ≠ .held ∨ x.open_ = 0) :=
  ⟨(withPort rich 0 2 { keyed with cmd := 2, nxt := none, phase := .up }), 0, 2,
   by decide +kernel⟩

theorem test_witness_evTrainComplete : ∃ (s : State) (d p : Nat),
    d < 8 ∧
    s.portPresent d p = true ∧
    (∀ e ∈ Claims.ends d p, (s.port e.1 e.2).phase = .training ∧ (s.port e.1 e.2).nxt ≠ none ∧
        s.ticks ≤ (s.port e.1 e.2).since + 1000000) :=
  ⟨(withPort (withPort { rich with time := 17 * 3000000 } 0 0 { keyed with phase := .training, since := 2000000 }) 1 1 { keyed with phase := .training, since := 3000000 }), 0, 0,
   by decide +kernel⟩

theorem test_witness_evTrainTimeout : ∃ (s : State) (d p : Nat),
    d < 8 ∧
    (s.port d p).phase = .training ∧
    (s.port d p).since + 1000000 < s.ticks :=
  ⟨(withPort { rich with time := 17 * 3000001 } 0 0 { keyed with phase := .training, since := 2000000 }), 0, 0,
   by decide +kernel⟩

theorem test_witness_evKeySwitch : ∃ (s : State) (d p : Nat),
    let x := s.port d p
    x.nxt ≠ none ∧
    x.open_ = 0 ∧
    ((x.phase = .up ∧ x.lswt.toNat ≤ s.tbase d) ∨ x.phase = .held) :=
  ⟨(withPort rich 0 0 { keyed with phase := .up, lswt := 1 }), 0, 0,
   by decide +kernel⟩

theorem test_witness_evLinkSelftest : ∃ (s : State) (d p r : Nat),
    (s.port d p).phase = .contained ∧
    (r = 1 ∨ r = 2) :=
  ⟨(withPort rich 0 0 { keyed with phase := .contained }), 0, 0, 2,
   by decide +kernel⟩

theorem test_witness_evWatchdog_0 : ∃ (s : State) (q x n : Nat) (c : Ctx),
    (s.seq q).ctx = some x ∧
    s.ctx? x = some c ∧
    c.group = .running ∧
    s.creditStall q = true ∧
    (s.seq q).creditAt = some ((s.seq q).issued, n) ∧
    n + 1024 * max 1 (fieldOf (s.dctl (dieOfSeq q) 0xB308) 0 32) ≤ s.ticks ∧
    (s.streams x).contains q = true :=
  ⟨{ (stalled.modSeq 0 fun y => { y with creditAt := some (y.issued, 3) }) with time := 17 * (3 + 1024 * 1024) }, 0, 0, 3, sendCtx,
   by decide +kernel⟩

theorem test_witness_evWatchdog_1 : ∃ (s : State) (d p : Nat) (f : Flit) (rest : List Flit),
    (s.port d p).sendq = f :: rest ∧
    0 < f.note.tries ∧
    f.note.since.elim false (fun n => decide (n + 1024 * max 1 (fieldOf (s.dctl d 0xB308) 0 32) ≤ s.ticks)) = true ∧
    f.src = s.selfFab d ∧
    f.kind.toNat ∈ [0, 1, 3, 4, 7, 8] :=
  ⟨(withPort late 0 2 { Port.reset with phase := .up, sendq := [waiting] }), 0, 2, waiting, [],
   by decide +kernel⟩

theorem test_witness_evWatchdog_2 : ∃ (s : State) (d p : Nat),
    (match Claims.farEnd d p with
        | some (e, r) => ∃ f ∈ (s.port e r).wire, ∃ n, f.note.tries = 0 ∧ f.note.since = some n ∧ n + 1024 * max 1 (fieldOf (s.dctl d 0xB308) 0 32) ≤ s.ticks
        | none => s.portPresent d p = true ∧ (s.port d p).phase = .up) ∧
    d < 8 ∧
    p < 6 ∧
    ((s.port d p).phase = .up ∨ (s.port d p).phase = .held) :=
  ⟨(withPort (withPort late 0 0 { Port.reset with phase := .up }) 1 1 { Port.reset with phase := .held, wire := [{ waiting with note := { waiting.note with tries := 0 } }] }), 0, 0,
   ⟨{ waiting with note := { waiting.note with tries := 0 } }, (by decide +kernel), 3, (by decide +kernel), (by decide +kernel), (by decide +kernel)⟩, by decide +kernel⟩

theorem test_witness_evWatchdog_2_outer : ∃ (s : State) (d p : Nat),
    (match Claims.farEnd d p with
        | some (e, r) => ∃ f ∈ (s.port e r).wire, ∃ n, f.note.tries = 0 ∧ f.note.since = some n ∧ n + 1024 * max 1 (fieldOf (s.dctl d 0xB308) 0 32) ≤ s.ticks
        | none => s.portPresent d p = true ∧ (s.port d p).phase = .up) ∧
    d < 8 ∧
    p < 6 ∧
    ((s.port d p).phase = .up ∨ (s.port d p).phase = .held) :=
  ⟨(withPort late 0 2 { Port.reset with phase := .up }), 0, 2,
   ((by decide +kernel) : _ ∧ _), by decide +kernel⟩

theorem test_witness_evWatchdog_3 : ∃ (s : State) (n w k : Nat) (f : Flight) (p : Piece) (c : Ctx),
    (∀ a b, f.op ≠ .send a b) ∧
    s.flight? n = some f ∧
    f.window = some w ∧
    f.acked = true ∧
    s.ctx? f.ctx = some c ∧
    f.pieces = [p] ∧
    p.done = false ∧
    isFabric p.loc = true ∧
    f.sent = some k ∧
    k + 1024 * max 1 (fieldOf (s.dctl (dieOfCore f.core) 0xB308) 0 32) ≤ s.ticks :=
  ⟨{ late with flights := [farLoad] }, 9, 3, 4, farLoad, part (locFabric 0x12345650) 0 32, programCtx,
   (fun _ _ h => nomatch h), by decide +kernel⟩

end Tests.Witness5

/-! ### Witnesses: links -/

namespace Tests.Witness6

def withPort (w : State) (d p : Nat) (x : Port) : State := w.modDie d fun y => { y with ports := SMap.set Port.reset y.ports p x }
def self : BitVec 18 := rich.selfFab 0
def ask : Flit := { noFlit with kind := 1, src := self, dst := self, payload := 99, gen := 1, addr := 0x50040 }
def upPort : Port := { Port.reset with phase := .up, cur := some 5, epoch := 3, count := 100, sendq := [ask, { ask with kind := 2 }] }
/-- Die 0 exports 1 MiB from 0x50000 on to itself. -/
def exporting : State := (rich.setDctl 0 0x400 0xC140000000050000).setDctl 0 0x408 (BitVec.ofNat 64 (self.toNat * 2 ^ 46 + 1 * 2 ^ 16 + 2))
def write : Flit := { ask with kind := 0, mask := 0xF00F000000000003, payload := BitVec.ofNat 512 (0x1122334455667788 * (2 ^ 448 + 2 ^ 20 + 1)) }
def onWire (f : Flit) : State := withPort (withPort exporting 0 0 { upPort with wire := [f, ask] }) 1 1 upPort
def ownQueue (f : Flit) : State := withPort exporting 0 6 { Port.reset with recv := [f, ask] }
def grant : Acc := { gen := 2, tagged := true, part := none }
def tagFlit : Flit := { ask with kind := 10, epoch := 1 }
def landed : Flit := { write with note := { FlitNote.none with landed := true } }
/-- A response on its way to a load of 32 bytes that waits for it. -/
def farLoad : Flight :=
  { quiet with id := 9, bnd := 4, op := .load .vector false, pieces := [{ loc := locFabric 0x12345650, off := 0, len := 32, tagged := true, done := false }],
               data := List.replicate 32 7, window := some 3, acked := true, sent := some 4 }
def answer : Flit := { write with kind := 2, addr := 0x12345640, note := { FlitNote.none with fid := some 9 } }
def group (f : Flit) (l : List Flight) : State := { withPort exporting 0 0 { upPort with recv := [f, tagFlit, ask], ifail := 0xFFFE } with flights := l }
def refusing (f : Flight) : State := { rich.modDie 0 fun y => { y with refused := [(answer, 5), (ask, 1)] } with flights := [f] }

theorem test_witness_evFlitSend_0 : ∃ (s : State) (d p : Nat),
    let x := s.port d p
    d < 8 ∧
    Claims.noneToLaunch s ∧
    x.phase = .up ∧
    x.nxt ≠ none ∧
    x.open_ = 0 ∧
    x.lswt.toNat ≤ s.tbase d ∧
    x.sendq = [] :=
  ⟨(withPort rich 0 0 { upPort with sendq := [], nxt := some 6, lswt := 1 }), 0, 0,
   by decide +kernel⟩

theorem test_witness_evFlitSend_1 : ∃ (s : State) (d p : Nat) (f : _),
    let x := s.port d p
    ((x.sendq.find? fun f => f.kind == 8) = some f ∨ (x.sendq.head? = some f ∧ ∀ g ∈ x.sendq, g.kind ≠ 8)) ∧
    d < 8 ∧
    Claims.noneToLaunch s ∧
    x.phase = .up ∧
    (x.open_ = 0 → x.nxt = none ∨ s.tbase d < x.lswt.toNat) ∧
    x.count.toNat < 2 ^ 48 - 3 ∧
    x.open_ ≤ 16 ∧
    x.open_ < 16 :=
  ⟨(withPort rich 0 0 { upPort with open_ := 15 }), 0, 0, ask,
   Or.inr (by decide +kernel), by decide +kernel⟩

theorem test_witness_evFlitSend_2 : ∃ (s : State) (d p : Nat),
    let x := s.port d p
    d < 8 ∧
    Claims.noneToLaunch s ∧
    x.phase = .up ∧
    (x.open_ = 0 → x.nxt = none ∨ s.tbase d < x.lswt.toNat) ∧
    x.count.toNat < 2 ^ 48 - 3 ∧
    x.open_ ≤ 16 ∧
    (x.open_ = 16 ∨ (0 < x.open_ ∧ x.sendq = [])) :=
  ⟨(withPort rich 0 0 { upPort with open_ := 16 }), 0, 0,
   by decide +kernel⟩

theorem test_witness_evFlitSend_3 : ∃ (s : State) (d p : Nat),
    let x := s.port d p
    d < 8 ∧
    Claims.noneToLaunch s ∧
    x.phase = .up ∧
    (x.open_ = 0 → x.nxt = none ∨ s.tbase d < x.lswt.toNat) ∧
    x.count.toNat < 2 ^ 48 - 3 ∧
    x.open_ ≤ 16 ∧
    x.open_ = 0 ∧
    x.sendq = [] :=
  ⟨(withPort rich 0 0 { upPort with sendq := [] }), 0, 0,
   by decide +kernel⟩

theorem test_witness_evHeld : ∃ (s : State) (d p : Nat),
    let x := s.port d p
    Claims.noneToLaunch s ∧
    x.phase = .up ∧
    x.count.toNat = 2 ^ 48 - 2 ∧
    x.open_ = 0 ∧
    x.sendq ≠ [] ∧
    x.nxt = none ∧
    2 ≤ p :=
  ⟨(withPort rich 0 2 { upPort with count := 0xFFFFFFFFFFFE }), 0, 2,
   by decide +kernel⟩

theorem test_witness_evFlitReceive_0 : ∃ (s : State) (d p e r : Nat) (f : Flit) (rest : List Flit),
    let x := s.port d p
    d < 8 ∧
    s.errors = [] ∧
    Claims.farEnd d p = some (e, r) ∧
    (x.phase = .up ∨ x.phase = .held) ∧
    x.wire = f :: rest ∧
    f.kind.toNat < 7 :=
  ⟨onWire ask, 0, 0, 1, 1, ask, [ask],
   by decide +kernel⟩

theorem test_witness_evFlitReceive_1 : ∃ (s : State) (d p e r : Nat) (f : Flit) (rest : List Flit),
    let x := s.port d p
    d < 8 ∧
    s.errors = [] ∧
    Claims.farEnd d p = some (e, r) ∧
    (x.phase = .up ∨ x.phase = .held) ∧
    x.wire = f :: rest ∧
    (f.kind ≠ 0 ∨ s.route d f ≠ .here ∨ s.meetsPend (locDram d (f.addr.toNat / 64 * 64)) 64 = true) :=
  ⟨onWire ask, 0, 0, 1, 1, ask, [ask],
   by decide +kernel⟩

theorem test_witness_evFlitReceive_2 : ∃ (s : State) (d p e r : Nat) (f : Flit) (rest : List Flit) (a : _),
    let x := s.port d p
    let u := locDram d (f.addr.toNat / 64 * 64)
    s.admitted d f true = .ok a ∧
    d < 8 ∧
    s.errors = [] ∧
    Claims.farEnd d p = some (e, r) ∧
    (x.phase = .up ∨ x.phase = .held) ∧
    x.wire = f :: rest ∧
    f.kind = 0 ∧
    s.route d f = .here ∧
    s.meetsPend u 64 = false ∧
    (s.unit u).poison = false ∧
    f.mask ≠ 0 :=
  ⟨onWire write, 0, 0, 1, 1, write, [ask], grant,
   okOf (by decide +kernel), by decide +kernel⟩

theorem test_witness_evOwnQueue_0 : ∃ (s : State) (d : Nat) (f : Flit) (rest : List Flit),
    (s.port d 6).recv = f :: rest ∧
    s.route d f = .here ∧
    s.errors = [] ∧
    f.kind = 8 ∧
    f.note.told = false :=
  ⟨(ownQueue { write with kind := 8 }), 0, { write with kind := 8 }, [ask],
   by decide +kernel⟩

theorem test_witness_evOwnQueue_1 : ∃ (s : State) (d : Nat) (f : Flit) (rest : List Flit) (a : _),
    let u := locDram d (f.addr.toNat / 64 * 64)
    s.admitted d f false = .ok a ∧
    (s.port d 6).recv = f :: rest ∧
    s.route d f = .here ∧
    s.errors = [] ∧
    f.kind = 1 ∧
    f.src = s.selfFab d ∧
    f.src.toNat % 8 = d ∧
    s.meetsPend u 64 = false :=
  ⟨ownQueue ask, 0, ask, [ask], grant,
   okOf (by decide +kernel), by decide +kernel⟩

theorem test_witness_evTagVerify_0 : ∃ (s : State) (d p : Nat) (f tag : Flit) (rest : List Flit),
    let x := s.port d p
    let good (g : Flit) : Prop := g.kind.toNat ≤ 10 ∧ g.rsv = 0
    (∀ r, ∀ g ∈ (if r = p then rest else (s.port d r).recv), g.note.landed = false) ∧
    d < 8 ∧
    p < 6 ∧
    x.recv = f :: tag :: rest ∧
    f.kind ≠ 10 ∧
    tag.kind = 10 ∧
    x.phase = .up ∧
    x.cur ≠ none ∧
    good f ∧
    good tag ∧
    tag.epoch = BitVec.ofNat 1 x.epoch.toNat ∧
    s.route d f = .here ∧
    f.kind = 0 ∧
    f.note.landed = true :=
  ⟨group landed [], 0, 0, landed, tagFlit, [ask],
   getAll (P := fun r x => ∀ g ∈ (if r = 0 then [ask] else x.recv), g.note.landed = false) (d := Port.reset) (m := ((group landed []).die 0).ports) (fun _ => ofIf (by decide +kernel) (by decide +kernel)) (by decide +kernel), by decide +kernel⟩

theorem test_witness_evTagVerify_1 : ∃ (s : State) (d p : Nat) (f tag : Flit) (rest : List Flit) (n g b : _),
    let x := s.port d p
    let good (g : Flit) : Prop := g.kind.toNat ≤ 10 ∧ g.rsv = 0
    d < 8 ∧
    p < 6 ∧
    x.recv = f :: tag :: rest ∧
    f.kind ≠ 10 ∧
    tag.kind = 10 ∧
    x.phase = .up ∧
    x.cur ≠ none ∧
    good f ∧
    good tag ∧
    tag.epoch = BitVec.ofNat 1 x.epoch.toNat ∧
    s.route d f = .here ∧
    f.kind = 2 ∧
    f.note.fid = some n ∧
    f.note.poison = false ∧
    s.flight? n = some g ∧
    g.pieces = [b] ∧
    b.done = false ∧
    isFabric b.loc = true ∧
    (b.loc - locFabric 0) % 2 ^ 46 / 64 = f.addr.toNat / 64 ∧
    g.op = .load .vector false ∧
    g.data.length = b.len ∧
    b.off = 0 ∧
    b.loc % 64 + b.len ≤ 64 :=
  ⟨group answer [farLoad], 0, 0, answer, tagFlit, [ask], 9, farLoad, { loc := locFabric 0x12345650, off := 0, len := 32, tagged := true, done := false },
   by decide +kernel⟩

theorem test_witness_evTagVerify_2 : ∃ (s : State) (d p : Nat) (f tag : Flit) (rest : List Flit),
    let x := s.port d p
    d < 8 ∧
    p < 6 ∧
    x.recv = f :: tag :: rest ∧
    f.kind ≠ 10 ∧
    tag.kind = 10 ∧
    x.phase = .up ∧
    x.cur ≠ none ∧
    f.kind = 0 ∧
    f.note.landed = true ∧
    (s.port d p).ifail < 0xFFFF :=
  ⟨group landed [], 0, 0, landed, tagFlit, [ask],
   by decide +kernel⟩

theorem test_witness_evRefusalReceive : ∃ (s : State) (d reason n w q : Nat) (f : Flit) (rest : List (Flit × Nat)) (g : Flight) (c : Ctx),
    (∀ a b, g.op ≠ .send a b) ∧
    (s.die d).refused = (f, reason) :: rest ∧
    f.note.lost = false ∧
    f.kind ≠ 6 ∧
    f.kind ≠ 8 ∧
    f.note.fid = some n ∧
    s.flight? n = some g ∧
    g.window = some w ∧
    s.ctx? g.ctx = some c ∧
    s.seqOfCore g.core = some q ∧
    (s.seq q).ctx = some g.ctx ∧
    (s.seq q).phase = .run ∧
    reason < 16 :=
  ⟨refusing farLoad, 0, 5, 9, 3, 0, answer, [(ask, 1)], farLoad, programCtx,
   (fun _ _ h => nomatch h), by decide +kernel⟩

theorem test_witness_evTimeFlit : ∃ (s : State) (d p : Nat),
    let x := s.port d p
    x.phase = .up :=
  ⟨withPort rich 0 5 upPort, 0, 5,
   by decide +kernel⟩

end Tests.Witness6

/-! ### Witnesses: claims -/

namespace Tests.Witness7

def self : BitVec 18 := rich.selfFab 0
def word0 (scope part gid : Nat) : Word := BitVec.ofNat 64 (2 ^ 63 + scope * 2 ^ 44 + part * 2 ^ 48 + gid)
/-- An installed group of this die and dies 1 and 2, and the words of one that is not. -/
def group : ClaimGroup := { w0 := word0 4 2 77, w1 := 0x7003, w2 := 0x000A0004, members := [self, 1, 2] }
def words : ClaimGroup := { w0 := 0, w1 := 0x7003, w2 := 0x000A0004, members := [] }
def claim : Claim := { key := 55, value := 7, tp := 1000, teff := 6000000, pfab := 2, pslot := 9, prio := 4, cls := 2, grp := 77 }
def slot (c : Claim) (p : ClaimPhase) : ClaimSlot := { phase := p, claim := c, cut := 5998000, part := 2 }
/-- Die 0 with groups, claims, cells, a share of slots 5 to 7 for partition 2, and a member list in DRAM. -/
def withGroups (l : SMap ClaimGroup) (cs : List (Nat × ClaimSlot)) : State :=
  ((rich.modDie 0 fun y => { y with clgrp := l, claims := cs.map fun e => (e.1, some e.2), cells := [(10, some (55, 3)), (12, some (99, 4))] }).setDctl 0
    0x40A8 0x0000000300000005).putRaw (locDram 0 0x7000) [0, 0, 0, 0, 1, 0, 0, 0, 2, 0, 0, 0]
/-- A claim message (R429). -/
def message (pfab ty stamp : Nat) : Line :=
  BitVec.ofNat 512 (55 + 2 ^ 64 * 7 + 2 ^ 128 * 1000 + 2 ^ 192 * 6000000 + 2 ^ 256 * (pfab * 2 ^ 46 + 9 * 2 ^ 34 + 4 * 2 ^ 26 + 2 * 2 ^ 22 + ty * 2 ^ 19 + 77) +
    2 ^ 320 * stamp)
def claiming : State := withGroups [(1, { words with w0 := word0 4 3 78 }), (3, group)] [(5, slot claim .beaten), (6, slot { claim with tp := 5998000, prio := 5 } .pending)]
/-- A Pending claim whose time has come, beside one whose time has not. -/
def effective : State := { withGroups [(3, group)] [(5, slot claim .pending), (6, slot { claim with teff := 0xFFFFFFFFFFFF } .pending)] with time := 17 * 10000000000 }
def coming (s : State) (src : BitVec 18) (m : Line) : State :=
  s.modDie 0 fun y => { y with claimIn := [{ src := src, payload := m }] }

theorem test_witness_evClgrp_0 : ∃ (s : State) (d i : Nat) (v : Word),
    let g := s.clgrp d i
    let base := g.w1.toNat / 4096 * 4096
    let l := (List.range (fieldOf g.w1 0 11)).map fun k => BitVec.ofNat 18 (wordOfBytes (s.raw (locDram d (base + 4 * k)) 4))
    let self := s.selfFab d
    let scope := fieldOf v 44 4
    let bad : Prop := (g.valid = true ∧ s.claimsOf d g.part g.gid = true) ∨ s.claimsOf d (fieldOf v 48 6) (BitVec.ofNat 16 v.toNat) = true ∨
        self ∉ l ∨ (∃ f ∈ l, withinScope scope self f = false) ∨ scope < 3 ∨ 6 < scope ∨ fieldOf v 54 7 ≠ 0 ∨ fieldOf v 16 28 ≠ 0 ∨
        16384 < g.vbase + g.vcnt ∨
        ∃ j < 128, j ≠ i ∧ (s.clgrp d j).valid = true ∧ 0 < (s.clgrp d j).vcnt ∧ 0 < g.vcnt ∧
          (s.clgrp d j).vbase < g.vbase + g.vcnt ∧ g.vbase < (s.clgrp d j).vbase + (s.clgrp d j).vcnt
    bad ∧
    v.getLsbD 63 = true :=
  ⟨withGroups [(3, words)] [], 0, 3, word0 2 2 77,
   (Or.inr (Or.inr (Or.inr (Or.inr (Or.inl (by decide +kernel)))))), by decide +kernel⟩

theorem test_witness_evClgrp_1 : ∃ (s : State) (d i : Nat) (v : Word),
    let g := s.clgrp d i
    let base := g.w1.toNat / 4096 * 4096
    let l := (List.range (fieldOf g.w1 0 11)).map fun k => BitVec.ofNat 18 (wordOfBytes (s.raw (locDram d (base + 4 * k)) 4))
    let self := s.selfFab d
    let scope := fieldOf v 44 4
    let bad : Prop := (g.valid = true ∧ s.claimsOf d g.part g.gid = true) ∨ s.claimsOf d (fieldOf v 48 6) (BitVec.ofNat 16 v.toNat) = true ∨
        self ∉ l ∨ (∃ f ∈ l, withinScope scope self f = false) ∨ scope < 3 ∨ 6 < scope ∨ fieldOf v 54 7 ≠ 0 ∨ fieldOf v 16 28 ≠ 0 ∨
        16384 < g.vbase + g.vcnt ∨
        ∃ j < 128, j ≠ i ∧ (s.clgrp d j).valid = true ∧ 0 < (s.clgrp d j).vcnt ∧ 0 < g.vcnt ∧
          (s.clgrp d j).vbase < g.vbase + g.vcnt ∧ g.vbase < (s.clgrp d j).vbase + (s.clgrp d j).vcnt
    ¬ bad ∧
    v.getLsbD 63 = true :=
  ⟨withGroups [(3, words)] [], 0, 3, word0 4 2 77,
   not_or.mpr ⟨(by decide +kernel), not_or.mpr ⟨(by decide +kernel), not_or.mpr ⟨(by decide +kernel), not_or.mpr ⟨noneOf (l := [self, 1, 2]) (by decide +kernel) (by decide +kernel), (by decide +kernel)⟩⟩⟩⟩, by decide +kernel⟩

theorem test_witness_evClgrp_2 : ∃ (s : State) (d i : Nat) (v : Word),
    let g := s.clgrp d i
    v.getLsbD 63 = false ∧
    g.valid = true ∧
    s.claimsOf d g.part g.gid = true :=
  ⟨withGroups [(3, group)] [(5, slot claim .pending)], 0, 3, 0,
   by decide +kernel⟩

theorem test_witness_evClgrp_3 : ∃ (s : State) (d i : Nat) (v : Word),
    let g := s.clgrp d i
    v.getLsbD 63 = false ∧
    (g.valid = false ∨ s.claimsOf d g.part g.gid = false) :=
  ⟨withGroups [(3, group)] [], 0, 3, 0,
   by decide +kernel⟩

theorem test_witness_evProposal_0 : ∃ (s : State) (d gi : Nat) (src : BitVec 18) (m : Line),
    let c := claimOf m
    let g := s.clgrp d gi
    Claims.onWay s d src m 1 ∧
    Claims.nonePast s d ∧
    Claims.groupFor s d gi c.grp ∧
    (src ∉ g.members ∨ s.freeSlot d g.part = none) :=
  ⟨coming (claiming) 12 (message 2 1 0), 0, 3, 12, message 2 1 0,
   by decide +kernel⟩

theorem test_witness_evProposal_1 : ∃ (s : State) (d gi : Nat) (src : BitVec 18) (m : Line) (n : _),
    let c := claimOf m
    let g := s.clgrp d gi
    Claims.onWay s d src m 1 ∧
    Claims.nonePast s d ∧
    Claims.groupFor s d gi c.grp ∧
    src ∈ g.members ∧
    s.freeSlot d g.part = some n ∧
    SMap.wf none (s.die d).claims = true :=
  ⟨coming (claiming) 2 (message 2 1 0), 0, 3, 2, message 2 1 0, 7,
   by decide +kernel⟩

theorem test_witness_evObjection_0 : ∃ (s : State) (d gi : Nat) (src : BitVec 18) (m : Line),
    let c := claimOf m
    let g := s.clgrp d gi
    Claims.onWay s d src m 2 ∧
    Claims.nonePast s d ∧
    Claims.groupFor s d gi c.grp ∧
    src ∉ g.members :=
  ⟨coming (claiming) 3 (message 2 2 0), 0, 3, 3, message 2 2 0,
   by decide +kernel⟩

theorem test_witness_evObjection_1 : ∃ (s : State) (d gi : Nat) (src : BitVec 18) (m : Line) (n h : _),
    let c := claimOf m
    let g := s.clgrp d gi
    let stamp := m.extractLsb' 320 64
    let cut := (Claims.cutOf c g.scope).toNat
    (∀ k o, s.claim? d k = some o → o.claim = c → k = n) ∧
    Claims.onWay s d src m 2 ∧
    Claims.nonePast s d ∧
    Claims.groupFor s d gi c.grp ∧
    src ∈ g.members ∧
    stamp.toNat < cut ∧
    s.claim? d n = some h ∧
    h.claim = c ∧
    h.part = g.part ∧
    SMap.wf none (s.die d).claims = true :=
  ⟨coming (claiming) 2 (message 2 2 5997999), 0, 3, 2, message 2 2 5997999, 5, slot claim .beaten,
   (fun k o h => someAll (P := fun k o => o.claim = claim → k = 5) (m := ((coming (claiming) 2 (message 2 2 5997999)).die 0).claims) (by decide +kernel) k o h), by decide +kernel⟩

theorem test_witness_evObjection_2 : ∃ (s : State) (d gi : Nat) (src : BitVec 18) (m : Line),
    let c := claimOf m
    let g := s.clgrp d gi
    let stamp := m.extractLsb' 320 64
    let cut := (Claims.cutOf c g.scope).toNat
    Claims.onWay s d src m 2 ∧
    Claims.nonePast s d ∧
    Claims.groupFor s d gi c.grp ∧
    src ∈ g.members ∧
    cut ≤ stamp.toNat ∧
    c.pfab ≠ s.selfFab d :=
  ⟨coming (claiming) 2 (message 2 2 5998000), 0, 3, 2, message 2 2 5998000,
   by decide +kernel⟩

theorem test_witness_evObjection_3 : ∃ (s : State) (d gi : Nat) (src : BitVec 18) (m : Line),
    let c := claimOf m
    let g := s.clgrp d gi
    let stamp := m.extractLsb' 320 64
    let cut := (Claims.cutOf c g.scope).toNat
    Claims.onWay s d src m 2 ∧
    Claims.nonePast s d ∧
    Claims.groupFor s d gi c.grp ∧
    src ∈ g.members ∧
    cut ≤ stamp.toNat ∧
    c.pfab = s.selfFab d :=
  ⟨coming (claiming) 2 (message self.toNat 2 5998000), 0, 3, 2, message self.toNat 2 5998000,
   by decide +kernel⟩

theorem test_witness_evClaimEffect : ∃ (s : State) (d n gi : Nat) (h : ClaimSlot),
    Claims.noneDue s d ∧
    (∀ k o, k ≠ n → s.claim? d k = some o → s.tbase d < o.claim.teff.toNat) ∧
    s.claim? d n = some h ∧
    SMap.wf none (s.die d).claims = true ∧
    h.claim.teff.toNat ≤ s.tbase d ∧
    deviceKey h.claim.key = false ∧
    s.groupOf d h.part h.claim.grp = some gi :=
  ⟨effective, 0, 5, 3, slot claim .pending,
   noneDueOf (by decide +kernel) (by decide +kernel), (fun k o h e => someAll (P := fun k o => k ≠ 5 → effective.tbase 0 < o.claim.teff.toNat) (m := (effective.die 0).claims) (by decide +kernel) k o e h), by decide +kernel⟩

theorem test_witness_evLateNotice_0 : ∃ (s : State) (d : Nat) (src : BitVec 18) (m : Line),
    let stamp := m.extractLsb' 320 64
    let oseq := (m.extractLsb' (384 + 18) 6).toNat
    let x := (m.extractLsb' 448 16).toNat
    let mark := (stamp, x * 64 + oseq)
    Claims.onWay s d src m 3 ∧
    Claims.nonePast s d ∧
    s.strange d { src := src, payload := m } = none ∧
    mark ∈ (s.die d).lateSeen :=
  ⟨(coming (rich.modDie 0 fun y => { y with lateSeen := [(777, 0)] }) 2 (message 2 3 777)), 0, 2, message 2 3 777,
   by decide +kernel⟩

theorem test_witness_evLateNotice_1 : ∃ (s : State) (d : Nat) (src : BitVec 18) (m : Line) (c : Ctx),
    let stamp := m.extractLsb' 320 64
    let oseq := (m.extractLsb' (384 + 18) 6).toNat
    let x := (m.extractLsb' 448 16).toNat
    let q := d * 40 + oseq
    let mark := (stamp, x * 64 + oseq)
    Claims.onWay s d src m 3 ∧
    Claims.nonePast s d ∧
    s.strange d { src := src, payload := m } = none ∧
    mark ∉ (s.die d).lateSeen ∧
    s.ctx? x = some c ∧
    (s.seq q).ctx = some x ∧
    (s.seq q).phase ≠ .retired :=
  ⟨coming (rich) 2 (message 2 3 777), 0, 2, message 2 3 777, programCtx,
   by decide +kernel⟩

theorem test_witness_evLateNotice_2 : ∃ (s : State) (d : Nat) (src : BitVec 18) (m : Line) (c : Ctx) (i : _),
    let stamp := m.extractLsb' 320 64
    let oseq := (m.extractLsb' (384 + 18) 6).toNat
    let x := (m.extractLsb' 448 16).toNat
    let q := d * 40 + oseq
    let mark := (stamp, x * 64 + oseq)
    Claims.onWay s d src m 3 ∧
    Claims.nonePast s d ∧
    s.strange d { src := src, payload := m } = none ∧
    mark ∉ (s.die d).lateSeen ∧
    s.ctx? x = some c ∧
    (s.seq q).ctx ≠ some x ∧
    c.gangs.findIdx? (fun g => g.seq == q) = some i ∧
    i ∉ c.retired :=
  ⟨(coming (rich.modSeq 0 fun x => { x with ctx := none }) 2 (message 2 3 777)), 0, 2, message 2 3 777, programCtx, 0,
   by decide +kernel⟩

theorem test_witness_evBreakNotice : ∃ (s : State) (d gi : Nat) (src : BitVec 18) (m : Line),
    Claims.onWay s d src m 4 ∧
    Claims.nonePast s d ∧
    Claims.groupFor s d gi (claimOf m).grp :=
  ⟨coming (claiming) 2 (message 2 4 0), 0, 3, 2, message 2 4 0,
   by decide +kernel⟩

end Tests.Witness7

/-! ### Witnesses: guests -/

namespace Tests.Witness8

def packet : Packet := { ctx := 0, gen := 1, asid := 1, gq := 3, tl := 7, num := 4, pseq := 44, body := (List.range 64).map (BitVec.ofNat 8), from_ := none, wait := 0 }
/-- A guest link with two packets delivered and three queued. -/
def socket : Socket :=
  { Socket.reset with phase := .up, pseq := 60, slots := [(0, { phase := .delivered, pkt := some { packet with pseq := 45, ctx := 1025 } }), (2, { phase := .delivered, pkt := some packet })],
                      pq := [(3, [{ packet with pseq := 0 }]), (9, [packet, packet])], last := 5 }
def withSocket (k : Socket) : State :=
  { (rich.putRaw (locDram 0 0x13008) (bytesOf 0x40033)).modDie 0 fun y => { y with sock := k, tls := [(7, { Timeline.reset with next := 6, done := 3 })] } with time := 17 * 3000000 }
def written : GuestWrite := { id := 8, slot := 2, gen := 1, tagged := true, loc := locDram 0 0x40040, bytes := List.replicate 64 5, asid := 1, page := 0x10001 }
def duty : InvDuty := { id := 6, asid := 1, lo := 0x100010000, bytes := 0x10000, since := 2998000 }
def preDuty : PreDuty := { id := 5, ctx := 0, abandon := false, asked := true, slots := [2], since := 2900000 }
def checkpointing : Socket := { socket with pres := [preDuty], slots := [(2, { phase := .checkpointing, pkt := some packet })] }

theorem test_witness_evGuestTrained_0 : ∃ (s : State) (d : Nat),
    let k := (s.die d).sock
    k.phase = .training ∧
    s.ticks - k.since ≤ 1000000 :=
  ⟨(withSocket { socket with phase := .training, since := 2000000 }), 0,
   by decide +kernel⟩

theorem test_witness_evGuestTrained_1 : ∃ (s : State) (d : Nat),
    let k := (s.die d).sock
    k.phase = .training :=
  ⟨(withSocket { socket with phase := .training }), 0,
   by decide +kernel⟩

theorem test_witness_evPkt_0 : ∃ (s : State) (d n : Nat) (p : Packet) (rest : List Packet),
    let k := (s.die d).sock
    k.phase = .up ∧
    Claims.onTime s d ∧
    n < 15 ∧
    (k.slot n).phase = .free ∧
    (∀ j < n, (k.slot j).phase ≠ .free) ∧
    k.resume = p :: rest :=
  ⟨(withSocket { socket with resume := [packet, packet] }), 0, 1, packet, [packet],
   by decide +kernel⟩

theorem test_witness_evPkt_1 : ∃ (s : State) (d n : Nat) (p : Packet) (rest : List Packet) (q body : _),
    let k := (s.die d).sock
    k.phase = .up ∧
    Claims.onTime s d ∧
    n < 15 ∧
    (k.slot n).phase = .free ∧
    (∀ j < n, (k.slot j).phase ≠ .free) ∧
    k.resume = [] ∧
    q < 16 ∧
    k.queue q = p :: rest ∧
    (∀ j < 16, k.queue j ≠ [] → (q + 16 - (k.last + 1) % 16) % 16 ≤ (j + 16 - (k.last + 1) % 16) % 16) ∧
    p.from_ = none ∧
    p.body = body ∧
    body.length = 64 :=
  ⟨withSocket socket, 0, 1, packet, [packet], 9, packet.body,
   by decide +kernel⟩

theorem test_witness_evGuestRequest_0 : ∃ (s : State) (d slot code va : Nat),
    let k := (s.die d).sock
    slot < 15 ∧
    va < 2 ^ 48 ∧
    k.phase = .up ∧
    Claims.onTime s d ∧
    s.errors = [] ∧
    code < 7 ∧
    (k.slot slot).phase ≠ .delivered :=
  ⟨withSocket socket, 0, 14, 6, 0xFFFFFFFFFFFF,
   by decide +kernel⟩

theorem test_witness_evGuestRequest_1 : ∃ (s : State) (d slot code va : Nat) (p loc tagged : _),
    let k := (s.die d).sock
    let line := va / 64 * 64
    code < 3 ∧
    slot < 15 ∧
    va < 2 ^ 48 ∧
    k.phase = .up ∧
    Claims.onTime s d ∧
    s.errors = [] ∧
    Claims.inSlot k slot p ∧
    s.guestPlace d p line .read = .ok (.mem loc tagged) ∧
    s.meetsPend loc 64 = false ∧
    (s.readsPoison { gen := p.gen, tagged := tagged, part := none } loc 64) = false :=
  ⟨withSocket socket, 0, 2, 2, 0x100010047, packet, locDram 0 0x40040, true,
   (by decide +kernel), by decide +kernel⟩

theorem test_witness_evGuestRequest_2 : ∃ (s : State) (d slot code va : Nat) (p loc tagged : _),
    let k := (s.die d).sock
    let line := va / 64 * 64
    code < 6 ∧
    slot < 15 ∧
    va < 2 ^ 48 ∧
    k.phase = .up ∧
    Claims.onTime s d ∧
    s.errors = [] ∧
    Claims.inSlot k slot p ∧
    3 ≤ code ∧
    s.guestPlace d p line .write = .ok (.mem loc tagged) :=
  ⟨withSocket socket, 0, 2, 5, 0x100010047, packet, locDram 0 0x40040, true,
   (by decide +kernel), by decide +kernel⟩

theorem test_witness_evGuestRequest_3 : ∃ (s : State) (d slot code va : Nat) (p cause : _),
    let k := (s.die d).sock
    let line := va / 64 * 64
    code < 6 ∧
    slot < 15 ∧
    va < 2 ^ 48 ∧
    k.phase = .up ∧
    Claims.onTime s d ∧
    s.errors = [] ∧
    Claims.inSlot k slot p ∧
    s.guestPlace d p line (if code < 3 then .read else .write) = .fault cause :=
  ⟨withSocket socket, 0, 2, 5, 0x100020047, packet, 4,
   (by decide +kernel), by decide +kernel⟩

theorem test_witness_evGuestWrite : ∃ (s : State) (d n : Nat) (w : GuestWrite),
    let k := (s.die d).sock
    Claims.onTime s d ∧
    k.writes = [w] ∧
    w.id = n ∧
    k.closing = [] ∧
    s.meetsPend w.loc 64 = false ∧
    w.bytes.length = 64 ∧
    w.loc % 64 = 0 ∧
    w.loc < 2 ^ 52 ∧
    (s.unit w.loc).poison = false ∧
    s.errors = [] :=
  ⟨(withSocket { socket with writes := [written] }), 0, 8, written,
   by decide +kernel⟩

theorem test_witness_evCpl_0 : ∃ (s : State) (d n : Nat) (p : Packet),
    let k := (s.die d).sock
    Claims.named k n p ∧
    k.phase = .up ∧
    Claims.onTime s d ∧
    p.pseq < 2 ^ 64 :=
  ⟨withSocket socket, 0, 2, packet,
   ⟨(by decide +kernel), (by decide +kernel), fun j hj o hn h => slots (Q := fun j o => j ≠ 2 → o.pseq ≠ packet.pseq) (by decide +kernel) j hj o h hn⟩, by decide +kernel⟩

theorem test_witness_evCpl_1 : ∃ (s : State) (d : Nat) (p : Packet),
    let k := (s.die d).sock
    (∀ j < 15, ∀ o, Claims.inSlot k j o → o.pseq ≠ p.pseq) ∧
    k.phase = .up ∧
    Claims.onTime s d ∧
    p.pseq < 2 ^ 64 :=
  ⟨withSocket socket, 0, { packet with pseq := 46 },
   slots (Q := fun _ o => o.pseq ≠ 46) (by decide +kernel), by decide +kernel⟩

theorem test_witness_evFlt : ∃ (s : State) (d n code va : Nat) (p : Packet),
    let k := (s.die d).sock
    Claims.named k n p ∧
    k.phase = .up ∧
    Claims.onTime s d ∧
    p.pseq < 2 ^ 64 ∧
    va < 2 ^ 64 ∧
    1 ≤ code ∧
    code ≤ 4 :=
  ⟨withSocket socket, 0, 2, 4, 0xFFFFFFFFFFFFFFFF, packet,
   ⟨(by decide +kernel), (by decide +kernel), fun j hj o hn h => slots (Q := fun j o => j ≠ 2 → o.pseq ≠ packet.pseq) (by decide +kernel) j hj o h hn⟩, by decide +kernel⟩

theorem test_witness_evInvack_0 : ∃ (s : State) (d id : Nat) (v : _),
    let k := (s.die d).sock
    k.phase = .up ∧
    Claims.onTime s d ∧
    id < 2 ^ 64 ∧
    k.invs = [v] ∧
    v.id = id :=
  ⟨(withSocket { socket with invs := [duty] }), 0, 6, duty,
   by decide +kernel⟩

theorem test_witness_evInvack_1 : ∃ (s : State) (d id : Nat),
    let k := (s.die d).sock
    k.phase = .up ∧
    Claims.onTime s d ∧
    id < 2 ^ 64 ∧
    (∀ v ∈ k.invs, v.id ≠ id) :=
  ⟨(withSocket { socket with invs := [duty] }), 0, 7,
   by decide +kernel⟩

theorem test_witness_evCkpt_0 : ∃ (s : State) (d n id : Nat) (v : PreDuty) (p : Packet),
    let k := (s.die d).sock
    k.phase = .up ∧
    Claims.onTime s d ∧
    id < 2 ^ 64 ∧
    k.pres = [v] ∧
    v.id = id ∧
    v.slots = [n] ∧
    n < 15 ∧
    (k.slot n).pkt = some p :=
  ⟨withSocket checkpointing, 0, 2, 5, preDuty, packet,
   by decide +kernel⟩

theorem test_witness_evCkpt_1 : ∃ (s : State) (d n id : Nat) (v : PreDuty) (p : Packet) (m : _),
    let k := (s.die d).sock
    k.phase = .up ∧
    Claims.onTime s d ∧
    id < 2 ^ 64 ∧
    k.pres = [v] ∧
    v.id = id ∧
    v.slots = [n] ∧
    n < 15 ∧
    (k.slot n).pkt = some p ∧
    m < 16 ∧
    m ≠ n :=
  ⟨withSocket checkpointing, 0, 2, 5, preDuty, packet, 15,
   by decide +kernel⟩

theorem test_witness_evGuestPreempt_0 : ∃ (s : State) (d x : Nat) (c : Ctx),
    let k := (s.die d).sock
    x < 2 ^ 16 ∧
    s.ctx? x = some c ∧
    k.phase = .up :=
  ⟨withSocket socket, 0, 0, programCtx,
   by decide +kernel⟩

theorem test_witness_evGuestPreempt_1 : ∃ (s : State) (x : Nat) (c : Ctx),
    x < 2 ^ 16 ∧
    s.ctx? x = some c :=
  ⟨withSocket socket, 0, programCtx,
   by decide +kernel⟩

theorem test_witness_evGuestBreach_0 : ∃ (s : State) (d : Nat),
    let k := (s.die d).sock
    k.phase = .up ∧
    (∃ v ∈ k.invs, v.since + 2000 < s.ticks) :=
  ⟨(withSocket { socket with invs := [{ duty with since := 2997999 }] }), 0,
   by decide +kernel⟩

theorem test_witness_evGuestBreach_1 : ∃ (s : State) (d : Nat),
    let k := (s.die d).sock
    k.phase = .up ∧
    (∃ v ∈ k.invs, v.since + 2000 < s.ticks) :=
  ⟨(withSocket { socket with invs := [{ duty with since := 2997999 }] }), 0,
   by decide +kernel⟩

theorem test_witness_evGuestBreach_2 : ∃ (s : State) (d : Nat),
    let k := (s.die d).sock
    k.phase = .up ∧
    (∀ v ∈ k.invs, s.ticks ≤ v.since + 2000) ∧
    (∃ v ∈ k.pres, v.since + 100000 < s.ticks) :=
  ⟨(withSocket { socket with invs := [{ duty with since := 2998000 }], pres := [{ preDuty with since := 2899999 }] }), 0,
   by decide +kernel⟩

theorem test_witness_evGuestBreach_3 : ∃ (s : State) (d : Nat),
    let k := (s.die d).sock
    k.phase = .up :=
  ⟨withSocket socket, 0,
   by decide +kernel⟩

end Tests.Witness8

/-! ### Witnesses: resets and fences -/

namespace Tests.Witness9

def booting (p : DiePhase) : State := rich.modDie 0 fun y => { y with phase := p }
def fencedSeq (n : Word) : State := (rich.modSeq 0 fun y => { y with fenced := true, ctx := none, gang := [], phase := .idle }).setDctl 0 0x5080 n
def parityCtx : Ctx := { programCtx with gangs := [{ seq := 0, mask := 3, drank := 0, grank := 0 }] }
def parity : State := (bindCore (bindCore rich 0 0x80) 1 0x80).setCtx 0 (some parityCtx)

theorem test_witness_evDieReset : ∃ (s : State) (d : Nat),
    d < 8 ∧
    SMap.wf Core.reset s.cores = true ∧
    s.maints = [] :=
  ⟨rich, 7,
   by decide +kernel⟩

theorem test_witness_evDieBoot : ∃ (s : State) (d : Nat),
    d < 8 ∧
    (s.die d).phase = .boot :=
  ⟨booting .boot, 0,
   by decide +kernel⟩

theorem test_witness_evRecoveryPiece : ∃ (s : State) (d : Nat) (v : Word),
    let i := fieldOf v 0 16
    d < 8 ∧
    (s.die d).phase = .recovery ∧
    v.getLsbD 63 = false ∧
    i < 16384 :=
  ⟨booting .recovery, 0, 16383,
   by decide +kernel⟩

theorem test_witness_evRecoveryEnd_0 : ∃ (s : State) (d : Nat) (v : Word),
    (s.die d).phase = .recovery ∧
    v.getLsbD 63 = true :=
  ⟨booting .recovery, 0, 0x8000000000000000,
   by decide +kernel⟩

theorem test_witness_evRecoveryEnd_1 : ∃ (s : State) (d : Nat),
    (s.die d).phase ≠ .recovery :=
  ⟨rich, 0,
   by decide +kernel⟩

theorem test_witness_evLifeCycle : ∃ (s : State) (cmd : Nat),
    1 ≤ cmd ∧
    cmd ≤ 3 ∧
    s.lcNum 0 2 = cmd :=
  ⟨State.reset.putRaw (locLcblk 0) [3], 3,
   by decide +kernel⟩

theorem test_witness_evCoreParity : ∃ (s : State) (q x k : Nat) (c : Ctx),
    q < 320 ∧
    (s.seq q).ctx = some x ∧
    k ∈ s.allCores q ∧
    (∀ r < q, ¬ ((s.seq r).ctx ≠ none ∧ k ∈ s.allCores r)) ∧
    (s.seq q).parent = none ∧
    s.ctx? x = some c ∧
    c.group = .running ∧
    (∀ r < 320, (s.seq r).parent = none) ∧
    s.boundGang q = s.gang q :=
  ⟨parity, 0, 0, 1, parityCtx,
   by decide +kernel⟩

theorem test_witness_evDieFence : ∃ (s : State) (d : Nat) (e : Instr),
    (e = .whorlWatchdog d ∨ e = .thermalFence d) ∧
    d < 8 ∧
    (s.die d).phase = .run :=
  ⟨rich, 0, .thermalFence 0,
   Or.inr rfl, by decide +kernel⟩

theorem test_witness_evFenceSelftest_0 : ∃ (s : State) (d : Nat),
    (s.die d).phase = .fenced false ∧
    d < 8 :=
  ⟨booting (.fenced false), 0,
   by decide +kernel⟩

theorem test_witness_evFenceSelftest_1 : ∃ (s : State) (d : Nat),
    (s.die d).phase = .fenced false ∧
    d < 8 :=
  ⟨booting (.fenced false), 0,
   by decide +kernel⟩

theorem test_witness_evFenceSelftest_2 : ∃ (s : State) (q : Nat),
    (s.seq q).fenced = true ∧
    q < 320 :=
  ⟨fencedSeq 0, 0,
   by decide +kernel⟩

theorem test_witness_evFenceSelftest_3 : ∃ (s : State) (q p : Nat),
    let creel := q / 4
    let d := creel / 10
    let off := 0x5000 + 0x100 * (creel % 10) + 0x80
    let w := s.dctl d off
    (s.seq q).fenced = true ∧
    q < 320 ∧
    p < 16 ∧
    fieldOf w 24 5 = 0x1F :=
  ⟨fencedSeq 0x1F000000, 0, 15,
   by decide +kernel⟩

theorem test_witness_evFenceSelftest_4 : ∃ (s : State) (q p : Nat),
    let creel := q / 4
    let d := creel / 10
    let off := 0x5000 + 0x100 * (creel % 10) + 0x80
    let w := s.dctl d off
    (s.seq q).fenced = true ∧
    q < 320 ∧
    p < 16 ∧
    fieldOf w 24 5 ≠ 0x1F :=
  ⟨fencedSeq 0x1E000000, 0, 15,
   by decide +kernel⟩

theorem test_witness_evThrottle_0 : ∃ (v : BitVec 8),
    105 ≤ v.toNat :=
  ⟨105,
   by decide +kernel⟩

theorem test_witness_evThrottle_1 : ∃ (s : State) (d : Nat) (v : BitVec 8) (k : _),
    v.toNat < 95 ∧
    (s.die d).throttled = true ∧
    (s.die d).coolSince = some k ∧
    k + 1000000 ≤ s.ticks :=
  ⟨(rich.modDie 0 fun y => { y with throttled := true, coolSince := some 0 }), 0, 94, 0,
   by decide +kernel⟩

theorem test_witness_evBoundaryScan : ∃ (code : Nat),
    code ≤ 3 :=
  ⟨3,
   by decide +kernel⟩

end Tests.Witness9

/-! ### Witnesses: issue, decoding and memory -/

namespace Tests.Witness10

def send : Instr := .wSnd { grd := 0, ch := 5, vs := 3 }
def fetching (w : Nat) : State := { rich.withFetchWord 512 w with agenda := [], focus := 0 }
def beginning (s : State) : State := { s with focus := 0 }.beginCycle 0
def broken (x : Option Word) : State := (rich.withFetchWord 512 (2 ^ 21)).modSeq 0 fun y => { y with brkSkip := x }
def twoOps : Nat := encodeBundle { hdr := plainHeader [send], ops := [send] }

theorem test_witness_StepRunsDecoded_0 : ∃ (s u : State) (q w : Nat) (i : Instr),
    Claims.AtIssue ({ s with time := s.time + s.cycleUnits (dieOfSeq q) } : State).scAll u q w ∧
    decodeBundle w = .ok { hdr := plainHeader [i], ops := [i] } ∧
    s.agenda = [] ∧
    s.focus = q ∧
    i.slot?.isSome = true :=
  ⟨fetching (encode send), (({ fetching (encode send) with time := (fetching (encode send)).time + (fetching (encode send)).cycleUnits 0 } : State).scAll.beginCycle 0), 0, encode send, send,
   (by constructor <;> first | decide +kernel | exact fetchedOf (by decide +kernel)), okOf (by decide +kernel), by decide +kernel⟩

theorem test_witness_StepRunsDecoded_1 : ∃ (s u : State) (q w : Nat) (i : Instr),
    Claims.AtIssue { s with focus := q } u q w ∧
    decodeBundle w = .ok { hdr := plainHeader [i], ops := [i] } ∧
    i.slot?.isSome = true :=
  ⟨fetching (encode send), beginning (fetching (encode send)), 0, encode send, send,
   (by constructor <;> first | decide +kernel | exact fetchedOf (by decide +kernel)), okOf (by decide +kernel), by decide +kernel⟩

theorem test_witness_StepRunsDecoded_2 : ∃ (s : State) (q lvl loc : Nat) (e : Word) (tagged : Bool),
    let y := s.seq q
    let va := y.pc.toNat
    let d := dieOfSeq q
    2 ^ 32 ≤ va ∧
    va < 2 ^ 48 ∧
    (s.ctxOf q).bind (fun c => c.windowOf va) = none ∧
    s.walk y.asid d va = .leaf e lvl ∧
    s.tlbHits y.asid d va = [] ∧
    leafPermits e .fetch y.sys = true ∧
    s.leafPlace d (partOf (s.ctxIdOf q)) va e lvl = .ok (.mem loc tagged) ∧
    s.meetsPend loc 64 = false ∧
    (s.die d).icache = [] ∧
    (tagged = false ∨ (s.unit loc).tag.is (s.genOf q) = true) ∧
    s.readsPoison { gen := s.genOf q, tagged := tagged, part := none } loc 64 = false :=
  ⟨fetching (encode send), 0, 3, locDram 0 0x20000, 0x20073, true,
   by decide +kernel⟩

theorem test_witness_HeaderRules_0 : ∃ (w : Nat),
    let yld := w / 2 ^ 17 % 2
    let whl := w / 2 ^ 20 % 2
    let runpos := w / 2 ^ 22 % 2 ^ 10
    let bad : Prop := (yld = 1 ∧ whl = 1) ∨ (yld = 1 ∧ runpos = 0) ∨ (runpos ≠ 0 ∧ yld = 0 ∧ whl = 0)
    bad :=
  ⟨2 ^ 17,
   by decide +kernel⟩

theorem test_witness_HeaderRules_1 : ∃ (w : Nat),
    let yld := w / 2 ^ 17 % 2
    let whl := w / 2 ^ 20 % 2
    let runpos := w / 2 ^ 22 % 2 ^ 10
    let bad : Prop := (yld = 1 ∧ whl = 1) ∨ (yld = 1 ∧ runpos = 0) ∨ (runpos ≠ 0 ∧ yld = 0 ∧ whl = 0)
    ¬ bad ∧
    w < 2 ^ 32 ∧
    w % 2 ^ 17 = 0 :=
  ⟨2 ^ 21,
   by decide +kernel⟩

theorem test_witness_Breakpoints_0 : ∃ (s u : State) (q w : Nat),
    let pc := (u.seq q).pc
    Claims.AtIssue { s with focus := q } u q w ∧
    w / 2 ^ 21 % 2 = 1 ∧
    (u.seq q).brkSkip ≠ some pc ∧
    (u.gang q).Nodup ∧
    u.fedOut q = false ∧
    (∀ f ∈ u.flights, f.ready = false) ∧
    ¬ (u.acting q = true ∧ tcNest (u.core (u.lead q)).sp.tcause = true ∧ (u.seq q).sys = true) :=
  ⟨broken none, beginning (broken none), 0, 2 ^ 21,
   (by constructor <;> first | decide +kernel | exact fetchedOf (by decide +kernel)), by decide +kernel⟩

theorem test_witness_Breakpoints_1 : ∃ (s u : State) (q w : Nat) (b : _),
    let pc := (u.seq q).pc
    Claims.AtIssue { s with focus := q } u q w ∧
    decodeBundle w = .ok b ∧
    w / 2 ^ 21 % 2 = 1 ∧
    (u.seq q).brkSkip = some pc :=
  ⟨broken (some 0x100000000), beginning (broken (some 0x100000000)), 0, 2 ^ 21, { hdr := Header.ofWord (2 ^ 21), ops := [] },
   (by constructor <;> first | decide +kernel | exact fetchedOf (by decide +kernel)), okOf (by decide +kernel), by decide +kernel⟩

theorem test_witness_DecodeEncode : ∃ (i : Instr),
    i.slot?.isSome = true ∧
    i.wf = true :=
  ⟨send,
   by decide +kernel⟩

theorem test_witness_DecodeExact_0 : ∃ (w : Nat) (b : Bundle),
    decodeBundle w = .ok b ∧
    w < 2 ^ 512 :=
  ⟨twoOps, { hdr := plainHeader [send], ops := [send] },
   okOf (by decide +kernel), by decide +kernel⟩

theorem test_witness_DecodeExact_2 : ∃ (w : Nat) (b : Bundle) (i : _),
    decodeBundle w = .ok b ∧
    w < 2 ^ 512 ∧
    i ∈ b.ops :=
  ⟨twoOps, { hdr := plainHeader [send], ops := [send] }, send,
   okOf (by decide +kernel), by decide +kernel⟩

theorem test_witness_ResetState : ∃ r : Nat, r ≠ 0 := ⟨1, by decide⟩

theorem test_witness_MemoryInvariant : ∃ (s t : State),
    step s = .next t ∧
    s.memWf :=
  ⟨fetching (encode send), after (step (fetching (encode send))),
   nextOf (by decide +kernel), by decide +kernel⟩

end Tests.Witness10

/-! ### Witnesses: slots -/

namespace Tests.Witness11

/-- The program on one core, with counters, phasers and claim slots for its partition, and a group of the die itself. -/
def one : State :=
  let s := ((((rich.modSeq 0 fun x => { x with gang := [0] }).setDctl 0 0x4018 0x0000000400000000).setDctl 0 0x4020 0x0000001000000000).setDctl 0 0x4028
    0x0000000400000000).setDctl 0 0xF000 100
  let s := s.modDie 0 fun y => { y with clgrp := [(3, { w0 := 0x800040000000004D, w1 := 0, w2 := 0, members := [s.selfFab 0] })] }
  s.modCore 0 fun k => { k with sc := { k.sc with s := k.sc.s.map fun e => (e.1, if e.1 = 9 then Reg.of 77 1 else if e.1 = 8 then Reg.of 1 1 else e.2) } }
/-- In tenant mode. -/
def tenant : State := one.modSeq 0 fun x => { x with sys := false }
def v (d a b : BitVec 7) (ty : BitVec 4) : VFields := { grd := 0, d := d, a := a, b := b, c := 0, ty := ty, rm := 0, sat := 0, i := 0, fn := 0, k := 0 }
def looping : State := one.modSeq 0 fun x => { x with lsta := [(2, 0x100000020)], lend := [(2, 0x2000000000)], lcnt := [(2, 5)] }
/-- Rings of four rows of 256 bytes with all of them filled, and the smallest format. -/
def rings : State := one.modCore 0 fun k => { k with me := { k.me with b := [(2, Reg.of (bobPack 0 64 0 16384 0) 1), (3, Reg.of (bobPack 64 64 0 16384 0) 1)] } }
def step : LayMma := { grd := 0, td := 2, ba := 2, bw := 3, v := 0, vr := 0, sel := 0 }
def sparse : State := rings.modSeq 0 fun x => { x with mword := some 0x4444444444444444 }
def ownFull : State := { one with full := [(locSpad 0 0x1000, true)] }
def peerFe (op : FlightOp) : Flight := { quiet with id := 3, op := op, pieces := [{ loc := locSpad 1 0, off := 0, len := 16, tagged := true, done := true }] }
def answered (slot : Nat) (op : FlightOp) : State :=
  { ((rich.setCtx 0 (some { programCtx with gangs := [{ seq := 0, mask := 3, drank := 0, grank := 0 }], ncore := 2 })).modSeq 0 fun x => { x with gang := [0] }).modCore 0 fun k => { k with pp := { k.pp with fed := [(slot, 3)] }, me := { k.me with a := [(1, Reg.of 0x1200000 1)] } } with flights := [peerFe op] }
def linked : State :=
  (one.setCtx 0 (some { programCtx with cctl := [(0x220, 0x10001), (0x3A8, 0x8000000000000000)] })).modCore 0 fun k =>
    k.modRq 5 fun r => { r with entries := [Reg.of 9 1], credits := 1 }
def posting : State := (one.modDie 0 fun y => { y with sock := { y.sock with phase := .up } }).setDctl 0 0xF258 0x8000000000000000
def failed : State := one.modDie 0 fun y => { y with tls := [(3, { Timeline.reset with next := 5, fails := [(4, 5)] })] }
def aperture : State := one.modCore 0 fun k => { k with me := { k.me with a := [(1, Reg.of 0x800040 1)] } }
def sealed : SealSlot := { owner := 0, tpl := 5, words := [0x1000, 0x2000, 3, 16, 0, 0, 0, 0, 0, 0x3000, 0, 0, 0, 0, 0, 0], key := 1, kctx := 0, opening := true }
def keyed : Ctx := { programCtx with key := some 1 }
def sealing : State := (aperture.setCtx 0 (some keyed)).modCore 0 fun k => { k with seals := [sealed] }
theorem belowSix {P : Nat → Prop} (h0 : P 0) (h1 : P 1) (h2 : P 2) (h3 : P 3) (h4 : P 4) (h5 : P 5) : ∀ i < 6, P i
  | 0, _ => h0
  | 1, _ => h1
  | 2, _ => h2
  | 3, _ => h3
  | 4, _ => h4
  | 5, _ => h5
def member (kind : Nat) : Phaser := { Phaser.reset with owner := some 0, members := [{ seq := 0, kind := kind, s := 0, w := 0, joined := none }] }
def phasing (p : Phaser) : State := one.modDie 0 fun y => { y with phasers := [(1, p)] }
def joining : State :=
  (one.modSeq 0 fun x => { x with sibs := [{ seq := 1, gangBefore := [0, 1] }] }).modSeq 1 fun x => { x with phase := .retired, gang := [1] }
def handling (n : Word) : State := one.modCore 0 fun k => { k with sp := { k.sp with tcause := n } }

theorem test_witness_ScalarQuick : ∃ (s : State) (q : Nat) (x : LayA) (i : LayA → Instr) (f : Word → Word → Word),
    (i, f) ∈ Claims.scalarQuick ∧
    (i x).wf = true ∧
    s.ready q = true :=
  ⟨rich, 0, { grd := 1, d := 31, a := 2, i := 0, b := 0x0C00000000 }, .sAdd, _,
   List.mem_cons_self .., by decide +kernel⟩

theorem test_witness_ScalarSlow : ∃ (s : State) (q : Nat) (x : LayA) (i : LayA → Instr) (L : Nat) (f : Word → Word → Word),
    (i, L, f) ∈ Claims.scalarSlow ∧
    (i x).wf = true ∧
    s.ready q = true ∧
    (∀ c ∈ s.gang q, (s.core c).roomFor .s .s x.d.toNat L = true) :=
  ⟨rich, 0, { grd := 1, d := 0, a := 2, i := 0, b := 0x0C00000000 }, .sMul, _, _,
   List.mem_cons_self .., by decide +kernel⟩

theorem test_witness_ScalarOther : ∃ (s : State) (q : Nat) (i : Instr),
    (Claims.scalarOther s q 0 i).isSome = true ∧
    i.wf = true ∧
    s.ready q = true :=
  ⟨rich, 0, .sRdsr { grd := 0, r := 31, sr := 0x5D },
   by decide +kernel⟩

theorem test_witness_ScalarCompare : ∃ (s : State) (q : Nat) (x : LayC),
    (Instr.sCmp x).wf = true ∧
    s.ready q = true :=
  ⟨rich, 0, { grd := 0, cond := 9, qd := 7, a := 33, i := 1, b := 5 },
   by decide +kernel⟩

theorem test_witness_ScalarCopies : ∃ (s : State) (q : Nat) (i : Instr) (grd : BitVec 3) (d : Nat) (v : Nat → Word),
    (match i with
        | .sFromv x => grd = x.grd ∧ d = x.d.toNat ∧ ∀ c,
            let k := s.core c
            let file : SMap (Reg 2048) × Nat :=
              if x.vsel.toNat < 8 then (k.ve.oa, 0) else if x.vsel.toNat < 16 then (k.ve.ob, 8)
              else if x.vsel.toNat < 18 then (k.ve.la, 16) else (k.ve.lb, 18)
            v c = ((SMap.get (Reg.wiped 2048) file.1 (x.vsel.toNat - file.2)).read (s.genOf q)).extractLsb' (64 * x.word.toNat) 64
        | .sFroma x => grd = x.grd ∧ d = x.d.toNat ∧ ∀ c, v c = (s.core c).readA (s.genOf q) x.an.toNat
        | _ => False) ∧
    i.wf = true ∧
    s.ready q = true ∧
    (∀ c ∈ s.gang q, (s.core c).roomFor .s .s d 2 = true) :=
  ⟨one, 0, .sFromv { grd := 0, d := 5, vsel := 17, word := 31 }, 0, 5, _,
   ⟨rfl, rfl, fun _ => rfl⟩, by decide +kernel⟩

theorem test_witness_ScalarCopies_a : ∃ (s : State) (q : Nat) (i : Instr) (grd : BitVec 3) (d : Nat) (v : Nat → Word),
    (match i with
        | .sFromv x => grd = x.grd ∧ d = x.d.toNat ∧ ∀ c,
            let k := s.core c
            let file : SMap (Reg 2048) × Nat :=
              if x.vsel.toNat < 8 then (k.ve.oa, 0) else if x.vsel.toNat < 16 then (k.ve.ob, 8)
              else if x.vsel.toNat < 18 then (k.ve.la, 16) else (k.ve.lb, 18)
            v c = ((SMap.get (Reg.wiped 2048) file.1 (x.vsel.toNat - file.2)).read (s.genOf q)).extractLsb' (64 * x.word.toNat) 64
        | .sFroma x => grd = x.grd ∧ d = x.d.toNat ∧ ∀ c, v c = (s.core c).readA (s.genOf q) x.an.toNat
        | _ => False) ∧
    i.wf = true ∧
    s.ready q = true ∧
    (∀ c ∈ s.gang q, (s.core c).roomFor .s .s d 2 = true) :=
  ⟨one, 0, .sFroma { grd := 0, d := 5, an := 15 }, 0, 5, _,
   ⟨rfl, rfl, fun _ => rfl⟩, by decide +kernel⟩

theorem test_witness_Branches : ∃ (s : State) (q : Nat) (i : Instr) (grd : BitVec 3) (cond : Bool) (target : Word),
    Claims.branch s q i = some (grd, cond, target) ∧
    i.wf = true ∧
    s.ready q = true :=
  ⟨one, 0, .sBrc { grd := 0, cond := 0, a := 1, sb := 2, off := -1 }, 0, false, 0xFFFFFFC0,
   by decide +kernel⟩

theorem test_witness_LoopPush : ∃ (s : State) (q : Nat) (x : LayP),
    (∀ k, (s.seq q).innermost = some k →
        ((s.seq q).pc + BitVec.ofNat 64 (64 * x.len.toNat)).toNat ≤ ((s.seq q).loopEnd k).toNat) ∧
    (Instr.sLoop x).wf = true ∧
    s.ready q = true ∧
    (s.seq q).pc.toNat % 64 = 0 ∧
    (s.core (s.lead q)).readQ (s.genOf q) x.grd.toNat = true ∧
    (s.seq q).pushed x.lvl.toNat = false :=
  ⟨one, 0, { grd := 0, lvl := 5, i := 1, cnt := 9, len := 1 },
   (fun k h => nomatch (h : (none : Option Nat) = some k)), by decide +kernel⟩

theorem test_witness_LoopBreak : ∃ (s : State) (q : Nat) (x : LayQ),
    (Instr.sLbrk x).wf = true ∧
    s.ready q = true ∧
    (s.core (s.lead q)).readQ (s.genOf q) x.grd.toNat = true ∧
    (s.seq q).pushed x.lvl.toNat = true :=
  ⟨looping, 0, { grd := 0, lvl := 2 },
   by decide +kernel⟩

theorem test_witness_LoopTraps : ∃ (s : State) (q : Nat) (i : Instr) (grd : BitVec 3),
    (match i with
        | .sLoop x => grd = x.grd ∧ (s.seq q).pushed x.lvl.toNat = true
        | .sLbrk x => grd = x.grd ∧ (s.seq q).pushed x.lvl.toNat = false
        | _ => False) ∧
    i.wf = true ∧
    s.ready q = true ∧
    (s.core (s.lead q)).readQ (s.genOf q) grd.toNat = true ∧
    s.fedOut q = false ∧
    (s.acting q && tcNest (s.core (s.lead q)).sp.tcause && (s.seq q).sys) = false :=
  ⟨looping, 0, .sLoop { grd := 0, lvl := 2, i := 1, cnt := 9, len := 1 }, 0,
   ⟨rfl, (by decide +kernel)⟩, by decide +kernel⟩

theorem test_witness_LoopTraps_lbrk : ∃ (s : State) (q : Nat) (i : Instr) (grd : BitVec 3),
    (match i with
        | .sLoop x => grd = x.grd ∧ (s.seq q).pushed x.lvl.toNat = true
        | .sLbrk x => grd = x.grd ∧ (s.seq q).pushed x.lvl.toNat = false
        | _ => False) ∧
    i.wf = true ∧
    s.ready q = true ∧
    (s.core (s.lead q)).readQ (s.genOf q) grd.toNat = true ∧
    s.fedOut q = false ∧
    (s.acting q && tcNest (s.core (s.lead q)).sp.tcause && (s.seq q).sys) = false :=
  ⟨looping, 0, .sLbrk { grd := 0, lvl := 5 }, 0,
   ⟨rfl, (by decide +kernel)⟩, by decide +kernel⟩

theorem test_witness_SpecialWrites : ∃ (s : State) (q : Nat) (x : LayT),
    (Instr.sWrsr x).wf = true ∧
    s.ready q = true ∧
    x.sr.toNat ≠ 0x014 ∧
    (x.sr.toNat = 0x021 → (s.seq q).sys = true) :=
  ⟨one, 0, { grd := 0, r := 3, sr := 0x021 },
   by decide +kernel⟩

theorem test_witness_SavectrWriteTraps : ∃ (s : State) (q : Nat) (x : LayT),
    (Instr.sWrsr x).wf = true ∧
    s.ready q = true ∧
    x.sr.toNat = 0x021 ∧
    (s.seq q).sys = false ∧
    s.fedOut q = false :=
  ⟨tenant, 0, { grd := 0, r := 3, sr := 0x021 },
   by decide +kernel⟩

theorem test_witness_SkewWrite : ∃ (s : State) (q c : Nat) (x : LayT),
    s.solo q c ∧
    (Instr.sWrsr x).wf = true ∧
    x.sr.toNat = 0x014 ∧
    s.guarded q c x.grd = true :=
  ⟨one, 0, 0, { grd := 0, r := 3, sr := 0x014 },
   ⟨(by decide +kernel), (by decide +kernel)⟩, by decide +kernel⟩

theorem test_witness_VectorLands : ∃ (s : State) (q : Nat) (side : VSide) (x : VFields) (i : VSide → VFields → Instr) (L : Nat) (w : Option Nat),
    (i, L, w) ∈ Claims.vectorOps x ∧
    Claims.vroom s q side x.d L ∧
    (i side x).wf = true ∧
    s.ready q = true :=
  ⟨one, 0, .vb, v 71 3 4 0, .vadd, _, _,
   List.mem_cons_self .., ofGang (a := 0) (by decide +kernel) (by decide +kernel), by decide +kernel⟩

theorem test_witness_VectorIntegers : ∃ (s : State) (q : Nat) (side : VSide) (x : VFields) (i : VSide → VFields → Instr) (f : Nat → Nat → Nat → Nat → Nat),
    (i, f) ∈ Claims.vectorInts x ∧
    Claims.vroom s q side x.d 2 ∧
    (i side x).wf = true ∧
    s.ready q = true :=
  ⟨one, 0, .va, v 63 3 4 5, .viadd, _,
   List.mem_cons_self .., ofGang (a := 0) (by decide +kernel) (by decide +kernel), by decide +kernel⟩

theorem test_witness_VectorPermutes : ∃ (s : State) (q : Nat) (side : VSide) (x : VFields) (i : VSide → VFields → Instr) (f : (Nat → Nat) → (Nat → Nat) → (n k i : Nat) → Nat),
    (i, f) ∈ Claims.vectorPerms ∧
    Claims.vroom s q side x.d 3 ∧
    (i side x).wf = true ∧
    s.ready q = true :=
  ⟨one, 0, .va, v 63 3 4 0, .vperm, _,
   List.mem_cons_self .., ofGang (a := 0) (by decide +kernel) (by decide +kernel), by decide +kernel⟩

theorem test_witness_VectorEncodings : ∃ (s : State) (q : Nat) (side : VSide) (x : VFields) (i : VSide → VFields → Instr) (f : Nat → Option Nat),
    (i, f) ∈ Claims.vectorBits x.ty.toNat ∧
    Claims.vroom s q side x.d 2 ∧
    (i side x).wf = true ∧
    s.ready q = true :=
  ⟨one, 0, .va, v 63 3 0 0, .vabs, _,
   List.mem_cons_self .., ofGang (a := 0) (by decide +kernel) (by decide +kernel), by decide +kernel⟩

theorem test_witness_VectorFloats : ∃ (s : State) (q : Nat) (side : VSide) (x : VFields) (i : VSide → VFields → Instr) (L n : Nat) (f : (a b c : Rat) → (s : Int) → (y : Rat) → Prop),
    (i, L, n, f) ∈ Claims.vectorFloats ∧
    Claims.vroom s q side x.d L ∧
    (i side x).wf = true ∧
    s.ready q = true :=
  ⟨one, 0, .va, v 63 3 4 1, .vadd, _, _, _,
   List.mem_cons_self .., ofGang (a := 0) (by decide +kernel) (by decide +kernel), by decide +kernel⟩

theorem test_witness_VectorConverts : ∃ (s : State) (q : Nat) (side : VSide) (x : VFields),
    Claims.vroom s q side x.d 4 ∧
    (Instr.vcvt side x).wf = true ∧
    s.ready q = true :=
  ⟨one, 0, .va, { v 63 3 0 0 with fn := 7, k := 1 },
   ofGang (a := 0) (by decide +kernel) (by decide +kernel), by decide +kernel⟩

theorem test_witness_VectorQuantises : ∃ (s : State) (q : Nat) (side : VSide) (x : VFields),
    Claims.vroom s q side x.d 4 ∧
    (Instr.vqnt side x).wf = true ∧
    s.ready q = true :=
  ⟨one, 0, .vb, { v 63 3 2 0 with fn := 3, k := 1 },
   ofGang (a := 0) (by decide +kernel) (by decide +kernel), by decide +kernel⟩

theorem test_witness_VectorReduces : ∃ (s : State) (q : Nat) (side : VSide) (x : VFields) (i : VSide → VFields → Instr),
    i ∈ [Instr.vredsum, .vredmax, .vredmin] ∧
    Claims.vroom s q side x.d 8 ∧
    (i side x).wf = true ∧
    s.ready q = true :=
  ⟨one, 0, .va, v 63 3 0 5, .vredsum,
   List.mem_cons_self .., ofGang (a := 0) (by decide +kernel) (by decide +kernel), by decide +kernel⟩

theorem test_witness_VectorGroups : ∃ (s : State) (q : Nat) (side : VSide) (x : VFields),
    Claims.vroom s q side x.d 8 ∧
    (Instr.vgmax side x).wf = true ∧
    s.ready q = true :=
  ⟨one, 0, .va, v 63 3 0 2,
   ofGang (a := 0) (by decide +kernel) (by decide +kernel), by decide +kernel⟩

theorem test_witness_VectorCompacts : ∃ (s : State) (q : Nat) (side : VSide) (x : VFields) (i : VSide → VFields → Instr),
    i ∈ [Instr.vcompress, .vexpand] ∧
    Claims.vroom s q side x.d 3 ∧
    (i side x).wf = true ∧
    s.ready q = true :=
  ⟨one, 0, .vb, { v 63 3 0 7 with c := 2 }, .vcompress,
   List.mem_cons_self .., ofGang (a := 0) (by decide +kernel) (by decide +kernel), by decide +kernel⟩

theorem test_witness_VectorSelects : ∃ (s : State) (q : Nat) (side : VSide) (x : VFields) (i : VSide → VFields → Instr),
    i ∈ [Instr.vsel, .froms] ∧
    Claims.vroom s q side x.d 2 ∧
    (i side x).wf = true ∧
    s.ready q = true :=
  ⟨one, 0, .va, { v 63 3 4 0 with c := 2 }, .vsel,
   List.mem_cons_self .., ofGang (a := 0) (by decide +kernel) (by decide +kernel), by decide +kernel⟩

theorem test_witness_PredicateResults : ∃ (s : State) (q : Nat) (side : VSide) (x : VFields) (i : Instr),
    i ∈ (Claims.predicates s q 0 side x).map Prod.fst ∧
    i.wf = true ∧
    s.ready q = true :=
  ⟨rich, 0, .vb, v 7 2 3 0, .pand .vb (v 7 2 3 0),
   List.mem_cons_self .., by decide +kernel⟩

theorem test_witness_VectorToOthers : ∃ (s : State) (q : Nat) (side : VSide) (x : VFields) (i : VSide → VFields → Instr),
    let scalar := !(i side x == .vcmp side x || i side x == .vicmp side x)
    let place : WPath × RFile × Nat := if scalar then (.x, .s, x.d.toNat) else (Claims.vpath side, .p, x.d.toNat % 8)
    i ∈ [Instr.vcmp, .vicmp, .pcnt, .pfirst, .tos] ∧
    (∀ c ∈ s.gang q, (s.core c).roomFor place.1 place.2.1 place.2.2 2 = true) ∧
    (i side x).wf = true ∧
    s.ready q = true :=
  ⟨one, 0, .vb, v 31 2 0 0, .pcnt,
   .tail _ (.tail _ (.head _)), ofGang (a := 0) (by decide +kernel) (by decide +kernel), by decide +kernel⟩

theorem test_witness_MatrixTiles : ∃ (s : State) (q : Nat) (i : Instr),
    (∀ c ∈ s.gang q, ∀ grd td f, Claims.tileWrites s q c i = some (grd, td, f) → s.guarded q c grd = true →
        Claims.mayUse s q c ∧ (s.core c).mx.busy td = false) ∧
    (Claims.tileWrites s q 0 i).isSome = true ∧
    i.wf = true ∧
    s.ready q = true :=
  ⟨one, 0, .mZero { grd := 0, t := 7 },
   ofGang (a := 0) (by decide +kernel) (ofTriple fun _ => ⟨Or.inl (by decide +kernel), (by decide +kernel)⟩), by decide +kernel⟩

theorem test_witness_MatrixOps : ∃ (s : State) (q : Nat) (i : Instr),
    (∀ c ∈ s.gang q, ∀ grd ok k', Claims.matrixOps s q c i = some (grd, ok, k') → s.guarded q c grd = true →
        Claims.mayUse s q c ∧ ok) ∧
    (Claims.matrixOps s q 0 i).isSome = true ∧
    i.wf = true ∧
    s.ready q = true :=
  ⟨one, 0, .mAcc { grd := 0, td := 7, ts := 0 },
   ofGang (a := 0) (by decide +kernel) (ofTriple fun _ => ⟨Or.inl (by decide +kernel), (by decide +kernel), (by decide +kernel), (by decide +kernel)⟩), by decide +kernel⟩

theorem test_witness_MatrixDense : ∃ (s : State) (q : Nat) (x : LayMma),
    (∀ c ∈ s.gang q, Claims.stepShape s q c 32 x ∧ (s.guarded q c x.grd = true → Claims.stepReady s q c 32 x)) ∧
    (Instr.mMma x).wf = true ∧
    s.ready q = true :=
  ⟨rings, 0, step,
   ofGang (a := 0) (by decide +kernel) ⟨⟨(by decide +kernel), (by decide +kernel), (by decide +kernel), (by decide +kernel), (by decide +kernel)⟩, fun _ => ⟨Or.inl (by decide +kernel), ((by decide +kernel) : _ ∧ _)⟩⟩, by decide +kernel⟩

theorem test_witness_MatrixSparse : ∃ (s : State) (q : Nat) (x : LayMma) (w : Word),
    (∀ c ∈ s.gang q, Claims.stepShape s q c 64 x ∧ (s.guarded q c x.grd = true → Claims.stepReady s q c 64 x)) ∧
    (Instr.mMms x).wf = true ∧
    s.ready q = true ∧
    s.errors = [] ∧
    s.metaRead q = .ok w ∧
    (∀ n < 16, w.toNat / 16 ^ n % 4 < w.toNat / 16 ^ n / 4 % 4) :=
  ⟨sparse, 0, step, 0x4444444444444444,
   ofGang (a := 0) (by decide +kernel) ⟨⟨(by decide +kernel), (by decide +kernel), (by decide +kernel), (by decide +kernel), (by decide +kernel)⟩, fun _ => ⟨Or.inl (by decide +kernel), ((by decide +kernel) : _ ∧ _)⟩⟩, by decide +kernel⟩

theorem test_witness_Loads : ∃ (s : State) (q c : Nat) (i : Instr) (x : Claims.LoadForm) (l : List (Run × Place)),
    let k := s.core c
    let index := if x.file = .s then x.d.toNat else physV (k.base (s.genOf q)) x.d.toNat
    let path := if x.file = .s then WPath.lS else .lV
    Claims.loadForm s q c i = some x ∧
    s.solo q c ∧
    x.ok ∧
    Claims.reaches s q c 4 .read x.runs l ∧
    (allOwn l = true → k.roomFor path x.file index 6 = true) ∧
    i.wf = true ∧
    s.guarded q c x.grd = true :=
  ⟨one, 0, 0, .lS { grd := 0, d := 31, an := 1, sz := 6, fq := 0, off := 56 }, _, [({ addr := 0x1038, len := 8, off := 0 }, .own 0x1038)],
   rfl, ⟨(by decide +kernel), (by decide +kernel)⟩, ((by decide +kernel) : _ ≤ _), ⟨(by decide +kernel), (by decide +kernel), (by decide +kernel)⟩, (fun _ => (by decide +kernel)), by decide +kernel⟩

theorem test_witness_AddressOps : ∃ (s : State) (q : Nat) (i : Instr),
    (∀ c ∈ s.gang q, ∀ grd d v L, Claims.addressOps s q c i = some (grd, d, v, L) → (s.core c).roomFor .lA .a d L = true) ∧
    (Claims.addressOps s q 0 i).isSome = true ∧
    i.wf = true ∧
    s.ready q = true :=
  ⟨one, 0, .lAmov { grd := 0, ad := 15, sa := 3 },
   ofGang (a := 0) (by decide +kernel) (ofQuadruple (by decide +kernel)), by decide +kernel⟩

theorem test_witness_MetadataPointer : ∃ (s : State) (q : Nat) (x : LayLAn),
    (Instr.lMpc x).wf = true ∧
    s.ready q = true :=
  ⟨one, 0, { grd := 0, an := 1, off := 0x7FFFFF },
   by decide +kernel⟩

theorem test_witness_FullEmptyOwn_0 : ∃ (s : State) (q c off : Nat) (x : LayL) (r : Run),
    let a := Claims.address s q c x.an x.off
    let index := physV ((s.core c).base (s.genOf q)) x.d.toNat
    s.solo q c ∧
    Claims.reaches s q c 4 .read (runsOf a 16) [(r, .own off)] ∧
    (Instr.lFe x).wf = true ∧
    s.guarded q c x.grd = true ∧
    a.toNat % 16 = 0 ∧
    s.tstMeets c off 16 = false ∧
    s.fullAhead c (s.genOf q) off = true ∧
    (s.core c).roomFor .lV .v index 6 = true :=
  ⟨ownFull, 0, 0, 0x1000, { grd := 0, d := 63, an := 1, sz := 0, fq := 2, off := 0 }, { addr := 0x1000, len := 16, off := 0 },
   ⟨(by decide +kernel), (by decide +kernel)⟩, ⟨(by decide +kernel), (by decide +kernel), (by decide +kernel)⟩, by decide +kernel⟩

theorem test_witness_FullEmptyOwn_1 : ∃ (s : State) (q c off : Nat) (x : LayW) (r : Run),
    let a := Claims.address s q c x.an x.off
    s.solo q c ∧
    Claims.reaches s q c 5 .write (runsOf a 16) [(r, .own off)] ∧
    (Instr.wFe x).wf = true ∧
    s.guarded q c x.grd = true ∧
    a.toNat % 16 = 0 ∧
    s.tstMeets c off 16 = false ∧
    s.fullAhead c (s.genOf q) off = false :=
  ⟨one, 0, 0, 0x1000, { grd := 0, src := 3, an := 1, sz := 0, k := 15, off := 0 }, { addr := 0x1000, len := 16, off := 0 },
   ⟨(by decide +kernel), (by decide +kernel)⟩, ⟨(by decide +kernel), (by decide +kernel), (by decide +kernel)⟩, by decide +kernel⟩

theorem test_witness_FullEmptyPeer_0 : ∃ (s : State) (q c p off : Nat) (f : Flight) (x : LayL) (r : Run),
    s.solo q c ∧
    Claims.reaches s q c 4 .read (runsOf (Claims.address s q c x.an x.off) 16) [(r, .peer p off)] ∧
    f.allDone = true ∧
    (Instr.lFe x).wf = true ∧
    s.guarded q c x.grd = true ∧
    s.fedAccess c 4 = some f ∧
    (Claims.address s q c x.an x.off).toNat % 16 = 0 :=
  ⟨answered 4 (.fe true false), 0, 0, 1, 0, peerFe (.fe true false), { grd := 0, d := 63, an := 1, sz := 0, fq := 2, off := 0 }, { addr := 0x1200000, len := 16, off := 0 },
   ⟨(by decide +kernel), (by decide +kernel)⟩, ⟨(by decide +kernel), (by decide +kernel), (by decide +kernel)⟩, by decide +kernel⟩

theorem test_witness_FullEmptyPeer_1 : ∃ (s : State) (q c p off : Nat) (f : Flight) (x : LayW) (r : Run),
    s.solo q c ∧
    Claims.reaches s q c 5 .write (runsOf (Claims.address s q c x.an x.off) 16) [(r, .peer p off)] ∧
    f.allDone = true ∧
    (Instr.wFe x).wf = true ∧
    s.guarded q c x.grd = true ∧
    s.fedAccess c 5 = some f ∧
    (Claims.address s q c x.an x.off).toNat % 16 = 0 :=
  ⟨answered 5 .wfe, 0, 0, 1, 0, peerFe .wfe, { grd := 0, src := 3, an := 1, sz := 0, k := 15, off := 0 }, { addr := 0x1200000, len := 16, off := 0 },
   ⟨(by decide +kernel), (by decide +kernel)⟩, ⟨(by decide +kernel), (by decide +kernel), (by decide +kernel)⟩, by decide +kernel⟩

theorem test_witness_ScaleLoad : ∃ (s : State) (q c : Nat) (x : LayLAn) (l : List (Run × Place)),
    let a := Claims.address s q c x.an x.off
    s.solo q c ∧
    Claims.mayUse s q c ∧
    Claims.reaches s q c 4 .read (runsOf a 64) l ∧
    (Instr.lScl x).wf = true ∧
    s.guarded q c x.grd = true ∧
    s.sclGone q c = false ∧
    (s.core c).mx.scq.length + (s.flights.filter fun f => f.core == c && decide (f.op = .scl)).length < 8 ∧
    a.toNat % 64 = 0 :=
  ⟨one, 0, 0, { grd := 0, an := 1, off := 0 }, [({ addr := 0x1000, len := 64, off := 0 }, .own 0x1000)],
   ⟨(by decide +kernel), (by decide +kernel)⟩, Or.inl (by decide +kernel), ⟨(by decide +kernel), (by decide +kernel), (by decide +kernel)⟩, by decide +kernel⟩

theorem test_witness_LinkMessages_0 : ∃ (s : State) (q c : Nat) (x : LayLRcv) (e : Reg 2048) (rest : List (Reg 2048)),
    let ch := x.ch.toNat
    let from_ := Claims.rankAt s q c (-((s.lch q ch).extractLsb' 0 16).toInt)
    s.solo q c ∧
    (∀ b, from_ = some b → s.keptCore (s.ctxIdOf q) b = false) ∧
    (Instr.lRcv x).wf = true ∧
    s.guarded q c x.grd = true ∧
    (s.lch q ch).getLsbD 63 = true ∧
    ((s.core c).rq ch).entries = e :: rest :=
  ⟨linked, 0, 0, { grd := 0, d := 63, ch := 5 }, Reg.of 9 1, [],
   ⟨(by decide +kernel), (by decide +kernel)⟩, onlySome (a := 0) (by decide +kernel) (by decide +kernel), by decide +kernel⟩

theorem test_witness_LinkMessages_1 : ∃ (s : State) (q c : Nat) (x : LayWSnd) (b : Nat),
    let ch := x.ch.toNat
    s.solo q c ∧
    (Instr.wSnd x).wf = true ∧
    s.guarded q c x.grd = true ∧
    (s.lch q ch).getLsbD 63 = true ∧
    0 < ((s.core c).rq ch).credits ∧
    Claims.rankAt s q c ((s.lch q ch).extractLsb' 0 16).toInt = some b :=
  ⟨linked, 0, 0, { grd := 0, ch := 5, vs := 3 }, 0,
   ⟨(by decide +kernel), (by decide +kernel)⟩, by decide +kernel⟩

theorem test_witness_Stores : ∃ (s : State) (q c : Nat) (i : Instr) (x : Claims.StoreForm) (l : List (Run × Place)),
    Claims.storeForm s q c i = some x ∧
    s.solo q c ∧
    x.ok ∧
    Claims.reaches s q c 5 x.use x.runs l ∧
    i.wf = true ∧
    s.guarded q c x.grd = true ∧
    apertureOf l = none ∧
    s.allowWaits q c (fun _ => spotWindows l) = false :=
  ⟨one, 0, 0, .wS { grd := 0, src := 31, an := 1, sz := 3, k := 0, off := 56 }, _, [({ addr := 0x1038, len := 8, off := 0 }, .own 0x1038)],
   rfl, ⟨(by decide +kernel), (by decide +kernel)⟩, ((by decide +kernel) : _ ≤ _), ⟨(by decide +kernel), (by decide +kernel), (by decide +kernel)⟩, by decide +kernel⟩

theorem test_witness_Atomics : ∃ (s : State) (q c : Nat) (i : Instr) (grd : BitVec 3) (an : BitVec 4) (off : BitVec 24) (sd : BitVec 6) (ty : BitVec 2) (op : FlightOp) (l : List (Run × Place)),
    let a := Claims.address s q c an off
    let n := if ty = 0 then 8 else 4
    (match i with
        | .wAtom x => grd = x.grd ∧ an = x.an ∧ off = x.off ∧ sd = x.sd ∧ ty = x.ty ∧
            op = .atom (aopOf x.aop.toNat) x.ty.toNat ((s.core c).readS (s.genOf q) x.sv.toNat) true
        | .wCas x => grd = x.grd ∧ an = x.an ∧ off = x.off ∧ sd = x.sd ∧ ty = x.ty ∧
            op = .cas x.ty.toNat ((s.core c).readS (s.genOf q) x.sc.toNat) ((s.core c).readS (s.genOf q) x.sn.toNat)
        | _ => False) ∧
    s.solo q c ∧
    Claims.reaches s q c 5 .both (runsOf a n) l ∧
    i.wf = true ∧
    s.guarded q c grd = true ∧
    a.toNat % n = 0 ∧
    apertureOf l = none :=
  ⟨one, 0, 0, .wAtom { grd := 0, sd := 31, an := 1, sv := 3, aop := 0, ty := 0, off := 8 }, 0, 1, 8, 31, 0, _, [({ addr := 0x1008, len := 8, off := 0 }, .own 0x1008)],
   ⟨rfl, rfl, rfl, rfl, rfl, rfl⟩, ⟨(by decide +kernel), (by decide +kernel)⟩, ⟨(by decide +kernel), (by decide +kernel), (by decide +kernel)⟩, by decide +kernel⟩

theorem test_witness_Atomics_cas : ∃ (s : State) (q c : Nat) (i : Instr) (grd : BitVec 3) (an : BitVec 4) (off : BitVec 24) (sd : BitVec 6) (ty : BitVec 2) (op : FlightOp) (l : List (Run × Place)),
    let a := Claims.address s q c an off
    let n := if ty = 0 then 8 else 4
    (match i with
        | .wAtom x => grd = x.grd ∧ an = x.an ∧ off = x.off ∧ sd = x.sd ∧ ty = x.ty ∧
            op = .atom (aopOf x.aop.toNat) x.ty.toNat ((s.core c).readS (s.genOf q) x.sv.toNat) true
        | .wCas x => grd = x.grd ∧ an = x.an ∧ off = x.off ∧ sd = x.sd ∧ ty = x.ty ∧
            op = .cas x.ty.toNat ((s.core c).readS (s.genOf q) x.sc.toNat) ((s.core c).readS (s.genOf q) x.sn.toNat)
        | _ => False) ∧
    s.solo q c ∧
    Claims.reaches s q c 5 .both (runsOf a n) l ∧
    i.wf = true ∧
    s.guarded q c grd = true ∧
    a.toNat % n = 0 ∧
    apertureOf l = none :=
  ⟨one, 0, 0, .wCas { grd := 0, sd := 0, an := 1, sc := 3, sn := 4, ty := 1, off := 4 }, 0, 1, 4, 0, 1, _, [({ addr := 0x1004, len := 4, off := 0 }, .own 0x1004)],
   ⟨rfl, rfl, rfl, rfl, rfl, rfl⟩, ⟨(by decide +kernel), (by decide +kernel)⟩, ⟨(by decide +kernel), (by decide +kernel), (by decide +kernel)⟩, by decide +kernel⟩

theorem test_witness_CopyLocal : ∃ (s : State) (q : Nat) (i : Instr),
    (∀ c ∈ s.gang q, ∀ grd ok k', Claims.copyOps s q c i = some (grd, ok, k') → s.guarded q c grd = true → ok) ∧
    (Claims.copyOps s q 0 i).isSome = true ∧
    i.wf = true ∧
    s.ready q = true ∧
    (match i with
        | .cSeal _ => (s.seq q).sys = true
        | _ => True) :=
  ⟨one, 0, .cShp { grd := 0, hd := 15, sa := 3 },
   ofGang (a := 0) (by decide +kernel) (ofTriple fun _ => trivial), by decide +kernel⟩

theorem test_witness_CopyLocal_ring : ∃ (s : State) (q : Nat) (i : Instr),
    (∀ c ∈ s.gang q, ∀ grd ok k', Claims.copyOps s q c i = some (grd, ok, k') → s.guarded q c grd = true → ok) ∧
    (Claims.copyOps s q 0 i).isSome = true ∧
    i.wf = true ∧
    s.ready q = true ∧
    (match i with
        | .cSeal _ => (s.seq q).sys = true
        | _ => True) :=
  ⟨one, 0, .cRing { grd := 0, b := 15, base := 0, size := 1 },
   ofGang (a := 0) (by decide +kernel) (ofTriple fun _ => ⟨(by decide +kernel), (by decide +kernel)⟩), by decide +kernel⟩

theorem test_witness_CopyStart : ∃ (s : State) (q c i len : Nat) (x : LayCGo) (dims : List (Nat × Int × Int)),
    s.solo q c ∧
    (Instr.cGo x).wf = true ∧
    s.guarded q c x.grd = true ∧
    s.tlOf q x.tl.toNat = some i ∧
    (s.core c).shapeAt (s.genOf q) x.hs.toNat = some (len, dims) ∧
    (s.tl (dieOfSeq q) i).next + 1 < 2 ^ 64 :=
  ⟨one, 0, 0, 15, 64, { grd := 0, tl := 15, src := 1, dst := 2, dk := 0, hs := 0 }, [],
   ⟨(by decide +kernel), (by decide +kernel)⟩, by decide +kernel⟩

theorem test_witness_CacheMaintenance : ∃ (s : State) (q c j kind : Nat) (i : Instr) (grd : BitVec 3) (tl : BitVec 12) (an : BitVec 4) (sl : BitVec 6) (scope : BitVec 4),
    s.solo q c ∧
    Claims.cacheOp i = some (grd, tl, kind, an, sl, scope) ∧
    i.wf = true ∧
    s.guarded q c grd = true ∧
    s.tlOf q tl.toNat = some j ∧
    (s.tl (dieOfSeq q) j).next + 1 < 2 ^ 64 :=
  ⟨one, 0, 0, 15, 0, .cIcinv { grd := 0, tl := 15, an := 1, sl := 3, scope := 4 }, 0, 15, 1, 3, 4,
   ⟨(by decide +kernel), (by decide +kernel)⟩, by decide +kernel⟩

theorem test_witness_PacketPost : ∃ (s : State) (q c j : Nat) (x : LayCGq) (l : List (Run × Place)),
    let d := dieOfSeq q
    let a := (s.core c).readA (s.genOf q) x.an.toNat
    s.solo q c ∧
    (Instr.cGq x).wf = true ∧
    s.guarded q c x.grd = true ∧
    s.tlOf q x.tl.toNat = some j ∧
    (s.tl (dieOfSeq q) j).next + 1 < 2 ^ 64 ∧
    s.spots q c 6 .read (runsOf a 64) = .ok l ∧
    allOwn l = true ∧
    a.toNat % 64 = 0 ∧
    s.gqBound q x.gq.toNat = true ∧
    (s.die d).sock.phase = .up ∧
    ((s.die d).sock.queue x.gq.toNat).length < 8 :=
  ⟨posting, 0, 0, 15, { grd := 0, tl := 15, an := 1, gq := 3 }, [({ addr := 0x1000, len := 64, off := 0 }, .own 0x1000)],
   ⟨(by decide +kernel), (by decide +kernel)⟩, by decide +kernel⟩

theorem test_witness_ApertureStart : ∃ (s : State) (q c ch j len : Nat) (x : LayW) (w : List Word) (dims : List (Nat × Int × Int)) (b : Option (SealSlot × Ctx)),
    let k := s.core c
    let g := s.genOf q
    let d := dieOfSeq q
    let n := (s.tl d j).next + 1
    let tpl := (k.readS g (x.src.toNat % 64)).toNat
    let word (i : Nat) : Word := w[i]?.getD 0
    s.solo q c ∧
    (∀ i < 6, word (10 + i) = 0) ∧
    (match b with
        | none => s.binding q c tpl = none ∧ len ≠ 0 ∧ ∀ e ∈ dims, e.1 ≠ 0
        | some (a, y) => s.binding q c tpl = some a ∧ s.ctx? a.kctx = some y ∧ y.key = some a.key ∧
            (a.opening = true ∨ y.sseq ≠ 2 ^ 32 - 1)) ∧
    (Instr.wS x).wf = true ∧
    x.sz = 3 ∧
    s.guarded q c x.grd = true ∧
    s.fenced false c = false ∧
    1 ≤ ch ∧
    ch < 8 ∧
    Claims.address s q c x.an x.off = BitVec.ofNat 64 (0x800000 + 64 * ch) ∧
    tpl < 32 ∧
    s.startWords q c tpl = .ok w ∧
    shapeOf (word 3) ((List.range 5).map fun i => word (4 + i)) = some (len, dims) ∧
    s.tlOf q ((word 2).toNat % 2 ^ 12) = some j ∧
    n < 2 ^ 64 ∧
    (k.chanOf ch).length < 4 :=
  ⟨sealing, 0, 0, 1, 3, 16, { grd := 0, src := 3, an := 1, sz := 3, k := 0, off := 0 }, [0x1000, 0x2000, 3, 16, 0, 0, 0, 0, 0, 0x3000, 0, 0, 0, 0, 0, 0], [], some (sealed, keyed),
   ⟨(by decide +kernel), (by decide +kernel)⟩, (belowSix (by decide +kernel) (by decide +kernel) (by decide +kernel) (by decide +kernel) (by decide +kernel) (by decide +kernel)), ⟨rfl, rfl, rfl, Or.inl rfl⟩, by decide +kernel⟩

theorem test_witness_ApertureTraps : ∃ (s : State) (q c ch off : Nat) (i : Instr) (x : Claims.StoreForm) (l : List (Run × Place)),
    Claims.storeForm s q c i = some x ∧
    s.solo q c ∧
    x.ok ∧
    i.wf = true ∧
    s.guarded q c x.grd = true ∧
    s.spots q c 5 x.use x.runs = .ok l ∧
    apertureOf l = some (ch, off) ∧
    s.fedOut q = false ∧
    (s.acting q && tcNest (s.core c).sp.tcause && (s.seq q).sys) = false ∧
    (match i with
        | .wS y => y.sz ≠ 3 ∨ off ≠ 0 ∨ ch = 0
        | _ => True) :=
  ⟨aperture, 0, 0, 1, 0, .wS { grd := 0, src := 31, an := 1, sz := 2, k := 0, off := 0 }, _, [({ addr := 0x800040, len := 4, off := 0 }, .aperture 1 0)],
   rfl, ⟨(by decide +kernel), (by decide +kernel)⟩, ((by decide +kernel) : _ ≤ _), by decide +kernel⟩

theorem test_witness_SyncLocal : ∃ (s : State) (q : Nat) (i : Instr),
    (∀ c ∈ s.gang q, ∀ grd ok k', Claims.syncOps s q c i = some (grd, ok, k') → s.guarded q c grd = true → ok) ∧
    (Claims.syncOps s q 0 i).isSome = true ∧
    i.wf = true ∧
    s.ready q = true ∧
    (match i with
        | .yTlwait x => ∀ j, s.tlOf q x.tl.toNat = some j → ∀ e ∈ (s.tlSeen (dieOfSeq q) j).fails, (s.tlSeen (dieOfSeq q) j).done < e.1
        | _ => True) :=
  ⟨one, 0, .yTlread { grd := 0, tl := 15, sd := 31 },
   ofGang (a := 0) (by decide +kernel) (ofTriple fun _ => ⟨(by decide +kernel), (by decide +kernel)⟩), by decide +kernel⟩

theorem test_witness_TimelineAdvance : ∃ (s : State) (q c j : Nat) (x : LayYTl),
    let d := dieOfSeq q
    let y := s.tl d j
    let n := ((s.core c).readS (s.genOf q) x.sa.toNat).toNat
    s.solo q c ∧
    Claims.token s q ∧
    (Instr.yTladv x).wf = true ∧
    s.guarded q c x.grd = true ∧
    s.tlOf q x.tl.toNat = some j ∧
    n < 2 ^ 16 ∧
    y.next + n < 2 ^ 64 :=
  ⟨one, 0, 0, 15, { grd := 0, tl := 15, sa := 3 },
   ⟨(by decide +kernel), (by decide +kernel)⟩, Or.inl (by decide +kernel), by decide +kernel⟩

theorem test_witness_TimelineFailure : ∃ (s : State) (q c j n cause : Nat) (x : LayYTl),
    s.solo q c ∧
    (Instr.yTlwait x).wf = true ∧
    s.guarded q c x.grd = true ∧
    s.tlOf q x.tl.toNat = some j ∧
    (s.tl (dieOfSeq q) j).fails = [(n, cause)] ∧
    (s.tlSeen (dieOfSeq q) j).fails = [(n, cause)] ∧
    (s.tl (dieOfSeq q) j).heldFails = [] ∧
    n ≤ ((s.core c).readS (s.genOf q) x.sa.toNat).toNat ∧
    0 < cause ∧
    cause < 64 ∧
    s.fedOut q = false ∧
    (s.acting q && tcNest (s.core c).sp.tcause && (s.seq q).sys) = false :=
  ⟨failed, 0, 0, 3, 4, 5, { grd := 0, tl := 3, sa := 3 },
   ⟨(by decide +kernel), (by decide +kernel)⟩, by decide +kernel⟩

theorem test_witness_PhaserOps : ∃ (s : State) (q n j : Nat) (i : Instr) (grd : BitVec 3) (p' : Phaser),
    let d := dieOfSeq q
    let p := s.phaser d j
    Claims.phaserOp s q n p p' i ∧
    (match i with
        | .yPhreg x => grd = x.grd
        | .yPhwait x => grd = x.grd
        | .yPhdrop x => grd = x.grd
        | .yPhsig x => grd = x.grd
        | _ => False) ∧
    (p.owner = none ∨ p.owner = (s.seq q).ctx) ∧
    Claims.token s q ∧
    s.phOf q n = some j ∧
    i.wf = true ∧
    s.ready q = true ∧
    (s.core (s.lead q)).readQ (s.genOf q) grd.toNat = true :=
  ⟨one, 0, 3, 3, .yPhreg { grd := 0, ph := 3, mode := 2 }, 0, _,
   ⟨(by decide +kernel), (by decide +kernel), rfl⟩, rfl, Or.inl (by decide +kernel), Or.inl (by decide +kernel), by decide +kernel⟩

theorem test_witness_PhaserOps_wait : ∃ (s : State) (q n j : Nat) (i : Instr) (grd : BitVec 3) (p' : Phaser),
    let d := dieOfSeq q
    let p := s.phaser d j
    Claims.phaserOp s q n p p' i ∧
    (match i with
        | .yPhreg x => grd = x.grd
        | .yPhwait x => grd = x.grd
        | .yPhdrop x => grd = x.grd
        | .yPhsig x => grd = x.grd
        | _ => False) ∧
    (p.owner = none ∨ p.owner = (s.seq q).ctx) ∧
    Claims.token s q ∧
    s.phOf q n = some j ∧
    i.wf = true ∧
    s.ready q = true ∧
    (s.core (s.lead q)).readQ (s.genOf q) grd.toNat = true :=
  ⟨phasing (member 2), 0, 1, 1, .yPhwait { grd := 0, ph := 1 }, 0, _,
   ⟨(by decide +kernel), { seq := 0, kind := 2, s := 0, w := 0, joined := none }, (by decide +kernel), (by decide +kernel), (by decide +kernel), rfl⟩, rfl, Or.inr (by decide +kernel), Or.inl (by decide +kernel), by decide +kernel⟩

theorem test_witness_PhaserOps_drop : ∃ (s : State) (q n j : Nat) (i : Instr) (grd : BitVec 3) (p' : Phaser),
    let d := dieOfSeq q
    let p := s.phaser d j
    Claims.phaserOp s q n p p' i ∧
    (match i with
        | .yPhreg x => grd = x.grd
        | .yPhwait x => grd = x.grd
        | .yPhdrop x => grd = x.grd
        | .yPhsig x => grd = x.grd
        | _ => False) ∧
    (p.owner = none ∨ p.owner = (s.seq q).ctx) ∧
    Claims.token s q ∧
    s.phOf q n = some j ∧
    i.wf = true ∧
    s.ready q = true ∧
    (s.core (s.lead q)).readQ (s.genOf q) grd.toNat = true :=
  ⟨phasing (member 0), 0, 1, 1, .yPhdrop { grd := 0, ph := 1 }, 0, _,
   ⟨(by decide +kernel), ⟨{ seq := 0, kind := 0, s := 0, w := 0, joined := none }, (by decide +kernel)⟩, (by decide +kernel), rfl⟩, rfl, Or.inr (by decide +kernel), Or.inl (by decide +kernel), by decide +kernel⟩

theorem test_witness_PhaserOps_signal : ∃ (s : State) (q n j : Nat) (i : Instr) (grd : BitVec 3) (p' : Phaser),
    let d := dieOfSeq q
    let p := s.phaser d j
    Claims.phaserOp s q n p p' i ∧
    (match i with
        | .yPhreg x => grd = x.grd
        | .yPhwait x => grd = x.grd
        | .yPhdrop x => grd = x.grd
        | .yPhsig x => grd = x.grd
        | _ => False) ∧
    (p.owner = none ∨ p.owner = (s.seq q).ctx) ∧
    Claims.token s q ∧
    s.phOf q n = some j ∧
    i.wf = true ∧
    s.ready q = true ∧
    (s.core (s.lead q)).readQ (s.genOf q) grd.toNat = true :=
  ⟨phasing (member 0), 0, 1, 1, .yPhsig { grd := 0, ph := 1 }, 0, _,
   ⟨(by decide +kernel), { seq := 0, kind := 0, s := 0, w := 0, joined := none }, rfl, (by decide +kernel), (by decide +kernel), (by decide +kernel), (by decide +kernel), rfl, fun _ => Nat.le_refl 0, (by decide +kernel), rfl⟩, rfl, Or.inr (by decide +kernel), Or.inl (by decide +kernel), by decide +kernel⟩

theorem test_witness_ClaimPropose : ∃ (s : State) (q gi n : Nat) (x : LayYClm),
    let l := s.lead q
    let g := s.genOf q
    let d := dieOfSeq q
    let r (a : BitVec 6) := (s.core l).readS g a.toNat
    Claims.handle s q (r x.sh) gi ∧
    Claims.keyOpen s q (r x.sk) ∧
    (Instr.yClm x).wf = true ∧
    s.ready q = true ∧
    (s.core l).readQ g x.grd.toNat = true ∧
    s.freeSlot d (partOf (s.ctxIdOf q)) = some n :=
  ⟨one, 0, 3, 0, { grd := 0, sk := 3, sv := 4, sh := 9 },
   ⟨(by decide +kernel), (by decide +kernel), (by decide +kernel), (by decide +kernel), (by decide +kernel)⟩, (fun _ => (by decide +kernel)), by decide +kernel⟩

theorem test_witness_ClaimObject : ∃ (s : State) (q gi : Nat) (x : LayYObj),
    let l := s.lead q
    let g := s.genOf q
    let d := dieOfSeq q
    let r (a : BitVec 6) := (s.core l).readS g a.toNat
    Claims.handle s q (r x.sh) gi ∧
    Claims.keyOpen s q (r x.sk) ∧
    (Instr.yObj x).wf = true ∧
    s.ready q = true ∧
    (s.core l).readQ g x.grd.toNat = true ∧
    s.selfFab d ∈ (s.clgrp d gi).members :=
  ⟨one, 0, 3, { grd := 0, sk := 3, sh := 9 },
   ⟨(by decide +kernel), (by decide +kernel), (by decide +kernel), (by decide +kernel), (by decide +kernel)⟩, (fun _ => (by decide +kernel)), by decide +kernel⟩

theorem test_witness_ClaimRead : ∃ (s : State) (q gi : Nat) (i : Instr) (grd : BitVec 3) (sk sh : BitVec 6) (sd : Option (BitVec 6)),
    let l := s.lead q
    let g := s.genOf q
    let d := dieOfSeq q
    let r (a : BitVec 6) := (s.core l).readS g a.toNat
    (match i with
        | .yClwait x => grd = x.grd ∧ sk = x.sk ∧ sh = x.sh ∧ sd = none
        | .yClread x => grd = x.grd ∧ sk = x.sk ∧ sh = x.sh ∧ sd = some x.sd
        | _ => False) ∧
    Claims.handle s q (r sh) gi ∧
    (sd = none → s.claimsOn d (partOf (s.ctxIdOf q)) ((r sh).extractLsb' 0 16) (r sk) = []) ∧
    (∀ a, sd = some a → ∀ c ∈ s.gang q, (s.core c).roomFor .x .s a.toNat 2 = true) ∧
    i.wf = true ∧
    s.ready q = true :=
  ⟨one, 0, 3, .yClwait { grd := 0, sk := 3, sh := 9 }, 0, 3, 9, none,
   ⟨rfl, rfl, rfl, rfl⟩, ⟨(by decide +kernel), (by decide +kernel), (by decide +kernel), (by decide +kernel), (by decide +kernel)⟩, fun _ => (by decide +kernel), (fun _ h => nomatch h), by decide +kernel⟩

theorem test_witness_ClaimRead_read : ∃ (s : State) (q gi : Nat) (i : Instr) (grd : BitVec 3) (sk sh : BitVec 6) (sd : Option (BitVec 6)),
    let l := s.lead q
    let g := s.genOf q
    let d := dieOfSeq q
    let r (a : BitVec 6) := (s.core l).readS g a.toNat
    (match i with
        | .yClwait x => grd = x.grd ∧ sk = x.sk ∧ sh = x.sh ∧ sd = none
        | .yClread x => grd = x.grd ∧ sk = x.sk ∧ sh = x.sh ∧ sd = some x.sd
        | _ => False) ∧
    Claims.handle s q (r sh) gi ∧
    (sd = none → s.claimsOn d (partOf (s.ctxIdOf q)) ((r sh).extractLsb' 0 16) (r sk) = []) ∧
    (∀ a, sd = some a → ∀ c ∈ s.gang q, (s.core c).roomFor .x .s a.toNat 2 = true) ∧
    i.wf = true ∧
    s.ready q = true :=
  ⟨one, 0, 3, .yClread { grd := 0, sd := 31, sk := 3, sh := 9 }, 0, 3, 9, some 31,
   ⟨rfl, rfl, rfl, rfl⟩, ⟨(by decide +kernel), (by decide +kernel), (by decide +kernel), (by decide +kernel), (by decide +kernel)⟩, (fun h => nomatch h), (fun _ h => Option.some.inj h ▸ ofGang (a := 0) (by decide +kernel) (by decide +kernel)), by decide +kernel⟩

theorem test_witness_Spawn : ∃ (s : State) (q : Nat) (x : LayYSpawn),
    let l := s.lead q
    let g := s.genOf q
    let r := q / 4 * 4 + x.sib.toNat
    let m := ((s.core l).readS g x.sm.toNat).toNat
    let picked (b : Bool) := ((List.range (s.gang q).length).filter fun i => m.testBit i == b).filterMap fun i => (s.gang q)[i]?
    (Instr.ySpawn x).wf = true ∧
    s.ready q = true ∧
    (s.core l).readQ g x.grd.toNat = true ∧
    r ≠ q ∧
    m < 2 ^ (s.gang q).length ∧
    m % 2 = 0 ∧
    (picked true).length ∈ [1, 2, 4, 8] ∧
    (picked false).length ∈ [1, 2, 4, 8] ∧
    s.spawnBusy q r = none :=
  ⟨(rich.modCore 0 fun k => { k with sc := { k.sc with s := [(5, Reg.of 2 1)] } }), 0, { grd := 0, sib := 1, se := 3, sm := 5, ab := 1 },
   by decide +kernel⟩

theorem test_witness_Join : ∃ (s : State) (q : Nat) (x : LayYJoin) (b : Sibling),
    let r := q / 4 * 4 + x.sib.toNat
    (Instr.yJoin x).wf = true ∧
    s.ready q = true ∧
    (s.core (s.lead q)).readQ (s.genOf q) x.grd.toNat = true ∧
    r ≠ q ∧
    (s.seq q).sibs = [b] ∧
    b.seq = r ∧
    (s.seq r).phase = .retired ∧
    b.gangBefore.Nodup ∧
    (∀ c ∈ b.gangBefore, c ∈ (s.seq r).gang ∨ c ∈ s.gang q) :=
  ⟨joining, 0, { grd := 0, sib := 1 }, { seq := 1, gangBefore := [0, 1] },
   by decide +kernel⟩

theorem test_witness_Retire : ∃ (s : State) (q : Nat) (x : LayYNone) (y : Ctx),
    (Instr.yRetire x).wf = true ∧
    s.ready q = true ∧
    (s.core (s.lead q)).readQ (s.genOf q) x.grd.toNat = true ∧
    s.ctxOf q = some y :=
  ⟨one, 0, { grd := 0 }, programCtx,
   by decide +kernel⟩

theorem test_witness_TrapTaken : ∃ (s : State) (q : Nat) (x : LayYImm),
    let l := s.lead q
    let was := (s.core l).sp.tcause
    (Instr.yTrap x).wf = true ∧
    s.ready q = true ∧
    s.fedOut q = false ∧
    (s.core l).readQ (s.genOf q) x.grd.toNat = true ∧
    ¬ (was.getLsbD 9 = true ∧ was.getLsbD 8 = true ∧ (s.seq q).sys = true) :=
  ⟨tenant, 0, { grd := 0, imm := 0xFFFF },
   by decide +kernel⟩

theorem test_witness_NestedTrapHalts : ∃ (s : State) (q : Nat) (x : LayYImm),
    (Instr.yTrap x).wf = true ∧
    s.ready q = true ∧
    s.fedOut q = false ∧
    (s.core (s.lead q)).readQ (s.genOf q) x.grd.toNat = true ∧
    (s.core (s.lead q)).sp.tcause.getLsbD 9 = true ∧
    (s.core (s.lead q)).sp.tcause.getLsbD 8 = true ∧
    (s.seq q).sys = true ∧
    s.pfEv.ringFull = false :=
  ⟨handling 0x300, 0, { grd := 0, imm := 0xFFFF },
   by decide +kernel⟩

theorem test_witness_TrapReturn : ∃ (s : State) (q : Nat) (x : LayYNone),
    let l := s.lead q
    (Instr.yTret x).wf = true ∧
    s.ready q = true ∧
    (s.core l).readQ (s.genOf q) x.grd.toNat = true ∧
    (s.core l).sp.tcause.getLsbD 9 = true ∧
    (∀ c ∈ s.gang q, ∀ e ∈ (s.core c).pp.lq, e.held = false → e.load = none) :=
  ⟨handling 0x280, 0, { grd := 0 },
   by decide +kernel⟩

theorem test_witness_TrapReturnIdle : ∃ (s : State) (q : Nat) (x : LayYNone),
    let l := s.lead q
    (Instr.yTret x).wf = true ∧
    s.ready q = true ∧
    s.fedOut q = false ∧
    (s.core l).readQ (s.genOf q) x.grd.toNat = true ∧
    (s.core l).sp.tcause.getLsbD 9 = false :=
  ⟨one, 0, { grd := 0 },
   by decide +kernel⟩

theorem test_witness_GenerationStep : ∃ (s : State) (q v : Nat) (x : LayYNone) (y : Ctx),
    (Instr.yGeninc x).wf = true ∧
    s.ready q = true ∧
    (s.core (s.lead q)).readQ (s.genOf q) x.grd.toNat = true ∧
    (s.seq q).sys = true ∧
    s.othersOf q = false ∧
    s.ctxOf q = some y ∧
    s.nextGen = some v ∧
    v < 1024 ∧
    s.gvState y.gen.toNat ≠ 0 ∧
    s.ctxIdOf q < 2 ^ 16 :=
  ⟨{ one with gvstat := [(1, 1)] }, 0, 0, { grd := 0 }, programCtx,
   by decide +kernel⟩

theorem test_witness_GenerationStepTraps : ∃ (s : State) (q : Nat) (x : LayYNone),
    (Instr.yGeninc x).wf = true ∧
    s.ready q = true ∧
    s.fedOut q = false ∧
    (s.seq q).sys = false :=
  ⟨tenant, 0, { grd := 0 },
   by decide +kernel⟩

theorem test_witness_EventPost : ∃ (s : State) (q : Nat) (x : LayYEvt),
    let l := s.lead q
    let p := partOf (s.ctxIdOf q)
    (∀ f ∈ s.flights, ∀ cs, f.op ≠ .event cs) ∧
    (Instr.yEvt x).wf = true ∧
    s.ready q = true ∧
    (s.core l).readQ (s.genOf q) x.grd.toNat = true ∧
    (s.vf p).ringFull = false ∧
    (∀ f ∈ s.flights, f.id < s.nextId) :=
  ⟨{ one with flights := [quiet] }, 0, { grd := 0, sa := 3, code := 0xFFFF },
   (calmed (d := 0) (by decide +kernel)).2.2, by decide +kernel⟩

theorem test_witness_DebugHalt : ∃ (s : State) (q : Nat) (x : LayYImm),
    (Instr.yDbg x).wf = true ∧
    s.ready q = true ∧
    (s.core (s.lead q)).readQ (s.genOf q) x.grd.toNat = true :=
  ⟨one, 0, { grd := 0, imm := 0xFFFF },
   by decide +kernel⟩

end Tests.Witness11

namespace Tests.Worked
/-! ### Single steps and values the spec works out -/

/-- The program on core 0 alone. -/
def base : State := Tests.rich.modSeq 0 fun x => { x with gang := [0] }
/-- With two scalar registers set. -/
def withS (a b : Word) : State :=
  base.modCore 0 fun k => { k with sc := { k.sc with s := SMap.set (Reg.wiped 64) (SMap.set (Reg.wiped 64) k.sc.s 2 (Reg.of a 1)) 3 (Reg.of b 1) } }
def ran (i : Instr) (s : State) : State := Tests.after (exec i s)
/-- s1 after an instruction whose result is at once there. -/
def s1 (i : LayA → Instr) (a b : Word) : Word :=
  ((ran (i { grd := 0, d := 1, a := 2, i := 0, b := 0x0C00000000 }) (withS a b)).core 0).readS 1 1
/-- The result that waits to land after an instruction of longer latency. -/
def lands (i : LayA → Instr) (a b : Word) : List Nat :=
  ((ran (i { grd := 0, d := 1, a := 2, i := 0, b := 0x0C00000000 }) (withS a b)).core 0).pp.lq.map fun e => (e.value.setWidth 64 : Word).toNat

/-- The table of worked conversions below R87, of FP32 elements. -/
theorem test_conversions : (
    [(2, 1, Rm.rne, false, 0x3F818000, 0x3F82), (3, 1, .rne, false, 0x3F818000, 0x3F82), (1, 1, .rne, false, 0x3F818000, 0x3F81),
     (3, 3, .rne, false, 0x43E60000, 0x7E), (3, 3, .rne, false, 0x43E80000, 0x7E), (3, 3, .rne, false, 0x43EB0000, 0x7F),
     (3, 3, .rne, true, 0x43EB0000, 0x7E), (3, 3, .rz, false, 0x43EB0000, 0x7E), (3, 3, .rne, false, 0x3A800000, 0x00),
     (3, 3, .rne, false, 0x3AC00000, 0x01), (3, 2, .rne, false, 0x477FF000, 0x7C00), (3, 4, .rne, false, 0x47600000, 0x7B),
     (3, 7, .rne, false, 0xC0200000, 0xFE), (3, 7, .rd, false, 0xC0200000, 0xFD), (3, 7, .rne, false, 0x43964000, 0x7F),
     (3, 7, .rne, false, 0x7FC00000, 0x00)] : List (Nat × Nat × Rm × Bool × Nat × Nat)).all
      (fun (l, ty, rm, sat, a, r) => cvtElem l 0 ty rm sat a == r) = true := by decide +kernel
/-- The sum of two NaNs below that table, at each level. -/
theorem test_nan_by_level : [1, 2, 3].map (fun l => fpElem .add l 0 .rne false [0x7FC00001, 0x7F800005]) =
    [0x7FC00000, 0x7FC00001, 0x7FC00005] := by decide +kernel

/-- The slots that stand encoded in the tables below R103, R132, R157, R184, R204 and R222. -/
theorem test_encoded_slots : Tests.decoded ([
    (.scalar, 0x010A281800000000, .sAdd { grd := 0, d := 20, a := 20, i := 0, b := 6 * 2 ^ 34 }),
    (.scalar, 0x01038D0000000001, .sAdd { grd := 0, d := 7, a := 6, i := 1, b := 1 }),
    (.scalar, 0x1C0D918100000000, .sExt { grd := 0, d := 27, a := 8, lsb := 48, width := 16 }),
    (.scalar, 0x280C480000000002, .sLoop { grd := 0, lvl := 3, i := 0, cnt := 9 * 2 ^ 15, len := 2 }),
    (.va, 0x0402858C1A200000, .vfma .va { grd := 0, d := 10, a := 11, b := 12, c := 13, ty := 1, rm := 0, sat := 0, i := 0, fn := 0, k := 0 }),
    (.va, 0x15650A8000046020, .vcvt .va { grd := 3, d := 20, a := 21, b := 0, c := 0, ty := 0, rm := 0, sat := 1, i := 0, fn := 3, k := 2 }),
    (.matrix, 0x0100040000000000, .mMma { grd := 0, td := 0, ba := 0, bw := 1, v := 0, vr := 0, sel := 0 }),
    (.matrix, 0x1000200000000000, .mFmt { grd := 0, fb := 0, n := 2, lvl := 0 }),
    (.matrix, 0x0300000000000000, .mZero { grd := 0, t := 0 }),
    (.matrix, 0x0A00400000000000, .mSt { grd := 0, t := 0, off := 512 }),
    (.matrix, 0x1A00000000000000, .mWait { grd := 0, t := 0 }),
    (.load, 0x0108B50000000000, .lS { grd := 0, d := 17, an := 6, sz := 5, fq := 0, off := 0 }),
    (.load, 0x0800180000000000, .lScl { grd := 0, an := 3, off := 0 }),
    (.load, 0x1006700000000040, .lAadd { grd := 0, ad := 3, an := 3, i := 1, b := 64 }),
    (.copy, 0x040300000000, .cShp { grd := 0, hd := 0, sa := 24 }),
    (.copy, 0x0C0840010000, .cRing { grd := 0, b := 1, base := 256, size := 256 }),
    (.copy, 0x084040000000, .cGo { grd := 0, tl := 0, dk := 1, dst := 0, src := 1, hs := 0 }),
    (.copy, 0x084484000000, .cGo { grd := 0, tl := 0, dk := 1, dst := 1, src := 2, hs := 1 }),
    (.copy, 0x081148004000, .cGo { grd := 0, tl := 1, dk := 0, dst := 4, src := 5, hs := 2 }),
    (.sync, 0x040009A00000, .yTlwait { grd := 0, tl := 1, sa := 13 }),
    (.sync, 0x0C1A00200000, .yTlread { grd := 0, sd := 13, tl := 1 }),
    (.sync, 0x441800000000, .yDrain { grd := 0, scope := 3 }),
    (.sync, 0x880000000000, .yRetire { grd := 0 })] : List (Slot × Nat × Instr)) = true := by decide +kernel

/-- `s.li s4, 0x80000000` and then `s.lih s4, 0xFFFF0000` (R109). -/
theorem test_sLi_sLih :
    let s := ran (.sLi { grd := 0, d := 4, imm := 0x80000000 }) base
    ((ran (.sLih { grd := 0, d := 4, imm := 0xFFFF0000 }) s).core 0).readS 1 4 = 0xFFFF000080000000 := by decide +kernel
/-- R105 at a divisor of zero and at the most negative dividend. -/
theorem test_sDiv_zero : lands .sDiv 7 0 = [2 ^ 64 - 1] := by decide +kernel
theorem test_sDiv_least : lands .sDiv (-(2 ^ 63)) (-1) = [2 ^ 63] := by decide +kernel
theorem test_sDiv_truncates : lands .sDiv (-7) 2 = [2 ^ 64 - 3] := by decide +kernel
theorem test_sRem_zero : lands .sRem 7 0 = [7] := by decide +kernel
theorem test_sRem_sign : lands .sRem (-7) 2 = [2 ^ 64 - 1] := by decide +kernel
theorem test_sDivz_zero : lands .sDivz 7 0 = [2 ^ 64 - 1] := by decide +kernel
theorem test_sMulh_signs : lands .sMulh (-1) 2 = [2 ^ 64 - 1] := by decide +kernel
theorem test_sMulhz : lands .sMulhz (-1) 2 = [1] := by decide +kernel
/-- R104 at amounts of 64, at a negative amount, and at the ends of a word. -/
theorem test_sShl_64 : s1 .sShl 1 64 = 0 := by decide +kernel
theorem test_sShr_negative : s1 .sShr (-1) (-1) = 0 := by decide +kernel
theorem test_sSra_64 : s1 .sSra (-5) 64 = -1 := by decide +kernel
theorem test_sRot_65 : s1 .sRot 0x8000000000000001 65 = 3 := by decide +kernel
theorem test_sClz_zero : s1 .sClz 0 0 = 64 := by decide +kernel
theorem test_sCtz_high : s1 .sCtz 0x8000000000000000 0 = 63 := by decide +kernel
theorem test_sAdd_wraps : s1 .sAdd (-1) 2 = 1 := by decide +kernel
theorem test_sMin_signs : s1 .sMin (-1) 1 = -1 := by decide +kernel
theorem test_sMinz : s1 .sMinz (-1) 1 = 1 := by decide +kernel
/-- R110: a field of 64 bits, and an insertion at the top. -/
theorem test_sExt_whole : ((ran (.sExt { grd := 0, d := 1, a := 2, lsb := 0, width := 64 }) (withS (-3) 0)).core 0).readS 1 1 = -3 := by decide +kernel
theorem test_sIns_top : ((ran (.sIns { grd := 0, d := 3, a := 2, lsb := 60, width := 4 }) (withS 0xFA 0x10)).core 0).readS 1 3 =
    0xA000000000000010 := by decide +kernel
/-- R111: a branch of −1 bundle. -/
theorem test_sBr_back : ((ran (.sBr { grd := 0, off := -1 }) base).seq 0).pc = 0xFFFFFFC0 := by decide +kernel
end Tests.Worked

end Sys2Proof
end

section
/-! ## Bundles and their headers (R37 to R66)

What a fetched bundle does in a cycle of its sequencer, the entry of a trap that the whole bundle raises, and the header conditions of the
decoder. -/

namespace Sys2Proof.Machine

/-! ### Changes of cores -/

namespace State

theorem modCores_congr {f g : Nat → Core → Core} {cs : List Nat} (h : ∀ c ∈ cs, f c = g c) (s : State) :
    s.modCores f cs = s.modCores g cs := by
  induction cs generalizing s with
  | nil => rfl
  | cons c r ih => rw [modCores, modCores, h c (by simp), ih fun d hd => h d (by simp [hd])]

/-- A change that is the same when made twice acts once on each core of a list, however often the list names it. -/
theorem core_modCores_idem {f : Nat → Core → Core} (hf : ∀ c k, f c (f c k) = f c k) (s : State) (cs : List Nat) (c : Nat) :
    (s.modCores f cs).core c = if c ∈ cs then f c (s.core c) else s.core c := by
  induction cs generalizing s with
  | nil => rfl
  | cons d r ih =>
    rw [modCores, ih, core_modCore]
    by_cases hd : c = d
    · subst hd; simp [hf]
    · simp [hd]

/-! ### What a fetch leaves alone (R398) -/

variable (s : State)

theorem tlbFill_eq (asid d va : Nat) : s.tlbFill asid d va = { s with dies := (s.tlbFill asid d va).dies } := by
  unfold tlbFill
  split
  · dsimp only; split <;> rfl
  · rfl

/-- A fetch changes the TLB and the instruction cache of a die and nothing else. -/
theorem fetchFill_eq (q : Nat) : s.fetchFill q = { s with dies := (s.fetchFill q).dies } := by
  unfold fetchFill
  dsimp only
  split
  · split
    · split
      · rw [tlbFill_eq]
      · rw [tlbFill_eq]; rfl
    · rfl
  · rfl

theorem fetchFill_frame (q : Nat) :
    (s.fetchFill q).seqs = s.seqs ∧ (s.fetchFill q).cores = s.cores ∧ (s.fetchFill q).flights = s.flights ∧
    (s.fetchFill q).nextId = s.nextId := by
  rw [fetchFill_eq]; exact ⟨rfl, rfl, rfl, rfl⟩

@[simp] theorem fetchFill_flights (q : Nat) : (s.fetchFill q).flights = s.flights := (s.fetchFill_frame q).2.2.1
@[simp] theorem fetchFill_nextId (q : Nat) : (s.fetchFill q).nextId = s.nextId := (s.fetchFill_frame q).2.2.2
@[simp] theorem fetchFill_seq (q r : Nat) : (s.fetchFill q).seq r = s.seq r := by simp [seq, fetchFill_frame]
@[simp] theorem fetchFill_core (q c : Nat) : (s.fetchFill q).core c = s.core c := by simp [core, fetchFill_frame]
@[simp] theorem fetchFill_gang (q r : Nat) : (s.fetchFill q).gang r = s.gang r := by simp [gang]
@[simp] theorem fetchFill_lead (q r : Nat) : (s.fetchFill q).lead r = s.lead r := by simp [lead]
@[simp] theorem fetchFill_acting (q r : Nat) : (s.fetchFill q).acting r = s.acting r := by simp [acting]
@[simp] theorem fetchFill_fedOut (q r : Nat) : (s.fetchFill q).fedOut r = s.fedOut r := by simp [fedOut]

/-! ### The cycle of a bundle at issue (R57, R66) -/

/-- A cycle of a sequencer at issue runs the fetched bundle, and then its TLB, its waits and the free write paths follow. -/
theorem exec_issueBundle_atIssue {s u : State} {q w : Nat} (h : Claims.AtIssue { s with focus := q } u q w) :
    exec (.issueBundle q) s = .next (Claims.afterIssue q u ((u.fetchFill q).issueWord q w)) := by
  have hrun : u.runCheck q = u := by simp [runCheck, h.run]
  have hhalt : u.haltDue q = false := h.quiet.elim (fun hr => by simp [haltDue, hr]) fun hq => hq.2.1
  have hlate : u.lineLate q = false := h.quiet.elim (fun hr => by simp [lineLate, hr]) fun hq => hq.2.2
  have hdue : (u.seq q).released = false → u.asyncDue q = none :=
    fun hr => h.quiet.elim (fun hr' => by simp [hr'] at hr) fun hq => hq.1
  have hnow : u.issueNow q =
      let v := (u.fetchFill q).issueWord q w
      { v.dataFill u.nextId q with free := v.free + 1 } := by
    have herr : u.fetchErrors q = u := by simp [fetchErrors, h.errors]
    simp only [issueNow, herr, h.fetch]
  have hat : u.phaseStep q = (u.issueNow q).timeCheck q := by
    unfold phaseStep atIssue
    simp only [h.phase, hrun, hhalt, hlate, List.isEmpty_iff, h.gang, Bool.false_eq_true, if_false]
    cases hr : (u.seq q).released with
    | true => rfl
    | false => simp [hdue hr]
  have hcyc : ({ s with focus := q } : State).cycle q = (u.phaseStep q).writeReady ((u.phaseStep q).allCores q) := by
    simp [cycle, Nat.not_le.2 h.seq, h.present, ← h.now]
  change Host.Outcome.next (({ s with focus := q } : State).cycle q) = _
  rw [hcyc, hat, hnow]
  rfl

end State

/-! ### A trap that every core of the gang records (R238, R241, R350) -/

/-- A core in a trap: TPC and TCAUSE are written, the queued results are held, and what the bundle had in hand is dropped (R238, R241). -/
def Core.inTrap (k : Core) (tpc tcause : Word) : Core :=
  { k with sp := { k.sp with tpc := tpc, tcause := tcause },
           pp := { k.pp with lq := k.pp.lq.map (fun e => { e with held := true }), fresh := [], post := [], waitCnt := 0, fed := [] } }

theorem Core.inTrap_idem (k : Core) (a b : Word) : (k.inTrap a b).inTrap a b = k.inTrap a b := by
  simp [Core.inTrap]

/-- A sequencer on its way to a trap vector (R240). -/
def Seq.toVector (x : Seq) (sys : Bool) (vec : Word) : Seq :=
  { x with sys := sys, pc := vec, phase := .bubble 2, xfer := none, post := [], whl := none, lineUp := false, released := false,
           reserved := [], mword := none }

theorem lineAddr_eq (w : Word) : lineAddr w = BitVec.ofNat 64 (w.toNat / 64 * 64) := by
  have hmask : ~~~63#64 = BitVec.allOnes 64 <<< 6 := by decide
  have hshift : w &&& (BitVec.allOnes 64 <<< 6) = w >>> 6 <<< 6 := by
    ext i hi
    by_cases h6 : i < 6
    · simp only [BitVec.getElem_and, BitVec.getElem_shiftLeft, h6, decide_true, Bool.not_true, Bool.false_and, Bool.and_false]
    · simp only [BitVec.getElem_and, BitVec.getElem_shiftLeft, h6, decide_false, Bool.not_false, Bool.true_and,
        BitVec.getElem_ushiftRight, BitVec.getElem_allOnes, Bool.and_true, Nat.add_sub_cancel' (Nat.not_lt.1 h6),
        BitVec.getLsbD_eq_getElem hi]
  rw [lineAddr, hmask, hshift, ← BitVec.toNat_inj]
  simp [Nat.shiftRight_eq_div_pow, Nat.shiftLeft_eq]

namespace State

variable (s : State) (q : Nat)

/-- The cores of a gang and their shadows record the causes of cores of the gang. -/
theorem primaryIn_mem_gang {c : Nat} (hc : c ∈ s.allCores q) : primaryIn (s.gang q) c ∈ s.gang q := by
  unfold primaryIn
  by_cases hg : c ∈ s.gang q
  · simp [hg]
  · have hs : ∃ d ∈ s.gang q, d + 16 = c := by
      unfold allCores at hc
      split at hc
      · simpa [hg, shadowCore] using hc
      · exact absurd hc hg
    obtain ⟨d, hd, rfl⟩ := hs
    simp [hg, hd]

theorem find_everyCore (cause slot : Nat) {p : Nat} (hp : p ∈ s.gang q) :
    (s.everyCore q cause slot).find? (fun r => r.core == p) = some { core := p, slot := slot, cause := cause, info := 0 } := by
  have hf : (s.gang q).find? (fun c => c == p) = some p := by
    have hsome : ((s.gang q).find? fun c => c == p).isSome := List.find?_isSome.2 ⟨p, hp, beq_self_eq_true p⟩
    obtain ⟨c, hc⟩ := Option.isSome_iff_exists.1 hsome
    have hcp : c = p := by simpa using List.find?_some hc
    rw [hc, hcp]
  rw [everyCore, List.find?_map]
  simp only [Function.comp_def, hf, Option.map_some]

/-- The mode after the entry of a trap (R237, R240). -/
def trapSys (cause : Nat) : Bool :=
  (s.seq q).sys || s.acting q || !tenantCause cause || ((s.ctxOf q).bind fun c => c.image.handler).isNone

/-- The vector of a trap taken in a mode (R237). -/
def trapVector (sys : Bool) : Word :=
  if sys then s.sysvec (dieOfSeq q) else lineAddr (((s.ctxOf q).bind fun c => c.image.handler).getD 0)

/-- TCAUSE of a trap that every core of the gang raises (R241). -/
def trapTcause (cause slot : Nat) : Word :=
  tcauseWord 0 slot (s.core (s.lead q)).sp.crank true (s.acting q) (s.seq q).sys cause

/-- A trap now stops the sequencer: a nested handler is active, in system mode (R240). -/
def stopsAtTrap : Prop := s.acting q = true ∧ tcNest (s.core (s.lead q)).sp.tcause = true ∧ (s.seq q).sys = true

section

variable {s q}

theorem lead_mem_gang (hg : s.gang q ≠ []) : s.lead q ∈ s.gang q := by
  obtain ⟨c, r, hc⟩ := List.exists_cons_of_ne_nil hg
  have hl : s.lead q = c := by simp only [gang] at hc; simp [lead, hc]
  simp [hc, hl]

variable (hg : s.gang q ≠ []) (hn : ¬ s.stopsAtTrap q) (cause slot : Nat) (tpc : Word)
include hg hn

/-- The entry of a trap that every core of the gang raises, where it does not stop the sequencer. -/
theorem trapEntry_everyCore :
    s.trapEntry q (s.everyCore q cause slot) tpc =
      (s.modCores (fun _ k => k.inTrap (lineAddr tpc) (s.trapTcause q cause slot)) (s.allCores q)).modSeq q
        fun x => x.toVector (s.trapSys q cause) (s.trapVector q (s.trapSys q cause)) := by
  have hlead := s.find_everyCore q cause slot (lead_mem_gang hg)
  have hfrm : ((s.seq q).gang.filter fun c => (s.everyCore q cause slot).any fun r => r.core == c).headD (s.lead q) = s.lead q := by
    have hall : (s.seq q).gang.filter (fun c => (s.everyCore q cause slot).any fun r => r.core == c) = (s.seq q).gang :=
      List.filter_eq_self.2 fun c hc => List.any_eq_true.2
        ⟨_, List.mem_of_find?_eq_some (s.find_everyCore q cause slot hc), beq_self_eq_true c⟩
    rw [hall]
    cases h : (s.seq q).gang <;> simp [lead, h]
  have hnest : (tcAct (s.core (s.lead q)).sp.tcause && tcNest (s.core (s.lead q)).sp.tcause && (s.seq q).sys) = false := by
    simpa [stopsAtTrap, acting] using hn
  unfold trapEntry
  simp only [hfrm, hnest, hlead, Bool.false_eq_true, if_false]
  rw [modCores_congr (g := fun _ k => k.inTrap (lineAddr tpc) (s.trapTcause q cause slot))]
  · rfl
  · intro c hc
    have hp := s.find_everyCore q cause slot (s.primaryIn_mem_gang q hc)
    simp only [gang] at hp
    simp only [hp]
    rfl

theorem core_trapEntry_everyCore (c : Nat) :
    (s.trapEntry q (s.everyCore q cause slot) tpc).core c =
      if c ∈ s.allCores q then (s.core c).inTrap (lineAddr tpc) (s.trapTcause q cause slot) else s.core c := by
  rw [trapEntry_everyCore hg hn]
  exact core_modCores_idem (fun _ k => k.inTrap_idem ..) s (s.allCores q) c

theorem seq_trapEntry_everyCore (r : Nat) :
    (s.trapEntry q (s.everyCore q cause slot) tpc).seq r =
      if r = q then (s.seq q).toVector (s.trapSys q cause) (s.trapVector q (s.trapSys q cause)) else s.seq r := by
  rw [trapEntry_everyCore hg hn, seq_modSeq]
  simp [seq]

theorem trapEntry_everyCore_rest :
    s.trapEntry q (s.everyCore q cause slot) tpc =
      { s with cores := (s.trapEntry q (s.everyCore q cause slot) tpc).cores,
               seqs := (s.trapEntry q (s.everyCore q cause slot) tpc).seqs } := by
  rw [trapEntry_everyCore hg hn, modCores_eq]; rfl

theorem trapEntry_everyCore_frame :
    (s.trapEntry q (s.everyCore q cause slot) tpc).flights = s.flights ∧
      (s.trapEntry q (s.everyCore q cause slot) tpc).nextId = s.nextId := by
  rw [trapEntry_everyCore hg hn, modCores_eq]; exact ⟨rfl, rfl⟩

/-- The entry of a trap that every core of the gang raises, in the terms of the claims. -/
theorem trapped_everyCore :
    Claims.Trapped s (s.trapEntry q (s.everyCore q cause slot) (s.seq q).pc) q (s.lead q) (tenantCause cause) (fun _ => cause)
      fun _ => slot := by
  have hcore := core_trapEntry_everyCore hg hn cause slot (s.seq q).pc
  have hseq := seq_trapEntry_everyCore hg hn cause slot (s.seq q).pc
  constructor
  case rest => exact trapEntry_everyCore_rest hg hn ..
  case seqs => intro r hr; simp [hseq, hr]
  case others => intro c hc; simp [hcore, hc]
  case sys => simp [hseq, Seq.toVector, trapSys]
  case seq => simp [hseq, Seq.toVector, trapVector, sysvec]
  case cores =>
    intro c hc
    simp [hcore, hc, Core.inTrap, lineAddr_eq, trapTcause, tcauseWord]

end

end State

/-- A sequencer that has taken the trap of BRK at a PC (R243). -/
def Seq.markBreak (x : Seq) (pc : Word) : Seq := { x with brkAt := some pc }

namespace State

/-! ### A bundle that leaves issue (R66, R195) -/

/-- With no request at a peer bank, a cause of the whole bundle is the entry of its trap at the bundle's PC. -/
theorem bundleTrap_eq {s : State} {q : Nat} (hf : s.fedOut q = false) (cause slot : Nat) :
    s.bundleTrap q cause slot = s.trapEntry q (s.everyCore q cause slot) (s.seq q).pc := by
  have hfed : (s.gang q).flatMap (fun c => (s.core c).pp.fed.map Prod.snd) = [] := by
    simp only [List.flatMap_eq_nil_iff, List.map_eq_nil_iff]
    intro c hc
    simpa using List.any_eq_false.1 hf c hc
  have hkept : (s.flights.filter fun f => !([] : List Nat).contains f.id) = s.flights := by
    rw [List.filter_eq_self]; intro f _; rfl
  unfold bundleTrap depart leaveWith
  simp only [hf, Bool.false_eq_true, if_false, hfed, hkept]

/-- What follows in the cycle of a bundle that has left issue with no access and no result that waits for a path. -/
theorem afterIssue_of_left {u v : State} {q : Nat} (hid : v.nextId = u.nextId) (hp : (v.seq q).phase ≠ .run)
    (hr : ∀ f ∈ v.flights, f.ready = false) : Claims.afterIssue q u v = { v with free := v.free + 1 } := by
  have hcheck : ({ v with free := v.free + 1 } : State).timeCheck q = { v with free := v.free + 1 } := by
    have hp' : (({ v with free := v.free + 1 } : State).seq q).phase ≠ .run := hp
    simp [timeCheck, timeTrap, hp']
  have hready : ∀ cs, ({ v with free := v.free + 1 } : State).writeReady cs = { v with free := v.free + 1 } := by
    intro cs
    have hnone : (v.flights.filter fun f => f.ready && cs.contains f.core) = [] := by
      rw [List.filter_eq_nil_iff]; intro f hf; simp [hr f hf]
    simp only [writeReady, hnone, List.foldl_nil]
  have hfill : v.dataFill u.nextId q = v := if_pos hid
  simp only [Claims.afterIssue, hfill, hcheck, hready]

/-! ### Breakpoints (R45, R243) -/

/-- BRK set, and no trap return to the PC just now: the trap is taken before the bundle is decoded. -/
theorem issueWord_break {s : State} {q w : Nat} (hb : (Header.ofWord (w % 2 ^ 32)).brk = 1)
    (hs : (s.seq q).brkSkip ≠ some (s.seq q).pc) :
    s.issueWord q w = (s.bundleTrap q cBRK 8).modSeq q fun y => y.markBreak (s.seq q).pc := by
  have hc : ((Header.ofWord (w % 2 ^ 32)).brk == 1 && (s.seq q).brkSkip != some (s.seq q).pc) = true := by
    rw [hb, bne_iff_ne.2 hs]; rfl
  exact if_pos hc

/-- At the PC that a trap return gave, a bundle that decodes issues whatever its BRK. -/
theorem issueWord_skip {s : State} {q w : Nat} {b : Bundle} (hs : (s.seq q).brkSkip = some (s.seq q).pc)
    (hd : decodeBundle w = .ok b) : s.issueWord q w = s.issueOps q b.hdr (semsOf b) (earlyOf b) := by
  simp [issueWord, hs, hd]

/-- The issue of a bundle does not read BRK of its header. -/
theorem issueOps_brk (s : State) (q : Nat) (h : Header) (x : BitVec 1) (ms : List Sem) (early : Early) :
    s.issueOps q { h with brk := x } ms early = s.issueOps q h ms early := by
  have hstand : s.standAt q { h with brk := x } = s.standAt q h := rfl
  have hraise : ∀ t : State, t.headerRaise q { h with brk := x } = t.headerRaise q h := fun _ => rfl
  have hend : ∀ t r : State, t.endBundle r q { h with brk := x } = t.endBundle r q h := fun _ _ => rfl
  unfold issueOps
  simp only [hstand, hraise, hend]

end State

end Sys2Proof.Machine

/-! ### The header conditions (R44) -/

namespace Sys2Proof

open Machine

/-- A field of the header's 32 bits is the same field of the bundle word. -/
theorem fld_mod (w : Nat) {lo n : Nat} (h : lo + n ≤ 32) : fld (w % 2 ^ 32) lo n = fld w lo n := by
  refine BitVec.eq_of_getLsbD_eq fun i hi => ?_
  have hlt : i + lo < 32 := by omega
  simp only [fld, BitVec.getLsbD_ofNat, Nat.testBit_div_two_pow, Nat.testBit_mod_two_pow, hlt, decide_true, Bool.true_and]

theorem Header.ofWord_mod (w : Nat) : Header.ofWord (w % 2 ^ 32) = Header.ofWord w := by
  simp +decide only [Header.ofWord, fld_mod]

theorem toNat_fld (w lo n : Nat) : (fld w lo n).toNat = w / 2 ^ lo % 2 ^ n := by
  simp [fld]

theorem fld_one_iff (w lo : Nat) : fld w lo 1 = 1 ↔ w / 2 ^ lo % 2 = 1 := by
  rw [← BitVec.toNat_inj, toNat_fld]; rfl

theorem fld_zero_iff (w lo n : Nat) : fld w lo n = 0 ↔ w / 2 ^ lo % 2 ^ n = 0 := by
  rw [← BitVec.toNat_inj, toNat_fld]; rfl

/-- The conditions of a header word in terms of its bits (R44). -/
theorem Header.ok_ofWord (w : Nat) :
    (Header.ofWord w).ok = true ↔
      ¬ ((w / 2 ^ 17 % 2 = 1 ∧ w / 2 ^ 20 % 2 = 1) ∨ (w / 2 ^ 17 % 2 = 1 ∧ w / 2 ^ 22 % 2 ^ 10 = 0) ∨
        (w / 2 ^ 22 % 2 ^ 10 ≠ 0 ∧ w / 2 ^ 17 % 2 = 0 ∧ w / 2 ^ 20 % 2 = 0)) := by
  simp only [Header.ok, Header.ofWord, Bool.and_eq_true, Bool.or_eq_true, Bool.not_eq_true', beq_iff_eq, Bool.and_eq_false_iff,
    beq_eq_false_iff_ne, fld_one_iff, fld_zero_iff, ne_eq]
  omega

/-- A bundle whose header breaks a condition of R44 does not decode. -/
theorem decodeBundle_badHeader {w : Nat} (h : (Header.ofWord w).ok = false) : ∃ e, decodeBundle w = .error e := by
  unfold decodeBundle
  simp only [Header.ofWord_mod, h]
  split
  · exact ⟨_, rfl⟩
  · exact ⟨_, rfl⟩

/-- The slots of a word with nothing above its header hold no operation. -/
theorem decodeSlots_headerOnly {w : Nat} (hw : w < 2 ^ 32) (l : List Slot) : decodeSlots w l = .ok [] := by
  induction l with
  | nil => rfl
  | cons x r ih =>
    have hz : w / 2 ^ x.lo = 0 := by
      have hlo : 32 ≤ x.lo := by cases x <;> decide
      exact Nat.div_eq_of_lt (Nat.lt_of_lt_of_le hw (Nat.pow_le_pow_right (by decide) hlo))
    simp [decodeSlots, decodeSlot, hz, ih]

/-- A legal header with no port allotted is a bundle without operations. -/
theorem decodeBundle_headerOnly {w : Nat} (hw : w < 2 ^ 32) (hp : w % 2 ^ 17 = 0) (h : (Header.ofWord w).ok = true) :
    decodeBundle w = .ok { hdr := Header.ofWord w, ops := [] } := by
  have hports : portsOk (Header.ofWord w) [] = true := by
    have hvpa : w / 2 ^ 0 % 2 ^ 8 = 0 := by omega
    have hspa : w / 2 ^ 8 % 2 ^ 9 = 0 := by omega
    simp only [portsOk, Header.ofWord, toNat_fld, hvpa, hspa]
    rfl
  simp only [decodeBundle, Header.ofWord_mod, decodeSlots_headerOnly hw, h, hports, Bool.not_true, Bool.false_eq_true, if_false]

/-! ### The settled statement -/

theorem headerRules : Claims.HeaderRules := by
  intro w
  exact ⟨fun hbad => decodeBundle_badHeader (Bool.eq_false_iff.2 fun hok => (Header.ok_ofWord w).1 hok hbad),
    fun hgood hw hp => decodeBundle_headerOnly hw hp ((Header.ok_ofWord w).2 hgood)⟩

/-- A bundle with BRK at issue takes the trap of its sequencer (R45). -/
theorem breakpoint_traps {s u : State} {q w : Nat} (h : Claims.AtIssue { s with focus := q } u q w) (hb : w / 2 ^ 21 % 2 = 1)
    (hs : (u.seq q).brkSkip ≠ some (u.seq q).pc) (hf : u.fedOut q = false) (hr : ∀ f ∈ u.flights, f.ready = false)
    (hn : ¬ u.stopsAtTrap q) :
    let v := u.fetchFill q
    let t := (v.trapEntry q (v.everyCore q cBRK 8) (v.seq q).pc).modSeq q fun y => y.markBreak (v.seq q).pc
    exec (.issueBundle q) s = .next { t with free := t.free + 1 } := by
  intro v t
  have hbrk : (Header.ofWord (w % 2 ^ 32)).brk = 1 := by
    rw [Header.ofWord_mod]; exact (fld_one_iff w 21).2 hb
  have hword : v.issueWord q w = t := by
    rw [State.issueWord_break hbrk (by simpa [v] using hs), State.bundleTrap_eq (by simpa [v] using hf)]
  have hg : v.gang q ≠ [] := by simpa [v] using h.gang
  have hn' : ¬ v.stopsAtTrap q := by simpa [v, State.stopsAtTrap] using hn
  obtain ⟨hflights, hid⟩ : t.flights = v.flights ∧ t.nextId = v.nextId :=
    State.trapEntry_everyCore_frame hg hn' cBRK 8 (v.seq q).pc
  have hphase : (t.seq q).phase = .bubble 2 := by
    simp [t, Seq.markBreak, State.seq_trapEntry_everyCore hg hn', Seq.toVector]
  rw [State.exec_issueBundle_atIssue h, hword, State.afterIssue_of_left]
  · simp [hid, v]
  · simp [hphase]
  · simpa [hflights, v] using hr

theorem breakpoints : Claims.Breakpoints := by
  intro s u q w h hb pc v
  have hseq : v.seq q = u.seq q := State.fetchFill_seq ..
  constructor
  · intro hs _ hf hr hn
    have hg : v.gang q ≠ [] := by simpa [v] using h.gang
    have hn' : ¬ v.stopsAtTrap q := by simpa [v, State.stopsAtTrap] using hn
    have htrap := State.trapped_everyCore hg hn' cBRK 8
    rw [State.fetchFill_lead] at htrap
    have hmark := State.seq_modSeq (v.trapEntry q (v.everyCore q cBRK 8) (v.seq q).pc) q
    refine ⟨_, breakpoint_traps h hb hs hf hr hn, _, htrap, fun p => ?_, rfl⟩
    exact (hmark p fun y => y.markBreak (v.seq q).pc).trans (by rw [hseq]; rfl)
  · intro b hs hd
    rw [State.exec_issueBundle_atIssue h, State.issueWord_skip (by simpa using hs) hd, State.issueOps_brk]
    rfl

/-- Settles O54: the decoder checks the header's bits, and a bundle at issue with BRK takes the trap of cause 18 on every core, unless a trap
return gave its PC; its issue then does not read BRK. -/
theorem headerAttributes : Obligations.HeaderAttributes := ⟨headerRules, breakpoints⟩

end Sys2Proof
end

section
/-! ## Scalar results (R104 to R110, R119, R122, R123)

An operation of the scalar slot gives each core whose guard reads 1 one result over path S: at once where its latency is 1, through the
landing queue where it is longer. -/

namespace Sys2Proof.Machine

/-! ### Committed registers (R47, R51, R55) -/

/-- A register reads, under the generation that wrote it, what was written. -/
@[simp] theorem Reg.read_of {n : Nat} (v : BitVec n) (g : Gen) : (Reg.of v g).read g = v := by
  simp [Reg.read, Reg.of, Tag.is, Tag.of]

/-- The result of a scalar operation, as it joins the results of its bundle (R59). -/
def scalarEntry (g : Gen) (d : Nat) (v : Word) (L : Nat) : LqEntry :=
  landed .s .s d g (BitVec.allOnes 128) (v.setWidth 2048) L

/-- A scalar result that commits over path S: s(d) takes it unless d is 0, and the last-result file shifts. -/
theorem Core.commit_scalarEntry (k : Core) (g : Gen) (d : Nat) (v : Word) (L : Nat) :
    k.commit g (scalarEntry g d v L) =
      let sc := if d = 0 then k.sc else { k.sc with s := SMap.set (Reg.wiped 64) k.sc.s d (Reg.of v g) }
      { k with sc := sc.shift v g } := by
  have hv : (v.setWidth 2048).setWidth 64 = v := BitVec.setWidth_setWidth_of_le v (by decide)
  simp only [Core.commit, scalarEntry, landed, hv, if_true]

/-- A committed scalar result is written as the claims say. -/
theorem Core.wroteS_commit (k : Core) (g : Gen) (d : Nat) (v : Word) (L : Nat) :
    Claims.wroteS k { k.commit g (scalarEntry g d v L) with pp := k.pp.settled [] [.s] } g d v := by
  rw [Core.commit_scalarEntry]
  refine ⟨rfl, ?_, fun r hr => ?_, ?_, ?_⟩
  · simp only [ScalarRegs.shift]; split <;> rfl
  · by_cases hd : d = 0
    · simp [Core.readS, ScalarRegs.shift, hd, hr]
    · by_cases hrd : r = d
      · subst hrd; simp [Core.readS, ScalarRegs.shift, hd, hr]
      · simp [Core.readS, ScalarRegs.shift, hd, hrd, hr, SMap.get_set_ne]
  · simp [Core.readS, ScalarRegs.shift]
  · simp [Core.readS, ScalarRegs.shift, SMap.get_set_ne, apply_ite ScalarRegs.ls]

/-- The result of a comparison, as it joins the results of its bundle (R59, R107). -/
def guardEntry (g : Gen) (d : Nat) (b : Bool) : LqEntry := landed .s .q d g (BitVec.allOnes 128) (if b then 1 else 0) 1

/-- A guard that commits: q(d) takes the bit unless d is 0, and no last-result file shifts. -/
theorem Core.commit_guardEntry (k : Core) (g : Gen) (d : Nat) (b : Bool) :
    k.commit g (guardEntry g d b) =
      { k with sc := { k.sc with q := if d = 0 then k.sc.q else SMap.set (Reg.wiped 1) k.sc.q d (Reg.of (if b then 1 else 0) g) } } := by
  have hb : (if b then (1 : VWord) else 0).setWidth 1 = if b then 1 else 0 := by
    cases b
    · exact BitVec.setWidth_zero ..
    · exact BitVec.setWidth_ofNat_one_eq_ofNat_one_of_lt (by decide)
  by_cases hd : d = 0
  · rw [if_pos hd]; exact if_pos hd
  · rw [if_neg hd, ← hb]; exact if_neg hd

/-- A guard reads the bit committed to it, and q0 reads 1 whatever is committed. -/
theorem Core.readQ_commit_guardEntry (k : Core) (g : Gen) (d : Nat) (b : Bool) (n : Nat) :
    (k.commit g (guardEntry g d b)).readQ g n = if n = d ∧ n ≠ 0 then b else k.readQ g n := by
  rw [Core.commit_guardEntry]
  by_cases hd : d = 0
  · simp [Core.readQ, hd]
  · by_cases hn : n = d
    · subst hn; cases b <;> simp [Core.readQ, hd]
    · simp [Core.readQ, hd, hn, SMap.get_set_ne]

/-! ### One scalar result on each core whose guard reads 1 -/

/-- An operation whose whole effect is a scalar result of latency L on each core whose guard reads 1: `v c` for s(d) of core c. -/
structure LandsS (m : Sem) (s : State) (q : Nat) (grd : BitVec 3) (d L : Nat) (v : Nat → Word) : Prop where
  simple : m.Simple
  cls : m.cls = .core
  guard : m.grd = grd
  act : ∀ c k, m.act s q c k = k.landS (s.genOf q) .s d (v c) L

/-- An operation of the scalar slot that gives nothing but what a core does to itself names no other part. -/
theorem Sem.simple_of_act (grd : BitVec 3) (names : State → Nat → Nat → List Dest) (act : State → Nat → Nat → Core → Core) :
    Sem.Simple { slot := 0, grd := grd, names := names, act := act } :=
  ⟨rfl, rfl, rfl, rfl, rfl, rfl, rfl, rfl, rfl, rfl⟩

/-- An operation of the scalar slot by what a core does to itself. -/
theorem landsS_of_act {grd : BitVec 3} {names : State → Nat → Nat → List Dest} {act : State → Nat → Nat → Core → Core} {s : State}
    {q d L : Nat} {v : Nat → Word} (h : ∀ c k, act s q c k = k.landS (s.genOf q) .s d (v c) L) :
    LandsS { slot := 0, grd := grd, names := names, act := act } s q grd d L v :=
  ⟨Sem.simple_of_act .., rfl, rfl, h⟩

/-- An operation of a core acts where its guard reads 1 and the core is not idle (R40, R116). -/
theorem Sem.on_core {m : Sem} (h : m.cls = .core) (s : State) (q c : Nat) : m.on s q c = s.guarded q c m.grd := by
  simp only [Sem.on, h, State.guarded]

section
variable {s : State} {q : Nat} {m : Sem} {grd : BitVec 3} {d L : Nat} {v : Nat → Word}

/-- The bundle of one scalar result, for which every core of the gang has room. -/
theorem LandsS.exec (h : LandsS m s q grd d L v) (hr : Ready s q) (i : Instr) (hL : 1 ≤ L)
    (hroom : ∀ c ∈ s.gang q, (s.core c).roomFor .s .s d L = true) :
    ∃ t, s.runOne i m noEarly = .next t ∧ s.Plain t q ∧ ∀ c ∈ s.gang q, t.core c =
      if s.guarded q c grd then
        let e := scalarEntry (s.genOf q) d (v c) L
        if L = 1 then { (s.core c).commit (s.genOf q) e with pp := (s.core c).pp.settled [] [.s] }
        else { s.core c with pp := (s.core c).pp.settled [e] }
      else (s.core c).idled := by
  obtain ⟨t, ht, hplain, hcore⟩ := State.exec_land hr i h.simple (index := fun _ => d) (value := fun c => (v c).setWidth 2048) hL
    (fun c => h.act c _) (fun c hc _ => hroom c hc) (early := noEarly) rfl
  refine ⟨t, ht, hplain, fun c hc => ?_⟩
  rw [hcore c hc, Sem.on_core h.cls, h.guard]
  rfl

/-- A result of latency 1 is written in its own cycle. -/
theorem LandsS.exec_quick (h : LandsS m s q grd d 1 v) (hr : Ready s q) (i : Instr) :
    ∃ t, s.runOne i m noEarly = .next t ∧ s.Plain t q ∧ ∀ c ∈ s.gang q,
      if s.guarded q c grd then Claims.wroteS (s.core c) (t.core c) (s.genOf q) d (v c) else t.core c = (s.core c).idled := by
  obtain ⟨t, ht, hplain, hcore⟩ := h.exec hr i (by decide) fun c _ => by simp [Core.roomFor]
  refine ⟨t, ht, hplain, fun c hc => ?_⟩
  rw [hcore c hc]
  split
  · exact Core.wroteS_commit ..
  · rfl

/-- A result of a longer latency joins the landing queue. -/
theorem LandsS.exec_slow (h : LandsS m s q grd d L v) (hr : Ready s q) (i : Instr) (hL : 1 < L)
    (hroom : ∀ c ∈ s.gang q, (s.core c).roomFor .s .s d L = true) :
    ∃ t, s.runOne i m noEarly = .next t ∧ s.Plain t q ∧ ∀ c ∈ s.gang q,
      if s.guarded q c grd then t.core c = { s.core c with pp := (s.core c).pp.settled [scalarEntry (s.genOf q) d (v c) L] }
      else t.core c = (s.core c).idled := by
  obtain ⟨t, ht, hplain, hcore⟩ := h.exec hr i (Nat.le_of_lt hL) hroom
  refine ⟨t, ht, hplain, fun c hc => ?_⟩
  rw [hcore c hc]
  split
  · rw [if_neg (Nat.ne_of_gt hL)]
  · rfl

end

/-! ### Layout A (R104, R105) -/

/-- The highest field of a word, where layouts A and C hold the register of their second operand (R103). -/
theorem toNat_extractLsb'_top {lo n : Nat} (b : BitVec (lo + n)) : (b.extractLsb' lo n).toNat = b.toNat / 2 ^ lo := by
  rw [BitVec.extractLsb'_toNat, Nat.shiftRight_eq_div_pow]
  exact Nat.mod_eq_of_lt (Nat.div_lt_of_lt_mul (Nat.pow_add .. ▸ b.isLt))

/-- The second operand of layout A in the terms of the claims. -/
theorem State.opB_eq (s : State) (q c : Nat) (x : LayA) : s.opB q c x = Claims.operandB (s.core c) (s.genOf q) x := by
  have hb : (x.b.extractLsb' 34 6).toNat = x.b.toNat / 2 ^ 34 := toNat_extractLsb'_top (lo := 34) (n := 6) x.b
  simp only [State.opB, Claims.operandB, State.rs, hb]

theorem landsS_semA (s : State) (q : Nat) (f : Word → Word → Word) (L : Nat) (x : LayA) :
    LandsS (semA f L x) s q x.grd x.d.toNat L fun c =>
      f (Claims.operandA (s.core c) (s.genOf q) x) (Claims.operandB (s.core c) (s.genOf q) x) :=
  landsS_of_act fun c k => by rw [← State.opB_eq]; rfl

theorem mulW_eq : mulW = fun a b => BitVec.ofNat 64 (a.toNat * b.toNat) := by
  funext a b; exact BitVec.eq_of_toNat_eq (by simp [mulW])

/-- −1 for a divisor of zero is the pattern of all ones (R105). -/
theorem allOnes_word : BitVec.allOnes 64 = -1 := by decide

theorem sdivW_eq : sdivW = fun a b =>
    if b = 0 then -1 else if a.toInt = -2 ^ 63 ∧ b.toInt = -1 then a else BitVec.ofInt 64 (a.toInt.tdiv b.toInt) := by
  funext a b; rw [sdivW, allOnes_word]

theorem zdivW_eq : zdivW = fun a b => if b = 0 then -1 else BitVec.ofNat 64 (a.toNat / b.toNat) := by
  funext a b; rw [zdivW, allOnes_word]

/-- Each product and quotient is the operation of layout A with its value and latency, and lands after its own cycle. -/
theorem exec_of_mem_scalarSlow {i : LayA → Instr} {L : Nat} {f : Word → Word → Word} (h : (i, L, f) ∈ Claims.scalarSlow) :
    1 < L ∧ ∀ x s, exec (i x) s = s.runOne (i x) (semA f L x) noEarly := by
  simp only [Claims.scalarSlow, ← mulW_eq, ← sdivW_eq, ← zdivW_eq, List.mem_cons, List.not_mem_nil, or_false, Prod.mk.injEq] at h
  obtain ⟨rfl, rfl, rfl⟩ | ⟨rfl, rfl, rfl⟩ | ⟨rfl, rfl, rfl⟩ | ⟨rfl, rfl, rfl⟩ | ⟨rfl, rfl, rfl⟩ | ⟨rfl, rfl, rfl⟩ := h
  all_goals exact ⟨by decide, fun _ _ => rfl⟩

/-- Settles O2: every product and quotient lands one scalar result, with the latency and the value that the claims list for it. -/
theorem scalarSlow : Obligations.ScalarSlow := by
  intro s q x i L f hi _ hready hroom
  obtain ⟨hL, hexec⟩ := exec_of_mem_scalarSlow hi
  rw [hexec]
  exact (landsS_semA s q f L x).exec_slow ((State.ready_iff s q).1 hready) (i x) hL hroom

/-! ### Special registers (R116, R119) -/

/-- A table whose keys are `b` to `b + n`. -/
theorem lookup_map_range {α : Type} (b n : Nat) (f : Nat → α) (k : Nat) :
    ((List.range (n + 1)).map fun l => (b + l, f l)).lookup k = if b ≤ k ∧ k ≤ b + n then some (f (k - b)) else none := by
  induction n with
  | zero =>
    by_cases hk : k = b
    · subst hk; simp
    · have hne : ¬ (b ≤ k ∧ k ≤ b) := by omega
      simp [List.lookup, hne, beq_false_of_ne hk]
  | succ n ih =>
    rw [List.range_succ, List.map_append, List.lookup_append, ih]
    by_cases hk : k = b + (n + 1)
    · have hout : ¬ (b ≤ k ∧ k ≤ b + n) := by omega
      have hin : b ≤ k ∧ k ≤ b + (n + 1) := by omega
      rw [if_neg hout, if_pos hin]
      subst hk
      simp only [List.map_cons, List.map_nil, List.lookup, BEq.rfl, Option.none_or, Nat.add_sub_cancel_left]
    · have hlt : (b ≤ k ∧ k ≤ b + (n + 1)) ↔ b ≤ k ∧ k ≤ b + n := by omega
      simp [List.lookup, hlt, beq_false_of_ne hk]

theorem lookup_cons_ne {α : Type} {k a : Nat} (h : k ≠ a) (x : α) (l : List (Nat × α)) : ((a, x) :: l).lookup k = l.lookup k := by
  rw [List.lookup, beq_false_of_ne h]

theorem getD_ite_some {α : Type} (p : Prop) [Decidable p] (x d : α) : (if p then some x else none).getD d = if p then x else d := by
  split <;> rfl

/-- The index of a level, with KIND as a chain of tests (R116). -/
theorem State.loopIndex_eq (s : State) (q c l : Nat) :
    s.loopIndex q c l =
      if !(s.seq q).pushed l then 0
      else if (s.seq q).loopKind l = 1 then (s.seq q).loopTrip l * max 1 (s.seq q).gang.length + (s.core c).sp.crank
      else if (s.seq q).loopKind l = 2 then (s.seq q).loopTrip l * s.ndie q + (s.core c).sp.drank
      else (s.seq q).loopTrip l := by
  unfold State.loopIndex
  dsimp only
  split
  · rfl
  · split
    next hk => rw [if_pos hk]; rfl
    next hk => rw [if_neg (by omega), if_pos hk]
    next h1 h2 => rw [if_neg h1, if_neg h2]

/-- A special register reads what the claims' table gives its code. -/
theorem State.readSr_eq_special (s : State) (q c sr : Nat) : s.readSr q c sr = Claims.special s q c sr := by
  simp only [Claims.special, ← State.loopIndex_eq, List.lookup_append, lookup_map_range]
  unfold State.readSr
  dsimp only
  split
  case h_14 => exact (BitVec.ofNat_toNat 64 _).symm
  case h_15 => simp only [BitVec.ofNat_toNat]; rfl
  case h_21 =>
    simp only [imp_false] at *
    simp [lookup_cons_ne, getD_ite_some, *]
  all_goals rfl

/-! ### The other layouts (R107 to R110, R122, R123) -/

theorem landsS_sel (s : State) (q : Nat) (x : LayS) :
    LandsS (semSSel x) s q x.grd x.d.toNat 1 fun c =>
      if (s.core c).readQ (s.genOf q) x.qc.toNat then (s.core c).readS (s.genOf q) x.a.toNat
      else (s.core c).readS (s.genOf q) x.sb.toNat :=
  landsS_of_act fun _ _ => rfl

theorem landsS_li (s : State) (q : Nat) (x : LayK) :
    LandsS (semSLi x) s q x.grd x.d.toNat 1 fun _ => BitVec.ofInt 64 x.imm.toInt :=
  landsS_of_act fun _ _ => rfl

/-- 32 bits above the low 32 bits of a word (R109). -/
theorem append_low_word (a : BitVec 32) (w : Word) :
    (a ++ w.extractLsb' 0 32 : BitVec 64) = BitVec.ofNat 64 (a.toNat * 2 ^ 32 + w.toNat % 2 ^ 32) := by
  apply BitVec.eq_of_toNat_eq
  rw [BitVec.toNat_append, BitVec.extractLsb'_toNat, BitVec.toNat_ofNat, Nat.shiftRight_zero,
    ← Nat.shiftLeft_add_eq_or_of_lt (Nat.mod_lt _ (by decide)), Nat.shiftLeft_eq]
  omega

theorem landsS_lih (s : State) (q : Nat) (x : LayH) :
    LandsS (semSLih x) s q x.grd x.d.toNat 1 fun c =>
      BitVec.ofNat 64 (x.imm.toNat * 2 ^ 32 + ((s.core c).readS (s.genOf q) x.d.toNat).toNat % 2 ^ 32) :=
  landsS_of_act fun c k => by rw [← append_low_word]; rfl

theorem landsS_ext (s : State) (q : Nat) (x : LayF) :
    LandsS (semSExt x) s q x.grd x.d.toNat 1 fun c =>
      BitVec.ofNat 64 (((s.core c).readS (s.genOf q) x.a.toNat).toNat / 2 ^ x.lsb.toNat % 2 ^ x.width.toNat) :=
  landsS_of_act fun _ _ => rfl

/-- A word with a field replaced, from its highest bits down. -/
theorem setField_eq (w : Word) (lo n v : Nat) :
    setField w lo n v = BitVec.ofNat 64 (w.toNat / 2 ^ (lo + n) * 2 ^ (lo + n) + v % 2 ^ n * 2 ^ lo + w.toNat % 2 ^ lo) := by
  unfold setField
  congr 1
  omega

theorem landsS_ins (s : State) (q : Nat) (x : LayF) :
    LandsS (semSIns x) s q x.grd x.d.toNat 1 fun c =>
      let a := ((s.core c).readS (s.genOf q) x.a.toNat).toNat
      let d := ((s.core c).readS (s.genOf q) x.d.toNat).toNat
      let hi := 2 ^ (x.lsb.toNat + x.width.toNat)
      BitVec.ofNat 64 (d / hi * hi + a % 2 ^ x.width.toNat * 2 ^ x.lsb.toNat + d % 2 ^ x.lsb.toNat) :=
  landsS_of_act fun c k => by simp only [← setField_eq]; rfl

theorem landsS_rdsr (s : State) (q : Nat) (x : LayT) :
    LandsS (semSRdsr x) s q x.grd x.r.toNat 1 fun c => Claims.special s q c x.sr.toNat :=
  landsS_of_act fun c k => by simp only [State.readSr_eq_special]

/-- Each operation of latency 1 beside layout A lands the value that the claims give it, on every core. -/
theorem exec_of_scalarOther (s : State) (q : Nat) (i : Instr) (h : (Claims.scalarOther s q 0 i).isSome = true) :
    ∃ m grd d v, exec i s = s.runOne i m noEarly ∧ LandsS m s q grd d 1 v ∧
      ∀ c, Claims.scalarOther s q c i = some (grd, d, v c) := by
  unfold Claims.scalarOther at h
  split at h
  case h_1 x => exact ⟨_, _, _, _, rfl, landsS_sel s q x, fun _ => rfl⟩
  case h_2 x => exact ⟨_, _, _, _, rfl, landsS_li s q x, fun _ => rfl⟩
  case h_3 x => exact ⟨_, _, _, _, rfl, landsS_lih s q x, fun _ => rfl⟩
  case h_4 x => exact ⟨_, _, _, _, rfl, landsS_ext s q x, fun _ => rfl⟩
  case h_5 x => exact ⟨_, _, _, _, rfl, landsS_ins s q x, fun _ => rfl⟩
  case h_6 x => exact ⟨_, _, _, _, rfl, landsS_rdsr s q x, fun _ => rfl⟩
  case h_7 => exact absurd h (by decide)

theorem scalarOther : Claims.ScalarOther := by
  intro s q i hi _ hready
  obtain ⟨m, grd, d, v, hexec, hland, hval⟩ := exec_of_scalarOther s q i hi
  obtain ⟨t, ht, hplain, hcore⟩ := hland.exec_quick ((State.ready_iff s q).1 hready) i
  refine ⟨t, hexec.trans ht, hplain, fun c hc grd' d' v' h => ?_⟩
  obtain ⟨rfl, rfl, rfl⟩ : grd = grd' ∧ d = d' ∧ v c = v' := by simpa [hval] using h
  exact hcore c hc

/-! ### Comparisons (R107) -/

/-- The condition of a code in the terms of the claims. -/
theorem cond_eq_condition (code : Nat) (a b : Word) : cond code a b = Claims.condition code a b := by
  have heq : (a.toNat == b.toNat) = (a == b) := by rw [Bool.eq_iff_iff]; simp [BitVec.toNat_inj]
  unfold cond condInt
  split
  case h_1 => exact heq
  case h_2 => exact congrArg not heq
  case h_11 =>
    simp only [imp_false] at *
    have hlong : 10 ≤ code := by omega
    obtain ⟨n, rfl⟩ := Nat.exists_eq_add_of_le' hlong
    rfl
  all_goals rfl

/-- The second operand of layout C in the terms of the claims. -/
theorem State.opC_eq (s : State) (q c : Nat) (x : LayC) :
    s.opC q c x = if x.i = 0 then (s.core c).readS (s.genOf q) (x.b.toNat / 2 ^ 33) else BitVec.ofInt 64 x.b.toInt := by
  have hb : (x.b.extractLsb' 33 6).toNat = x.b.toNat / 2 ^ 33 := toNat_extractLsb'_top (lo := 33) (n := 6) x.b
  simp only [State.opC, State.rs, hb]
  rfl

theorem scalarCompare : Claims.ScalarCompare := by
  intro s q x _ hready
  have hr := (State.ready_iff s q).1 hready
  obtain ⟨t, ht, hplain, hcore⟩ := State.exec_land hr (.sCmp x) (m := semSCmp x) (Sem.simple_of_act ..) (L := 1)
    (index := fun _ => x.qd.toNat)
    (value := fun c => if cond x.cond.toNat (s.rs q c x.a) (s.opC q c x) then 1 else 0) (by decide)
    (fun c => rfl) (fun _ _ _ => by simp [Core.roomFor]) (early := noEarly) rfl
  have hcore' : ∀ c ∈ s.gang q, t.core c =
      if s.guarded q c x.grd then
        { (s.core c).commit (s.genOf q) (guardEntry (s.genOf q) x.qd.toNat (cond x.cond.toNat (s.rs q c x.a) (s.opC q c x))) with
          pp := (s.core c).pp.settled [] [.s] }
      else (s.core c).idled := fun c hc => by rw [hcore c hc, Sem.on_core rfl]; rfl
  refine ⟨t, ht, hplain, fun c hc => ?_⟩
  dsimp only
  rw [← State.opC_eq, ← cond_eq_condition, hcore' c hc]
  split
  · exact ⟨by rw [Core.commit_guardEntry], fun n _ => Core.readQ_commit_guardEntry ..⟩
  · rfl

/-! ### Copies (R122, R123) -/

/-- The register of a vsel code as one read of the file it names (R122). -/
theorem State.fromV_eq (s : State) (q c : Nat) (sel : BitVec 5) :
    s.fromV q c sel =
      let k := s.core c
      let file : SMap (Reg 2048) × Nat :=
        if sel.toNat < 8 then (k.ve.oa, 0) else if sel.toNat < 16 then (k.ve.ob, 8)
        else if sel.toNat < 18 then (k.ve.la, 16) else (k.ve.lb, 18)
      (SMap.get (Reg.wiped 2048) file.1 (sel.toNat - file.2)).read (s.genOf q) := by
  unfold State.fromV
  dsimp only
  split
  · rfl
  · split
    · rfl
    · split <;> rfl

theorem landsS_fromv (s : State) (q : Nat) (x : LayV) :
    LandsS (semSFromv x) s q x.grd x.d.toNat 2 fun c => vWord64 (s.fromV q c x.vsel) x.word.toNat :=
  landsS_of_act fun _ _ => rfl

theorem landsS_froma (s : State) (q : Nat) (x : LayM) :
    LandsS (semSFroma x) s q x.grd x.d.toNat 2 fun c => (s.core c).readA (s.genOf q) x.an.toNat :=
  landsS_of_act fun _ _ => rfl

theorem scalarCopies : Claims.ScalarCopies := by
  intro s q i grd d v hi _ hready hroom
  have hr := (State.ready_iff s q).1 hready
  split at hi
  case h_1 x _ =>
    obtain ⟨rfl, rfl, hv⟩ := hi
    obtain rfl : v = fun c => vWord64 (s.fromV q c x.vsel) x.word.toNat := funext fun c => by rw [hv, State.fromV_eq]; rfl
    exact (landsS_fromv s q x).exec_slow hr _ (by decide) hroom
  case h_2 x _ =>
    obtain ⟨rfl, rfl, hv⟩ := hi
    obtain rfl := funext hv
    exact (landsS_froma s q x).exec_slow hr _ (by decide) hroom
  case h_3 => exact hi.elim

/-- Settles O3: the selections and their like write one scalar result, comparisons write a guard, and copies land through the queue. -/
theorem scalarOthers : Obligations.ScalarOthers := ⟨scalarOther, scalarCompare, scalarCopies⟩

end Sys2Proof.Machine
end

section
/-! ## Tiles written at issue (R169, R172, R175)

`m.zero` and `m.wr` change the matrix registers of each core whose guard reads 1, and nothing else there. -/

namespace Sys2Proof.Machine

/-! ### A field of a number, replaced -/

/-- The bits of a number whose n bits from `lo` up are replaced by those of `v`. -/
theorem testBit_replaced (w lo : Nat) {n : Nat} (v : BitVec n) (i : Nat) :
    (w % 2 ^ lo + v.toNat * 2 ^ lo + w / 2 ^ (lo + n) * 2 ^ (lo + n)).testBit i =
      if lo ≤ i ∧ i < lo + n then v.getLsbD (i - lo) else w.testBit i := by
  have hsum : w % 2 ^ lo + v.toNat * 2 ^ lo + w / 2 ^ (lo + n) * 2 ^ (lo + n) =
      2 ^ lo * (2 ^ n * (w / 2 ^ (lo + n)) + v.toNat) + w % 2 ^ lo := by
    rw [Nat.mul_add, ← Nat.mul_assoc, ← Nat.pow_add, Nat.mul_comm (2 ^ (lo + n)), Nat.mul_comm v.toNat]
    omega
  rw [hsum, Nat.testBit_two_pow_mul_add _ (Nat.mod_lt _ (Nat.two_pow_pos lo)), Nat.testBit_two_pow_mul_add _ v.isLt,
    Nat.testBit_mod_two_pow, Nat.testBit_div_two_pow]
  by_cases hlo : i < lo
  · simp [hlo, Nat.not_le.2 hlo]
  · by_cases hn : i < lo + n
    · have hsub : i - lo < n := by omega
      simp [hlo, hn, hsub, Nat.not_lt.1 hlo, BitVec.testBit_toNat]
    · have hsub : ¬ i - lo < n := by omega
      have hi : i - lo - n + (lo + n) = i := by omega
      simp [hlo, hn, hsub, hi]

/-- A field of one bit, set. -/
theorem setField_one (w : Word) {b : Nat} (hb : b < 64) : setField w b 1 1 = w ||| BitVec.ofNat 64 (2 ^ b) := by
  refine BitVec.eq_of_getLsbD_eq fun i hi => ?_
  have hone : 1 % 2 ^ 1 = (1#1).toNat := rfl
  have hbit : (BitVec.ofNat 64 (2 ^ b)).getLsbD i = decide (b = i) := by
    rw [BitVec.getLsbD_ofNat, Nat.testBit_two_pow, decide_eq_true hi, Bool.true_and]
  rw [setField, hone, BitVec.getLsbD_ofNat, testBit_replaced, BitVec.getLsbD_or, hbit]
  by_cases hib : i = b
  · subst hib; simp [hb]
  · have hout : ¬ (b ≤ i ∧ i < b + 1) := by omega
    rw [if_neg hout]
    simp [hi, Ne.symm hib, BitVec.testBit_toNat]

/-! ### Rows of a tile (R172) -/

/-- Rows 2j and 2j + 1 of a tile of which rows 2k and 2k + 1 are replaced. -/
theorem tileRows_tileSetRows (t : Tile) (v : VWord) {j k : Nat} (hj : j < 16) :
    tileRows (tileSetRows t k v) j = if j = k then v else tileRows t j := by
  refine BitVec.eq_of_getLsbD_eq fun i hi => ?_
  have hpos : 2048 * j + i < 32768 := by omega
  rw [tileRows, BitVec.getLsbD_extractLsb', tileSetRows, BitVec.getLsbD_ofNat, Nat.mul_succ, testBit_replaced]
  by_cases hjk : j = k
  · subst hjk
    simp [hi, hpos]
  · have hout : ¬ (2048 * k ≤ 2048 * j + i ∧ 2048 * j + i < 2048 * k + 2048) := by omega
    simp [hjk, hi, hpos, hout, tileRows, BitVec.testBit_toNat]

theorem tileRows_zero (j : Nat) : tileRows 0 j = 0 := by simp [tileRows]

/-! ### The matrix registers -/

/-- A tile written under a generation reads what was written, and the other tiles read as before. -/
theorem Core.readT_of_setT {k k' : Core} {g : Gen} {td : Nat} {v : Tile} (h : k'.mx.t = (k.mx.setT g td v).t) (n : Nat) :
    k'.readT g n = if n = td then v else k.readT g n := by
  rw [Core.readT, h, MatrixRegs.setT, SMap.get_set]
  split
  · exact Reg.read_of v g
  · rfl

/-- A mark of ACCOWN is a field of one bit, set where the context is the owner (R175). -/
theorem marked_eq_setField (w : Word) (id : Nat) {b : Nat} (hb : b < 64) :
    Claims.marked w id b = if accOwner w = id then setField w b 1 1 else w := by
  rw [setField_one w hb]; rfl

/-- LIVE of a tile, in the terms of the claims (R175). -/
theorem MatrixRegs.live_eq_marked (m : MatrixRegs) (id : Nat) {t : Nat} (ht : t < 8) :
    m.live id t = { m with accown := Claims.marked m.accown id (8 + t) } := by
  rw [live, marked_eq_setField _ _ (by omega)]
  split <;> rfl

/-- SQ, in the terms of the claims (R175). -/
theorem MatrixRegs.usedSq_eq_marked (m : MatrixRegs) (id : Nat) :
    m.usedSq id = { m with accown := Claims.marked m.accown id 1 } := by
  rw [usedSq, marked_eq_setField _ _ (by decide)]
  split <;> rfl

/-- The matrix registers after a write of a whole tile for a context; `zero` where HALF is cleared as well (R169, R172, R175). -/
def MatrixRegs.written (m : MatrixRegs) (g : Gen) (id td : Nat) (v : Tile) (zero : Bool) : MatrixRegs :=
  let own := Claims.marked m.accown id (8 + td)
  { m.setT g td v with
    half := m.half && !zero,
    accown := if zero && m.half then Claims.marked own id 1 else own }

theorem MatrixRegs.written_false (m : MatrixRegs) (g : Gen) (id : Nat) {td : Nat} (htd : td < 8) (v : Tile) :
    m.written g id td v false = (m.setT g td v).live id td := by
  rw [live_eq_marked _ _ htd]
  simp [written, setT]

theorem MatrixRegs.written_true (m : MatrixRegs) (g : Gen) (id : Nat) {td : Nat} (htd : td < 8) (v : Tile) :
    m.written g id td v true =
      let n := (m.setT g td v).live id td
      { (if m.half then n.usedSq id else n) with half := false } := by
  rw [live_eq_marked _ _ htd]
  dsimp only
  rw [usedSq_eq_marked]
  cases hhalf : m.half <;> simp [written, setT, hhalf]

/-! ### An operation that changes the matrix registers alone -/

/-- An operation of the matrix slot that is refused where another context owns the state, and that waits for one tile (R159, R176). -/
def tileSem (grd : BitVec 3) (names : State → Nat → Nat → List Dest) (td : Nat) (act : State → Nat → Nat → Core → Core) : Sem :=
  { slot := 3, grd := grd, names := names, check := fun s q c => s.accFirst q c, wait := tileWait [td] fun _ => false, act := act }

/-- ACCFIRST is not raised where the context may use the matrix state (R176). -/
theorem State.accFirst_eq_none {s : State} {q c : Nat} (h : Claims.mayUse s q c) : s.accFirst q c = none := by
  refine if_neg fun hbad => ?_
  simp only [Bool.and_eq_true, Bool.not_eq_true', decide_eq_true_eq] at hbad
  obtain ⟨⟨hsys, harm⟩, hother⟩ := hbad
  obtain h | h | h := h
  · exact Bool.false_ne_true (hsys.symm.trans h)
  · exact Bool.false_ne_true (h.symm.trans harm)
  · exact hother h

section
variable {s : State} {q td : Nat} {grd : BitVec 3} {names : State → Nat → Nat → List Dest}
  {act : State → Nat → Nat → Core → Core} {f : Nat → MatrixRegs → MatrixRegs}

/-- Nothing holds back such an operation where the context may use the matrix state and the tile is not busy. -/
theorem passes_tileSem (h : Ready s q) (hact : ∀ c k, act s q c k = { k with mx := f c k.mx })
    (hok : ∀ c ∈ s.gang q, s.guarded q c grd = true → Claims.mayUse s q c ∧ (s.core c).mx.busy td = false) :
    Passes (tileSem grd names td act) s q := by
  have hon : ∀ c, (tileSem grd names td act).hereOn s q c = s.guarded q c grd := fun c =>
    (Bool.and_true _).trans (Sem.on_core rfl s q c)
  constructor
  case stand => rfl
  case always => exact fun _ _ => rfl
  case takes => exact fun _ _ => rfl
  case priv => exact fun hp => nomatch hp
  case mem => exact fun hm => nomatch hm
  case check => exact fun c hc hh => State.accFirst_eq_none (hok c hc (hon c ▸ hh)).1
  case wait => intro c hc hh; simp [tileSem, tileWait, (hok c hc (hon c ▸ hh)).2]
  case fits =>
    intro c hc
    have hfresh : (s.acted q c [tileSem grd names td act]).pp.fresh = [] := by
      change (if (tileSem grd names td act).on s q c then act s q c (s.core c) else s.core c).pp.fresh = []
      rw [hact]
      split <;> exact h.fresh hc
    rw [hfresh, Core.collides_nil]

/-- Such an operation changes the matrix registers of each core whose guard reads 1. -/
theorem exec_tileSem (h : Ready s q) (i : Instr) (hact : ∀ c k, act s q c k = { k with mx := f c k.mx })
    (hok : ∀ c ∈ s.gang q, s.guarded q c grd = true → Claims.mayUse s q c ∧ (s.core c).mx.busy td = false) :
    ∃ t, s.runOne i (tileSem grd names td act) noEarly = .next t ∧ s.Plain t q ∧ ∀ c ∈ s.gang q, t.core c =
      let k := s.core c
      if s.guarded q c grd then { k with mx := f c k.mx, pp := k.pp.settled [] } else k.idled := by
  have hlocal : LocalOp (tileSem grd names td act) s q :=
    ⟨fun _ _ => rfl, fun _ => rfl, fun _ => rfl, fun c hc => by simp [tileSem, hact, h.corePost hc]⟩
  obtain ⟨t, ht, hplain, hcore⟩ := State.exec_local h i (passes_tileSem h hact hok) hlocal (early := noEarly) rfl
  refine ⟨t, ht, hplain, fun c hc => ?_⟩
  rw [hcore c hc, State.coreAfter, Sem.on_core rfl]
  simp only [tileSem, hact]
  split
  all_goals
    rw [Core.endBundle_quiet]
    case hq => exact h.lq hc
    case hs => exact (h.core hc).1.shp
    case hp => exact h.corePost hc
    simp only [h.fresh hc]
    rfl

end

/-! ### `m.zero` and `m.wr` -/

/-- A bundle that writes a whole tile on each core whose guard reads 1, in the terms of the claims: `v c` is what core c's tile becomes, and
`f c j` its rows 2j and 2j + 1. -/
theorem exec_tileWrite {s : State} {q td : Nat} {grd : BitVec 3} {names : State → Nat → Nat → List Dest}
    {act : State → Nat → Nat → Core → Core} {v : Nat → Tile} {zero : Bool} {f : Nat → Nat → VWord} (h : Ready s q) (i : Instr)
    (hact : ∀ c k, act s q c k = { k with mx := k.mx.written (s.genOf q) (s.ctxIdOf q) td (v c) zero })
    (hrows : ∀ c, ∀ j < 16, tileRows (v c) j = f c j)
    (hok : ∀ c ∈ s.gang q, s.guarded q c grd = true → Claims.mayUse s q c ∧ (s.core c).mx.busy td = false) :
    ∃ t, s.runOne i (tileSem grd names td act) noEarly = .next t ∧ s.Plain t q ∧ ∀ c ∈ s.gang q,
      let k := s.core c
      let g := s.genOf q
      if s.guarded q c grd then
        let own := Claims.marked k.mx.accown (s.ctxIdOf q) (8 + td)
        t.core c = { k with
          mx := { k.mx with
            t := (t.core c).mx.t, half := k.mx.half && !zero,
            accown := if zero && k.mx.half then Claims.marked own (s.ctxIdOf q) 1 else own },
          pp := k.pp.settled [] } ∧
        (∀ j < 16, tileRows ((t.core c).readT g td) j = f c j) ∧
        ∀ n, n ≠ td → (t.core c).readT g n = k.readT g n
      else t.core c = k.idled := by
  obtain ⟨t, ht, hplain, hcore⟩ := exec_tileSem (f := fun c m => m.written (s.genOf q) (s.ctxIdOf q) td (v c) zero) h i hact hok
  refine ⟨t, ht, hplain, fun c hc => ?_⟩
  have hafter := hcore c hc
  by_cases hg : s.guarded q c grd = true
  · simp only [hg, if_true] at hafter ⊢
    have hread := Core.readT_of_setT (k := s.core c) (k' := t.core c) (g := s.genOf q) (td := td) (v := v c) (by rw [hafter]; rfl)
    refine ⟨by rw [hafter]; rfl, fun j hj => ?_, fun n hn => ?_⟩
    · rw [hread, if_pos rfl, hrows c j hj]
    · rw [hread, if_neg hn]
  · simpa [hg] using hafter

/-- `m.zero` on the matrix registers: +0 in the tile, HALF 0, LIVE, and SQ where HALF was 1 (R169, R175). -/
theorem act_mZero (s : State) (q c : Nat) (x : LayMT) (k : Core) :
    (semMZero x).act s q c k = { k with mx := k.mx.written (s.genOf q) (s.ctxIdOf q) x.t.toNat 0 true } := by
  rw [MatrixRegs.written_true _ _ _ x.t.isLt]; rfl

/-- `m.wr` on the matrix registers: two rows of the tile, and LIVE (R172, R175). -/
theorem act_mWr (s : State) (q c : Nat) (x : LayMWr) (k : Core) :
    (semMWr x).act s q c k =
      let v := tileSetRows ((s.core c).readT (s.genOf q) x.td.toNat) x.k.toNat ((s.core c).readV (s.genOf q) x.vs.toNat)
      { k with mx := k.mx.written (s.genOf q) (s.ctxIdOf q) x.td.toNat v false } := by
  dsimp only
  rw [MatrixRegs.written_false _ _ _ x.td.isLt]; rfl

theorem exec_mZero (x : LayMT) (s : State) :
    exec (.mZero x) s = s.runOne (.mZero x) (tileSem x.grd (fun _ _ _ => []) x.t.toNat (semMZero x).act) noEarly := rfl

theorem exec_mWr (x : LayMWr) (s : State) :
    exec (.mWr x) s =
      s.runOne (.mWr x) (tileSem x.grd (fun s q c => s.vName q c x.vs.toNat) x.td.toNat (semMWr x).act) noEarly := rfl

/-- Settles O11: `m.zero` and `m.wr` each write one whole tile with its marks, and the bundle changes nothing else on the core. -/
theorem matrixTiles : Obligations.MatrixTiles := by
  intro s q i hi _ hready hok
  have hr := (State.ready_iff s q).1 hready
  unfold Claims.tileWrites at hi
  split at hi
  case h_1 x _ =>
    rw [exec_mZero]
    obtain ⟨t, ht, hplain, hcore⟩ := exec_tileWrite hr (.mZero x) (fun c => act_mZero s q c x)
      (fun _ j _ => tileRows_zero j) fun c hc => hok c hc _ _ _ rfl
    refine ⟨t, ht, hplain, fun c hc grd td f h => ?_⟩
    obtain ⟨rfl, rfl, rfl⟩ := h
    exact hcore c hc
  case h_2 x _ =>
    rw [exec_mWr]
    obtain ⟨t, ht, hplain, hcore⟩ := exec_tileWrite hr (.mWr x) (fun c => act_mWr s q c x)
      (fun c j hj => tileRows_tileSetRows _ _ hj) fun c hc => hok c hc _ _ _ rfl
    refine ⟨t, ht, hplain, fun c hc grd td f h => ?_⟩
    obtain ⟨rfl, rfl, rfl⟩ := h
    exact hcore c hc
  case h_3 => exact absurd hi (by decide)

end Sys2Proof.Machine
end

section
/-! ## Fences, throttling and the scan port (R348, R354, R469 to R471, R474)

What the parts of a fence leave as it was, said once for each; then each event of the platform. -/

namespace Sys2Proof.Machine

/-! ### Listed keys, and fields of a word -/

/-- A key that does not read as an unlisted one is listed. -/
theorem SMap.mem_of_get {α : Type} {d v : α} {m : SMap α} {n : Nat} (hv : v ≠ d) (h : SMap.get d m n = v) : (n, v) ∈ m := by
  induction m with
  | nil => exact absurd h.symm hv
  | cons e r ih =>
    obtain ⟨k, u⟩ := e
    rw [SMap.get] at h
    split at h
    · next hk => subst hk; subst h; exact List.mem_cons_self
    · exact List.mem_cons_of_mem _ (ih h)

/-- The bits of a word of which a field is replaced. -/
theorem getLsbD_setField (w : Word) (lo n v i : Nat) (hi : i < 64) :
    (setField w lo n v).getLsbD i = if lo ≤ i ∧ i < lo + n then v.testBit (i - lo) else w.getLsbD i := by
  have hv : v % 2 ^ n = (BitVec.ofNat n v).toNat := (BitVec.toNat_ofNat v n).symm
  rw [setField, hv, BitVec.getLsbD_ofNat, testBit_replaced, decide_eq_true hi, Bool.true_and]
  by_cases h : lo ≤ i ∧ i < lo + n
  · have hin : i - lo < n := by omega
    rw [if_pos h, if_pos h, BitVec.getLsbD_ofNat, decide_eq_true hin, Bool.true_and]
  · simp [h, BitVec.testBit_toNat]

theorem testBit_fieldOf (w : Word) (lo n i : Nat) : (fieldOf w lo n).testBit i = (decide (i < n) && w.getLsbD (lo + i)) := by
  rw [fieldOf, Nat.testBit_mod_two_pow, Nat.testBit_div_two_pow, BitVec.testBit_toNat, Nat.add_comm]

/-- A field reads what was written to it. -/
theorem fieldOf_setField_self (w : Word) {lo n v : Nat} (h : lo + n ≤ 64) (hv : v < 2 ^ n) : fieldOf (setField w lo n v) lo n = v := by
  refine Nat.eq_of_testBit_eq fun i => ?_
  rw [testBit_fieldOf]
  by_cases hi : i < n
  · have hin : lo ≤ lo + i ∧ lo + i < lo + n := by omega
    rw [getLsbD_setField _ _ _ _ _ (by omega), if_pos hin, decide_eq_true hi, Bool.true_and, Nat.add_sub_cancel_left]
  · have hbig : v < 2 ^ i := Nat.lt_of_lt_of_le hv (Nat.pow_le_pow_right (by decide) (Nat.not_lt.1 hi))
    rw [decide_eq_false hi, Bool.false_and, Nat.testBit_lt_two_pow hbig]

/-- A field keeps its value where another is written. -/
theorem fieldOf_setField_apart (w : Word) {lo n a m : Nat} (v : Nat) (h : lo + n ≤ 64) (hd : lo + n ≤ a ∨ a + m ≤ lo) :
    fieldOf (setField w a m v) lo n = fieldOf w lo n := by
  refine Nat.eq_of_testBit_eq fun i => ?_
  rw [testBit_fieldOf, testBit_fieldOf]
  by_cases hi : i < n
  · have hout : ¬ (a ≤ lo + i ∧ lo + i < a + m) := by omega
    rw [getLsbD_setField _ _ _ _ _ (by omega), if_neg hout]
  · rw [decide_eq_false hi, Bool.false_and, Bool.false_and]

namespace State

/-! ### What the parts of an event leave -/

/-- What every step of a fold leaves, the fold leaves. -/
theorem foldl_keeps {α β : Type} (π : State → β) {f : State → α → State} (h : ∀ s a, π (f s a) = π s) (l : List α)
    (s : State) : π (l.foldl f s) = π s := by
  induction l generalizing s with
  | nil => rfl
  | cons a r ih => rw [List.foldl_cons, ih, h]

variable (s : State)

/-- A record for the physical function changes memory and the ring alone (R470). -/
theorem postPf_eq (v : Word) (code x : Nat) :
    s.postPf v code x = { s with mem := (s.postPf v code x).mem, pfEv := (s.postPf v code x).pfEv } := by
  unfold postPf; dsimp only; split <;> rfl

@[simp] theorem postPf_frame (v : Word) (code x : Nat) :
    (s.postPf v code x).cores = s.cores ∧ (s.postPf v code x).seqs = s.seqs ∧ (s.postPf v code x).dies = s.dies ∧
    (s.postPf v code x).ctxs = s.ctxs ∧ (s.postPf v code x).flights = s.flights ∧ (s.postPf v code x).parts = s.parts ∧
    (s.postPf v code x).time = s.time := by
  rw [postPf_eq]; exact ⟨rfl, rfl, rfl, rfl, rfl, rfl, rfl⟩

@[simp] theorem seq_postPf (v : Word) (code x q : Nat) : (s.postPf v code x).seq q = s.seq q := by simp [seq]
@[simp] theorem die_postPf (v : Word) (code x d : Nat) : (s.postPf v code x).die d = s.die d := by simp [die]
@[simp] theorem dctl_postPf (v : Word) (code x d o : Nat) : (s.postPf v code x).dctl d o = s.dctl d o := by simp [dctl]

/-! Each accessor reads one field of the state. -/

theorem die_congr {s t : State} (h : t.dies = s.dies) (d : Nat) : t.die d = s.die d := by rw [die, h]; rfl
theorem dctl_congr {s t : State} (h : t.dies = s.dies) (d o : Nat) : t.dctl d o = s.dctl d o := by rw [dctl, die_congr h]; rfl
theorem seq_congr {s t : State} (h : t.seqs = s.seqs) (q : Nat) : t.seq q = s.seq q := by rw [seq, h]; rfl
theorem core_congr {s t : State} (h : t.cores = s.cores) (c : Nat) : t.core c = s.core c := by rw [core, h]; rfl
theorem ctx?_congr {s t : State} (h : t.ctxs = s.ctxs) (x : Nat) : t.ctx? x = s.ctx? x := by rw [ctx?, h]; rfl

@[simp] theorem seq_modCtx (x : Nat) (f : Ctx → Ctx) (q : Nat) : (s.modCtx x f).seq q = s.seq q := seq_congr (by simp) q
@[simp] theorem core_modCtx (x : Nat) (f : Ctx → Ctx) (c : Nat) : (s.modCtx x f).core c = s.core c := core_congr (by simp) c

/-- A change of a die that leaves the stored registers of its control page. -/
theorem dctl_modDie {d : Nat} {f : Die → Die} (h : (f (s.die d)).dctl = (s.die d).dctl) (e o : Nat) :
    (s.modDie d f).dctl e o = s.dctl e o := by
  simp only [dctl, die_modDie]
  split
  · subst_vars; rw [h]
  · rfl

end State

/-! ### Throttling (R471) -/

theorem msTicks_eq : msTicks = 1000000 := rfl

/-- A die on entry to throttling, and one that has left it (R471). -/
def Die.throttle (y : Die) (now : Nat) : Die := { y with throttled := true, coolSince := some now }
def Die.unthrottle (y : Die) (now : Nat) : Die := { y with throttled := false, coolSince := none, fastSince := some now }

theorem Die.throttle_of_throttled {y : Die} (h : y.throttled = true) (now : Nat) : y.throttle now = { y with coolSince := some now } := by
  simp [throttle, ← h]

theorem Die.throttle_dctl (y : Die) (now : Nat) : (y.throttle now).dctl = y.dctl := rfl
theorem Die.unthrottle_dctl (y : Die) (now : Nat) : (y.unthrottle now).dctl = y.dctl := rfl

namespace State

variable (s : State)

/-- TMAX of a die tells a temperature, and the throttling state of the die changes (R471). -/
def setHeat (d : Nat) (v : BitVec 8) (f : Die → Die) : State := (s.setDctl d 0x30 (setField (s.dctl d 0x30) 8 8 v.toNat)).modDie d f

theorem setHeat_frame (d : Nat) (v : BitVec 8) (f : Die → Die) : (s.setHeat d v f).cores = s.cores ∧ (s.setHeat d v f).seqs = s.seqs :=
  ⟨rfl, rfl⟩

theorem die_setHeat_self (d : Nat) (v : BitVec 8) (f : Die → Die) :
    (s.setHeat d v f).die d = f ((s.setDctl d 0x30 (setField (s.dctl d 0x30) 8 8 v.toNat)).die d) := die_modDie_self ..

theorem die_setHeat_ne (d : Nat) (v : BitVec 8) (f : Die → Die) {e : Nat} (h : e ≠ d) : (s.setHeat d v f).die e = s.die e := by
  rw [setHeat, die_modDie, if_neg h, setDctl, die_modDie, if_neg h]

theorem dctl_setHeat (d : Nat) (v : BitVec 8) {f : Die → Die} (h : ∀ y, (f y).dctl = y.dctl) (o : Nat) :
    (s.setHeat d v f).dctl d o = if o = 0x30 then setField (s.dctl d o) 8 8 v.toNat else s.dctl d o := by
  rw [setHeat, dctl_modDie _ (h _), dctl_setDctl]
  by_cases ho : o = 0x30 <;> simp [ho]

/-- A state with a new TMAX and a new throttling state of a die, but for the record to the physical function. -/
structure Heated (t : State) (d : Nat) (v : BitVec 8) (f : Die → Die) : Prop where
  cores : t.cores = s.cores
  seqs : t.seqs = s.seqs
  dies : t.dies = (s.setHeat d v f).dies

theorem heated_postPf (d : Nat) (v : BitVec 8) (f : Die → Die) (w : Word) (code x : Nat) :
    s.Heated ((s.setHeat d v f).postPf w code x) d v f := by
  constructor <;> simp [setHeat_frame]

theorem throttleEnter_hot {d : Nat} {v : BitVec 8} (h : 105 ≤ v.toNat) :
    s.Heated (s.throttleEnter d v) d v fun y => y.throttle s.ticks := by
  rw [throttleEnter, if_neg (Nat.not_lt.2 h)]
  dsimp only
  split
  · next hold =>
    have hsame : (s.setHeat d v fun y => y.throttle s.ticks) = s.setHeat d v fun y => { y with coolSince := some s.ticks } := by
      rw [setHeat, setHeat, modDie, modDie, Die.throttle_of_throttled hold]
    constructor
    · rfl
    · rfl
    · rw [hsame]; rfl
  · exact s.heated_postPf ..

theorem throttleExit_cool {d k : Nat} {v : BitVec 8} (hv : v.toNat < 95) (ht : (s.die d).throttled = true)
    (hk : (s.die d).coolSince = some k) (hlong : k + msTicks ≤ s.ticks) :
    s.Heated (s.throttleExit d v) d v fun y => y.unthrottle s.time := by
  have hgo : (!(s.die d).throttled || decide (95 ≤ v.toNat) ||
      !((s.die d).coolSince.elim false fun k => decide (k + msTicks ≤ s.ticks))) = false := by
    rw [ht, hk, Option.elim_some, decide_eq_true hlong, decide_eq_false (Nat.not_le.2 hv)]; rfl
  rw [throttleExit, hgo]
  exact s.heated_postPf ..

end State

theorem evThrottle : Claims.evThrottle := by
  intro s d v
  constructor
  · intro hv
    refine ⟨s.throttleEnter d v, rfl, ?_⟩
    obtain ⟨hcores, hseqs, hdies⟩ := s.throttleEnter_hot (d := d) hv
    have hdie := State.die_congr hdies
    refine ⟨?_, ?_, hcores, hseqs, fun e he => ?_, fun o => ?_⟩
    · rw [hdie, State.die_setHeat_self]; rfl
    · rw [hdie, State.die_setHeat_self]; rfl
    · rw [hdie, State.die_setHeat_ne _ _ _ _ he]
    · rw [State.dctl_congr hdies, State.dctl_setHeat _ _ _ fun y => y.throttle_dctl _]
  · intro k hv ht hk hlong
    refine ⟨s.throttleExit d v, rfl, ?_⟩
    obtain ⟨hcores, hseqs, hdies⟩ := s.throttleExit_cool hv ht hk (msTicks_eq ▸ hlong)
    have hdie := State.die_congr hdies
    refine ⟨?_, hcores, hseqs, fun e he => ?_, fun o => ?_⟩
    · rw [hdie, State.die_setHeat_self]; rfl
    · rw [hdie, State.die_setHeat_ne _ _ _ _ he]
    · rw [State.dctl_congr hdies, State.dctl_setHeat _ _ _ fun y => y.unthrottle_dctl _]

theorem evBoundaryScan : Claims.evBoundaryScan := by
  intro s code hcode
  refine ⟨_, rfl, ?_⟩
  have hcond : (3 < code ∨ s.fuses.lcs = 2 ∧ 1 < code) ↔ s.fuses.lcs = 2 ∧ 2 ≤ code := by omega
  simp only [State.boundaryScan, hcond]
  rfl

end Sys2Proof.Machine
end

section
/-! ## Lost gangs, retired cores and self-tests (R335, R343, R353, R354, R469) -/

namespace Sys2Proof.Machine

/-! ### The group of a lost gang is Faulted (R343) -/

/-- A sequencer that goes on where it stood still in its group. -/
def Seq.resumed (y : Seq) : Seq :=
  match y.phase with
  | .held | .atYield | .landWait => { y with phase := .run }
  | _ => y

/-- A sequencer at which GRPFLT becomes pending, as its group is Faulted. -/
def Seq.faulted (y : Seq) : Seq := Seq.resumed (if y.async.contains cGRPFLT then y else { y with async := y.async ++ [cGRPFLT] })

theorem Seq.resumed_frame (y : Seq) : y.resumed.fenced = y.fenced ∧ y.resumed.async = y.async := by
  unfold resumed; split <;> exact ⟨rfl, rfl⟩

theorem Seq.faulted_fenced (y : Seq) : y.faulted.fenced = y.fenced := by
  rw [faulted, (resumed_frame _).1]; split <;> rfl

theorem Seq.mem_async_faulted (y : Seq) : cGRPFLT ∈ y.faulted.async := by
  rw [faulted, (resumed_frame _).2]
  split
  · next h => exact List.contains_iff_mem.1 h
  · simp

namespace State

/-- GRPFLT becomes pending at one sequencer of a Faulted group. -/
def faultAt (s : State) (q : Nat) : State := (s.pend q cGRPFLT).modSeq q Seq.resumed

variable (s : State)

theorem seq_faultAt (q r : Nat) : (s.faultAt q).seq r = if r = q then (s.seq q).faulted else s.seq r := by
  rw [faultAt, seq_modSeq, pend, seq_modSeq_self, seq_modSeq]
  split <;> rfl

theorem faultAll_frame (l : List Nat) :
    (l.foldl faultAt s).cores = s.cores ∧ (l.foldl faultAt s).dies = s.dies ∧ (l.foldl faultAt s).mem = s.mem ∧
    (l.foldl faultAt s).flights = s.flights ∧ (l.foldl faultAt s).ctxs = s.ctxs := by
  have h := foldl_keeps (fun s => (s.cores, s.dies, s.mem, s.flights, s.ctxs)) (f := faultAt) (fun _ _ => rfl) l s
  simpa using h

theorem fenced_faultAll (l : List Nat) (q : Nat) : ((l.foldl faultAt s).seq q).fenced = (s.seq q).fenced := by
  refine foldl_keeps (fun s => (s.seq q).fenced) (fun s r => ?_) l s
  rw [seq_faultAt]
  split
  · next h => rw [Seq.faulted_fenced, h]
  · rfl

theorem seq_faultAll_of_not_mem {l : List Nat} {q : Nat} (h : q ∉ l) : (l.foldl faultAt s).seq q = s.seq q := by
  induction l generalizing s with
  | nil => rfl
  | cons r l ih =>
    rw [List.mem_cons, not_or] at h
    rw [List.foldl_cons, ih _ h.2, seq_faultAt, if_neg h.1]

theorem mem_async_faultAll {l : List Nat} {q : Nat} (h : q ∈ l ∨ cGRPFLT ∈ (s.seq q).async) :
    cGRPFLT ∈ ((l.foldl faultAt s).seq q).async := by
  induction l generalizing s with
  | nil => simpa using h
  | cons r l ih =>
    refine ih _ ?_
    rw [seq_faultAt]
    by_cases hr : q = r
    · rw [if_pos hr]; exact .inr (Seq.mem_async_faulted _)
    · rw [if_neg hr]; simpa [hr] using h

/-- A group becomes Faulted or, where it is not placed and at work, stays as it is. -/
theorem groupFault_cases (x : Nat) : s.groupFault x = s ∨ ∃ f, s.groupFault x = ((s.streams x).foldl faultAt s).modCtx x f := by
  unfold groupFault
  split
  · exact .inl rfl
  · dsimp only
    split
    case h_4 => exact .inr ⟨_, rfl⟩
    all_goals exact .inl rfl

theorem groupFault_running {x : Nat} {c : Ctx} (hc : s.ctx? x = some c) (hg : c.group = .running) :
    ∃ f, (f c).group = .faulted ∧ s.groupFault x = ((s.streams x).foldl faultAt s).modCtx x f := by
  unfold groupFault
  rw [hc]
  dsimp only
  rw [hg]
  exact ⟨_, rfl, rfl⟩

theorem groupFault_frame (x : Nat) :
    (s.groupFault x).cores = s.cores ∧ (s.groupFault x).dies = s.dies ∧ (s.groupFault x).mem = s.mem ∧
    (s.groupFault x).flights = s.flights := by
  obtain h | ⟨f, h⟩ := s.groupFault_cases x
  · rw [h]; exact ⟨rfl, rfl, rfl, rfl⟩
  · rw [h]; simp [faultAll_frame]

theorem fenced_groupFault (x q : Nat) : ((s.groupFault x).seq q).fenced = (s.seq q).fenced := by
  obtain h | ⟨f, h⟩ := s.groupFault_cases x
  · rw [h]
  · rw [h, seq_modCtx, fenced_faultAll]

/-! ### Ranks and bindings (R335, R337) -/

/-- The ranks of a gang are special registers of its cores, and nothing else. -/
theorem rankCores_eq (size i : Nat) (cs : List Nat) : s.rankCores size i cs = { s with cores := (s.rankCores size i cs).cores } := by
  induction cs generalizing s i with
  | nil => rfl
  | cons c r ih => rw [rankCores, ih]; rfl

theorem sc_rankCores (size i : Nat) (cs : List Nat) (c : Nat) : ((s.rankCores size i cs).core c).sc = (s.core c).sc := by
  induction cs generalizing s i with
  | nil => rfl
  | cons b r ih =>
    rw [rankCores, ih, core_modCore]
    split
    · next h => rw [h]
    · rfl

theorem rebind_cases (q : Nat) :
    s.rebind q = s ∨ s.rebind q = (s.modSeq q fun y => { y with gang := s.boundGang q }).rankGang (s.boundGang q) := by
  unfold rebind
  split
  · exact .inr rfl
  · exact .inl rfl

theorem rebind_frame (q : Nat) :
    (s.rebind q).dies = s.dies ∧ (s.rebind q).mem = s.mem ∧ (s.rebind q).parts = s.parts ∧ (s.rebind q).ctxs = s.ctxs := by
  obtain h | h := s.rebind_cases q
  · rw [h]; exact ⟨rfl, rfl, rfl, rfl⟩
  · rw [h, rankGang, rankCores_eq]; exact ⟨rfl, rfl, rfl, rfl⟩

theorem sc_rebind (q c : Nat) : ((s.rebind q).core c).sc = (s.core c).sc := by
  obtain h | h := s.rebind_cases q
  · rw [h]
  · rw [h, rankGang, sc_rankCores]; rfl

theorem seq_rankGang (g : List Nat) (r : Nat) : (s.rankGang g).seq r = s.seq r := by
  have h : (s.rankGang g).seqs = s.seqs := by rw [rankGang, rankCores_eq]
  exact seq_congr h r

theorem seq_rebind_ne {q r : Nat} (hr : r ≠ q) : (s.rebind q).seq r = s.seq r := by
  obtain h | h := s.rebind_cases q
  · rw [h]
  · rw [h, seq_rankGang, seq_modSeq, if_neg hr]

theorem fenced_rebind (q : Nat) : ((s.rebind q).seq q).fenced = (s.seq q).fenced := by
  obtain h | h := s.rebind_cases q
  · rw [h]
  · rw [h, seq_rankGang, seq_modSeq_self]

/-! ### A retired core (R353, R354) -/

/-- A retirement is told to the physical function, and SPARE of the creel is set (R353, R470). -/
def retired (creel p : Nat) (w : Word) : State := (s.postPf (BitVec.ofNat 64 (creel % 10 * 32 + p)) 0xE008 0).setSpare creel w

@[simp] theorem seq_retired (creel p : Nat) (w : Word) (q : Nat) : (s.retired creel p w).seq q = s.seq q := by
  have h (t : State) : (t.setSpare creel w).seq q = t.seq q := rfl
  rw [retired, h, seq_postPf]

theorem dctl_retired (creel p : Nat) (w : Word) (e o : Nat) :
    (s.retired creel p w).dctl e o = if e = creel / 10 ∧ o = spareOff creel then w else s.dctl e o := by
  have h (t : State) : (t.setSpare creel w).dctl e o = (t.setDctl (creel / 10) (spareOff creel) w).dctl e o := rfl
  rw [retired, h, dctl_setDctl, dctl_postPf]

/-- SPARE of a creel in which a physical core is recorded as failed (R353). -/
def spareLost (creel p : Nat) : Word := setField (s.dctl (creel / 10) (spareOff creel)) p 1 1

/-- A position leaves its binding (R354). -/
def unbind (c : Nat) : State := s.setCbind c (setField (s.cbind c) 7 1 0)

theorem seq_unbind (c q : Nat) : (s.unbind c).seq q = s.seq q := rfl

/-- The record of a failed physical core stands in SPARE whatever SUB becomes. -/
theorem getLsbD_spareLost {creel p : Nat} (hp : p < 16) : (s.spareLost creel p).getLsbD p = true := by
  rw [spareLost, getLsbD_setField _ _ _ _ _ (by omega), if_pos (by omega), Nat.sub_self]
  rfl

section
variable {s} {creel p : Nat} (hp : p < 16)
include hp

/-- The spare core of a creel is free: it takes the place of the retired core. -/
theorem coreRetire_spare (hw : fieldOf (s.dctl (creel / 10) (spareOff creel)) 24 5 = 0x1F) :
    s.coreRetire creel p =
      ((s.retired creel p (setField (s.spareLost creel p) 24 5 p)).modCore (coreAt creel p) Core.spareIn).wipeSpad (coreAt creel p) := by
  have hne : p ≠ 16 := by omega
  unfold coreRetire
  dsimp only
  rw [if_pos hw, if_neg hne]
  rfl

/-- The spare core of a creel serves already: the position of the retired core leaves its binding, and the groups that it served are
Faulted. -/
theorem coreRetire_unbound (hw : fieldOf (s.dctl (creel / 10) (spareOff creel)) 24 5 ≠ 0x1F) :
    (s.coreRetire creel p).dies = ((s.retired creel p (s.spareLost creel p)).unbind (coreAt creel p)).dies ∧
      ∀ q, ((s.coreRetire creel p).seq q).fenced = (s.seq q).fenced := by
  have hpos : (if p = 16 then fieldOf (s.dctl (creel / 10) (spareOff creel)) 24 5 else p) = p := if_neg (by omega)
  have hlow : ¬ 16 ≤ p := by omega
  unfold coreRetire
  dsimp only
  rw [if_neg hw, hpos, if_neg hlow]
  constructor
  · refine foldl_keeps State.dies (fun t e => ?_) _ _
    split
    · exact (t.groupFault_frame e.1).2.1
    · rfl
  · intro q
    have hstart : (((s.retired creel p (s.spareLost creel p)).unbind (coreAt creel p)).seq q).fenced = (s.seq q).fenced := by
      rw [seq_unbind, seq_retired]
    refine (foldl_keeps (fun t => (t.seq q).fenced) (fun t e => ?_) _ _).trans hstart
    split
    · exact t.fenced_groupFault e.1 q
    · rfl

/-- A core whose place the spare core takes: SPARE, the registers of the position, and its scratchpad (R353, R354). -/
theorem coreRetire_spare_effect (hw : fieldOf (s.dctl (creel / 10) (spareOff creel)) 24 5 = 0x1F) :
    (∀ q, (s.coreRetire creel p).seq q = s.seq q) ∧
    (s.coreRetire creel p).dctl (creel / 10) (spareOff creel) = setField (s.spareLost creel p) 24 5 p ∧
    ((s.coreRetire creel p).core (coreAt creel p)).sc = .reset ∧
    ∀ a, locSpad (coreAt creel p) 0 ≤ a → a < locSpad (coreAt creel p + 1) 0 → (s.coreRetire creel p).rawByte a = 0 := by
  rw [coreRetire_spare hp hw]
  generalize hu : s.retired creel p (setField (s.spareLost creel p) 24 5 p) = u
  refine ⟨fun q => ?_, ?_, ?_, fun a hlo hhi => ?_⟩
  · change u.seq q = s.seq q
    rw [← hu, seq_retired]
  · change u.dctl _ _ = _
    rw [← hu, dctl_retired, if_pos ⟨rfl, rfl⟩]
  · exact congrArg Core.sc (u.core_modCore_self (coreAt creel p) Core.spareIn)
  · have hin : locSpad (coreAt creel p) 0 ≤ a ∧ a < locSpad (coreAt creel p) 0 + 2 ^ 21 := by unfold locSpad at *; omega
    exact (Memory.read_clear ..).trans (if_pos hin)

/-- A core without a spare one: SPARE, and the binding of its position (R353, R354). -/
theorem coreRetire_unbound_effect (hw : fieldOf (s.dctl (creel / 10) (spareOff creel)) 24 5 ≠ 0x1F) :
    (s.coreRetire creel p).dctl (creel / 10) (spareOff creel) = s.spareLost creel p ∧
    ((s.coreRetire creel p).cbind (coreAt creel p)).getLsbD 7 = false := by
  have happart : spareOff creel ≠ cbindOff (coreAt creel p) := by unfold spareOff cbindOff creelOfCore coreAt; omega
  have hdctl := fun d o => dctl_congr (coreRetire_unbound hp hw).1 d o
  constructor
  · rw [hdctl, unbind, setCbind, dctl_setDctl, if_neg fun h => happart h.2, dctl_retired, if_pos ⟨rfl, rfl⟩]
  · rw [cbind, hdctl, unbind, setCbind, dctl_setDctl, if_pos ⟨rfl, rfl⟩, getLsbD_setField _ _ _ _ _ (by decide), if_pos (by decide)]
    rfl

end

/-! ### FENCE_SELFTEST_END (R354, R469) -/

/-- A gang's sequencer is free of its fence. -/
def unfence (q : Nat) : State := s.modSeq q fun y => { y with fenced := false }

theorem seq_unfence (q r : Nat) : (s.unfence q).seq r = if r = q then { s.seq q with fenced := false } else s.seq r := seq_modSeq ..

/-- The self-test of a fenced gang ends without a lasting error. -/
theorem fenceSelftest_transient {q : Nat} (hf : (s.seq q).fenced = true) (creel p : Nat) :
    s.fenceSelftest false q false creel p = (s.unfence q).rebind q := by
  simp [fenceSelftest, hf, unfence]

/-- The self-test of a fenced gang ends with a lasting error in a core of its creel. -/
theorem fenceSelftest_lasting {q p : Nat} (hf : (s.seq q).fenced = true) (hp : p < 16) :
    s.fenceSelftest false q true (q / 4) p = ((s.unfence q).coreRetire (q / 4) p).rebind q := by
  simp [fenceSelftest, hf, unfence, creelOfSeq, Nat.le_of_lt hp]

end State

section
variable {s : State} {d creel p : Nat}

theorem fenceSelftest_die_lasting (hd : (s.die d).phase = .fenced false) :
    s.fenceSelftest true d true creel p = s.modDie d fun y => { y with phase := .fenced true } := by
  simp [State.fenceSelftest, hd]

theorem fenceSelftest_die_transient (hd : (s.die d).phase = .fenced false) :
    s.fenceSelftest true d false creel p = (s.modDie d fun y => { y with phase := .boot }).dieReset d := by
  simp [State.fenceSelftest, hd]

end

/-- A lasting error of a core whose place the spare core takes (R354). -/
theorem fenceSelftest_spare {s : State} {q p : Nat} (hf : (s.seq q).fenced = true) (hp : p < 16)
    (hw : fieldOf (s.dctl (q / 4 / 10) (spareOff (q / 4))) 24 5 = 0x1F) :
    let t := s.fenceSelftest false q true (q / 4) p
    let w := t.dctl (q / 4 / 10) (spareOff (q / 4))
    (t.seq q).fenced = false ∧ w.getLsbD p = true ∧ fieldOf w 24 5 = p ∧ (t.core (coreAt (q / 4) p)).sc = .reset ∧
      ∀ a, locSpad (coreAt (q / 4) p) 0 ≤ a → a < locSpad (coreAt (q / 4) p + 1) 0 → t.rawByte a = 0 := by
  dsimp only
  rw [s.fenceSelftest_lasting hf hp]
  obtain ⟨hseq, hdctl, hsc, hbytes⟩ := State.coreRetire_spare_effect (s := s.unfence q) hp hw
  generalize (s.unfence q).coreRetire (q / 4) p = v at hseq hdctl hsc hbytes ⊢
  obtain ⟨hdies, hmem, -, -⟩ := v.rebind_frame q
  have hout : ¬ (24 ≤ p ∧ p < 24 + 5) := by omega
  rw [State.fenced_rebind, hseq, State.seq_unfence, if_pos rfl, State.dctl_congr hdies, hdctl, State.sc_rebind,
    getLsbD_setField _ _ _ _ _ (by omega), if_neg hout]
  refine ⟨rfl, State.getLsbD_spareLost _ hp, fieldOf_setField_self _ (by decide) (by omega), hsc, fun a hlo hhi => ?_⟩
  rw [State.rawByte, hmem]
  exact hbytes a hlo hhi

/-- A lasting error of a core where the creel has no spare core left (R354). -/
theorem fenceSelftest_unbound {s : State} {q p : Nat} (hf : (s.seq q).fenced = true) (hp : p < 16)
    (hw : fieldOf (s.dctl (q / 4 / 10) (spareOff (q / 4))) 24 5 ≠ 0x1F) :
    let t := s.fenceSelftest false q true (q / 4) p
    (t.seq q).fenced = false ∧ (t.dctl (q / 4 / 10) (spareOff (q / 4))).getLsbD p = true ∧
      (t.cbind (coreAt (q / 4) p)).getLsbD 7 = false := by
  dsimp only
  rw [s.fenceSelftest_lasting hf hp]
  have hfenced := (State.coreRetire_unbound (s := s.unfence q) hp hw).2 q
  obtain ⟨hdctl, hbind⟩ := State.coreRetire_unbound_effect (s := s.unfence q) hp hw
  generalize (s.unfence q).coreRetire (q / 4) p = v at hfenced hdctl hbind ⊢
  have hdies := (v.rebind_frame q).1
  rw [State.fenced_rebind, hfenced, State.seq_unfence, if_pos rfl, State.dctl_congr hdies, hdctl, State.cbind, State.dctl_congr hdies]
  exact ⟨rfl, State.getLsbD_spareLost _ hp, hbind⟩

theorem evFenceSelftest : Claims.evFenceSelftest := by
  constructor
  · intro s d creel p hd _
    constructor
    · refine ⟨_, congrArg Host.Outcome.next (fenceSelftest_die_lasting hd), ⟨rfl, fun e he => ?_⟩, State.die_modDie_self ..⟩
      rw [State.die_modDie, if_neg he]
    · exact congrArg Host.Outcome.next (fenceSelftest_die_transient hd)
  · intro s q p creel d off w hf _
    refine ⟨⟨_, rfl, ?_⟩, fun hp hw => ⟨_, rfl, fenceSelftest_spare hf hp hw⟩,
      fun hp hw => ⟨_, rfl, fenceSelftest_unbound hf hp hw⟩⟩
    rw [State.fenceSelftest_transient _ hf]
    obtain ⟨hdies, hmem, -, -⟩ := (s.unfence q).rebind_frame q
    refine ⟨?_, fun r hr => ?_, hdies, hmem⟩
    · rw [State.fenced_rebind, State.seq_unfence, if_pos rfl]
    · rw [State.seq_rebind_ne _ hr, State.seq_unfence, if_neg hr]

end Sys2Proof.Machine
end

section
/-! ## What of a die is in service, and containment (R414, R419, R448)

Partitions, the phases of dies, sockets and ports are what a fence of a die takes out of service. Traffic, time bases, claim groups and the
end of a context leave all of them. -/

namespace Sys2Proof.Machine

/-- What a fence of a die is stated of: PCFG of the partitions (R250), and of each die its phase (R469), its socket with the writes that it
has taken (R446), and the phase and key of each port (R414). -/
@[ext] structure Service where
  parts : SMap Word
  phase : Nat → DiePhase
  sock : Nat → SockPhase × List GuestWrite
  port : Nat → Nat → PortPhase × Option (BitVec 256)

def State.service (s : State) : Service :=
  { parts := s.parts, phase := fun d => (s.die d).phase, sock := fun d => ((s.die d).sock.phase, (s.die d).sock.writes),
    port := fun d p => ((s.port d p).phase, (s.port d p).cur) }

/-- What holds for each die, with one die's value replaced. -/
def withDie {α : Type} (f : Nat → α) (d : Nat) (v : α) : Nat → α := fun e => if e = d then v else f e

theorem withDie_self {α : Type} (f : Nat → α) (d : Nat) : withDie f d (f d) = f := by
  funext e
  unfold withDie
  split
  · next h => rw [h]
  · rfl

namespace State

variable (s : State)

theorem service_congr {s t : State} (hp : t.parts = s.parts) (hd : t.dies = s.dies) : t.service = s.service := by
  simp only [service, port, die, hp, hd]

@[simp] theorem service_postPf (v : Word) (code x : Nat) : (s.postPf v code x).service = s.service :=
  service_congr (by simp) (by simp)

/-- A change of a die that leaves its ports, in these terms. -/
theorem service_modDie_eq {d : Nat} {f : Die → Die} (hports : (f (s.die d)).ports = (s.die d).ports) :
    (s.modDie d f).service = { s.service with
      phase := withDie s.service.phase d (f (s.die d)).phase,
      sock := withDie s.service.sock d ((f (s.die d)).sock.phase, (f (s.die d)).sock.writes) } := by
  ext1
  case parts => rfl
  case phase => funext e; simp only [service, die_modDie, withDie]; split <;> rfl
  case sock => funext e; simp only [service, die_modDie, withDie]; split <;> rfl
  case port =>
    funext e p
    simp only [service, port, die_modDie]
    split
    · next h => rw [hports, h]
    · rfl

/-- A change of a die that names neither its phase nor its socket nor its ports. -/
theorem service_modDie {d : Nat} {f : Die → Die} (hphase : (f (s.die d)).phase = (s.die d).phase)
    (hsock : (f (s.die d)).sock = (s.die d).sock) (hports : (f (s.die d)).ports = (s.die d).ports) :
    (s.modDie d f).service = s.service := by
  rw [s.service_modDie_eq hports, hphase, hsock]
  exact Service.ext rfl (withDie_self s.service.phase d) (withDie_self s.service.sock d) rfl

theorem port_modPort (d p e r : Nat) (f : Port → Port) :
    (s.modPort d p f).port e r = if e = d ∧ r = p then f (s.port d p) else s.port e r := by
  simp only [modPort, setPort, port, die_modDie]
  by_cases he : e = d
  · subst he
    simp [SMap.get_set]
  · simp [he]

theorem modPort_frame (d p : Nat) (f : Port → Port) :
    (s.modPort d p f).service.parts = s.service.parts ∧ (s.modPort d p f).service.phase = s.service.phase ∧
    (s.modPort d p f).service.sock = s.service.sock := by
  refine ⟨rfl, funext fun e => ?_, funext fun e => ?_⟩
  · simp only [service, modPort, setPort, die_modDie]; split
    · next h => rw [h]
    · rfl
  · simp only [service, modPort, setPort, die_modDie]; split
    · next h => rw [h]
    · rfl

/-- A change of a port that leaves its phase and its key. -/
theorem service_modPort {d p : Nat} {f : Port → Port} (hphase : (f (s.port d p)).phase = (s.port d p).phase)
    (hcur : (f (s.port d p)).cur = (s.port d p).cur) : (s.modPort d p f).service = s.service := by
  obtain ⟨hparts, hph, hsock⟩ := s.modPort_frame d p f
  have hport : (s.modPort d p f).service.port = s.service.port := by
    funext e r
    simp only [service, port_modPort]
    split
    · next h => rw [hphase, hcur, h.1, h.2]
    · rfl
  exact Service.ext hparts hph hsock hport

/-! #### Flits and claim messages -/

@[simp] theorem service_noteRefusal (d : Nat) (f : Flit) (r : Nat) : (s.noteRefusal d f r).service = s.service :=
  s.service_modDie rfl rfl rfl

@[simp] theorem service_pushFlit (d p : Nat) (f : Flit) : (s.pushFlit d p f).service = s.service := s.service_modPort rfl rfl

@[simp] theorem service_refuseFlit (d : Nat) (f : Flit) (r : Nat) : (s.refuseFlit d f r).service = s.service := by
  unfold refuseFlit
  split
  · rfl
  · split
    · simp
    · dsimp only
      split
      case h_4 => cases s.dieOfFab f.src <;> simp
      all_goals simp

@[simp] theorem service_sendFlit (d : Nat) (f : Flit) : (s.sendFlit d f).service = s.service := by
  unfold sendFlit
  split
  · exact s.service_modPort rfl rfl
  all_goals simp

@[simp] theorem service_failFlits (d : Nat) (l : List Flit) : (s.failFlits d l).service = s.service := by
  refine foldl_keeps service (fun t f => ?_) l s
  rw [service_refuseFlit]
  split <;> rfl

@[simp] theorem service_claimSend (d : Nat) (m : BitVec 18) (l : Line) : (s.claimSend d m l).service = s.service := by
  unfold claimSend
  split
  · exact s.service_modDie rfl rfl rfl
  · simp

@[simp] theorem service_breakGroup (d gi : Nat) (notify : Bool) : (s.breakGroup d gi notify).service = s.service := by
  have hset (g : ClaimGroup) : (s.setClgrp d gi g).service = s.service := s.service_modDie rfl rfl rfl
  unfold breakGroup
  dsimp only
  split
  · rfl
  · split
    · exact hset _
    · exact (foldl_keeps service (fun t m => t.service_claimSend d m _) _ _).trans (hset _)

/-! #### Time bases (R421, R435) -/

@[simp] theorem service_breakWide (d : Nat) : (s.breakWide d).service = s.service := by
  refine foldl_keeps service (fun t i => ?_) _ s
  dsimp only
  split
  · simp
  · rfl

@[simp] theorem service_ownClock (d : Nat) (free : Bool) : (s.ownClock d free).service = s.service :=
  s.service_modDie rfl rfl rfl

@[simp] theorem service_freeEdge (t : State) (d : Nat) : (s.freeEdge t d).service = t.service := by
  unfold freeEdge
  split <;> simp

@[simp] theorem service_withEdges (ds : List Nat) (f : State → State) : (s.withEdges ds f).service = (f s).service :=
  foldl_keeps service (fun t d => s.service_freeEdge t d) ds (f s)

/-! ### Containment of a port (R414, R419) -/

end State

/-- A port in service (R414). -/
def Port.serving (x : Port) : Bool := x.phase == .up || x.phase == .held

/-- What containment makes of a port. -/
def Port.contained (x : Port) : Port :=
  { x with phase := .contained, cur := none, nxt := none, sendq := [], wire := [], recv := [], open_ := 0,
           kexh := x.kexh || decide (x.count.toNat = lastCount) }

namespace State

variable (s : State)

theorem service_containEnd (d p : Nat) : (s.containEnd d p).service = (s.modPort d p Port.contained).service := by
  have hrefuse (l : List Flit) (t : State) : (l.foldl (fun t f => t.refuseFlit d f 6) t).service = t.service :=
    foldl_keeps service (fun t f => t.service_refuseFlit d f 6) l t
  unfold containEnd
  dsimp only
  rw [service_postPf, hrefuse, service_failFlits]
  rfl

/-- Containment of a link: the end in service at which it begins, and the other end where that is in service too. -/
theorem service_contain (d p : Nat) (h : (s.port d p).serving = true) :
    (s.contain d p).service = (s.containEnd d p).service ∨
      ∃ e r, peerOf d p = some (e, r) ∧ (s.contain d p).service = ((s.containEnd d p).containEnd e r).service := by
  unfold Port.serving at h
  simp only [contain, h, Bool.not_true, Bool.false_eq_true, if_false, service_withEdges]
  split
  · split
    · next e r he _ => exact .inr ⟨e, r, he, rfl⟩
    · exact .inl rfl
  · exact .inl rfl

theorem contain_idle (d p : Nat) (h : (s.port d p).serving = false) : s.contain d p = s := by
  unfold Port.serving at h
  simp [contain, h]

theorem port_containEnd (d p e r : Nat) :
    (s.containEnd d p).service.port e r = if e = d ∧ r = p then (.contained, none) else s.service.port e r := by
  rw [service_containEnd]
  simp only [service, port_modPort]
  split <;> rfl

/-- The other end of a package-ring link lies on another die (R407). -/
theorem peerOf_ne {d p e r : Nat} (h : peerOf d p = some (e, r)) : e ≠ d := by
  unfold peerOf ringPeer at h
  split at h
  · split at h
    all_goals
      rw [Option.some.injEq, Prod.mk.injEq] at h
      omega
  · cases h

/-- Containment on the ports of the die where it begins. -/
theorem port_contain (d p r : Nat) :
    (s.contain d p).service.port d r = if r = p ∧ (s.port d p).serving = true then (.contained, none) else s.service.port d r := by
  by_cases h : (s.port d p).serving = true
  · obtain hs | ⟨e, k, he, hs⟩ := s.service_contain d p h
    · simp [hs, port_containEnd, h]
    · have hne : ¬ (d = e ∧ r = k) := fun hx => peerOf_ne he hx.1.symm
      rw [hs, port_containEnd, if_neg hne, port_containEnd]
      simp [h]
  · simp [s.contain_idle d p (by simpa using h), h]

theorem containEnd_keeps (d p : Nat) :
    (s.containEnd d p).service.parts = s.service.parts ∧ (s.containEnd d p).service.phase = s.service.phase ∧
    (s.containEnd d p).service.sock = s.service.sock := by
  rw [service_containEnd]; exact s.modPort_frame d p _

/-- Containment leaves partitions, the phases of dies and their sockets. -/
theorem contain_keeps (d p : Nat) :
    (s.contain d p).service.parts = s.service.parts ∧ (s.contain d p).service.phase = s.service.phase ∧
    (s.contain d p).service.sock = s.service.sock := by
  by_cases h : (s.port d p).serving = true
  · obtain hs | ⟨e, k, -, hs⟩ := s.service_contain d p h
    · rw [hs]; exact s.containEnd_keeps d p
    · obtain ⟨hparts, hphase, hsock⟩ := (s.containEnd d p).containEnd_keeps e k
      obtain ⟨hparts', hphase', hsock'⟩ := s.containEnd_keeps d p
      rw [hs, hparts, hphase, hsock]
      exact ⟨hparts', hphase', hsock'⟩
  · rw [s.contain_idle d p (by simpa using h)]; exact ⟨rfl, rfl, rfl⟩

theorem containAll_keeps (d : Nat) (l : List Nat) :
    (l.foldl (fun s p => s.contain d p) s).service.parts = s.service.parts ∧
    (l.foldl (fun s p => s.contain d p) s).service.phase = s.service.phase ∧
    (l.foldl (fun s p => s.contain d p) s).service.sock = s.service.sock :=
  ⟨foldl_keeps (fun s => s.service.parts) (fun t p => (t.contain_keeps d p).1) l s,
    foldl_keeps (fun s => s.service.phase) (fun t p => (t.contain_keeps d p).2.1) l s,
    foldl_keeps (fun s => s.service.sock) (fun t p => (t.contain_keeps d p).2.2) l s⟩

theorem serving_of_port_eq {s t : State} {d r : Nat} (h : t.service.port d r = s.service.port d r) :
    (t.port d r).serving = (s.port d r).serving := by
  have hphase : (t.port d r).phase = (s.port d r).phase := congrArg Prod.fst h
  rw [Port.serving, Port.serving, hphase]

/-- A port that is contained stays so while others are. -/
theorem port_containAll_of_contained {d r : Nat} (l : List Nat) (h : s.service.port d r = (.contained, none)) :
    (l.foldl (fun s p => s.contain d p) s).service.port d r = (.contained, none) := by
  induction l generalizing s with
  | nil => exact h
  | cons p l ih =>
    refine ih _ ?_
    rw [port_contain]
    split
    · rfl
    · exact h

/-- Every port in service of a list is contained. -/
theorem port_containAll {d r : Nat} {l : List Nat} (hr : r ∈ l) (h : (s.port d r).serving = true) :
    (l.foldl (fun s p => s.contain d p) s).service.port d r = (.contained, none) := by
  induction l generalizing s with
  | nil => cases hr
  | cons p l ih =>
    rw [List.foldl_cons]
    by_cases hp : r = p
    · subst hp
      exact port_containAll_of_contained _ l (by rw [port_contain, if_pos ⟨rfl, h⟩])
    · have hkeep : (s.contain d p).service.port d r = s.service.port d r := by
        rw [port_contain, if_neg fun hx => hp hx.1]
      exact ih _ (List.mem_of_ne_of_mem hp hr) (by rw [serving_of_port_eq hkeep, h])

/-! ### The socket of a fenced die (R448) -/

@[simp] theorem service_tlFail (d i n cause : Nat) : (s.tlFail d i n cause).service = s.service := s.service_modDie rfl rfl rfl

@[simp] theorem service_setDctl (d o : Nat) (w : Word) : (s.setDctl d o w).service = s.service := s.service_modDie rfl rfl rfl

@[simp] theorem service_invAnswered (d id : Nat) : (s.invAnswered d id).service = s.service :=
  foldl_keeps service (fun t _ => t.service_modDie rfl rfl rfl) allDies s

/-- A change of a socket, in these terms. -/
theorem service_modSock (d : Nat) (f : Socket → Socket) :
    (s.modSock d f).service =
      { s.service with sock := withDie s.service.sock d ((f (s.die d).sock).phase, (f (s.die d).sock).writes) } := by
  rw [modSock, service_modDie_eq _ rfl]
  exact Service.ext rfl (withDie_self s.service.phase d) rfl rfl

/-- A fault record changes memory, the tail of the ring, or the mark of a lost record. -/
@[simp] theorem service_guestRecord (d pseq : Nat) (va : Word) (ctx code source : Nat) :
    (s.guestRecord d pseq va ctx code source).service = s.service := by
  unfold guestRecord
  dsimp only
  split
  · rw [service_modSock]
    exact Service.ext rfl rfl (withDie_self s.service.sock d) rfl
  · exact service_setDctl ..

/-- A socket that is up is fenced, and its outstanding writes go. -/
theorem guestFence_up {d : Nat} (code pseq : Nat) (h : (s.die d).sock.phase = .up) :
    (s.guestFence d code pseq).service = { s.service with sock := withDie s.service.sock d (.fenced, []) } := by
  unfold guestFence
  rw [if_neg (fun hn => hn h)]
  dsimp only
  rw [service_postPf, service_guestRecord, service_setDctl, service_modSock, foldl_keeps service, foldl_keeps service]
  · intro t v; exact t.service_invAnswered d v.id
  · intro t p; exact t.service_tlFail d p.tl p.num cLINKFLT

theorem guestFence_idle {d : Nat} (code pseq : Nat) (h : (s.die d).sock.phase ≠ .up) : s.guestFence d code pseq = s := if_pos h

end State
end Sys2Proof.Machine
end

section
/-! ## Fenced dies (R249, R469, R471) -/

namespace Sys2Proof.Machine

namespace State

variable (s : State)

/-! ### The end of a context (R253), and of a partition (R249) -/

theorem modCores_frame (f : Nat → Core → Core) (cs : List Nat) :
    (s.modCores f cs).seqs = s.seqs ∧ (s.modCores f cs).dies = s.dies ∧ (s.modCores f cs).ctxs = s.ctxs ∧
    (s.modCores f cs).flights = s.flights ∧ (s.modCores f cs).parts = s.parts := by
  rw [modCores_eq]; exact ⟨rfl, rfl, rfl, rfl, rfl⟩

@[simp] theorem service_linePrune (d : Nat) : (s.linePrune d).service = s.service := s.service_modDie rfl rfl rfl

@[simp] theorem service_vacate (q : Nat) : (s.vacate q).service = s.service := by
  obtain ⟨-, hdies, -, -, hparts⟩ := s.modCores_frame (fun _ k => k.leave) (s.allCores q)
  unfold vacate
  rw [service_linePrune]
  exact service_congr (s := s) hparts hdies

@[simp] theorem service_rebind (q : Nat) : (s.rebind q).service = s.service :=
  service_congr (s.rebind_frame q).2.2.1 (s.rebind_frame q).1

@[simp] theorem service_modCtx (x : Nat) (f : Ctx → Ctx) : (s.modCtx x f).service = s.service :=
  service_congr (by simp) (by simp)

@[simp] theorem service_postVf (p : Nat) (v : Word) (code x : Nat) : (s.postVf p v code x).service = s.service := by
  unfold postVf; dsimp only; split <;> rfl

@[simp] theorem service_abortLaunch (x : Nat) : (s.abortLaunch x).service = s.service := by
  unfold abortLaunch
  split
  · rfl
  · rw [service_modCtx, service_postVf]

@[simp] theorem service_stopCtx (x : Nat) : (s.stopCtx x).service = s.service := by
  unfold stopCtx
  dsimp only
  rw [service_modCtx, service_abortLaunch, foldl_keeps service, foldl_keeps service]
  · exact fun t q => (service_vacate _ q).trans rfl
  · exact fun t q => t.service_rebind q

/-- The contexts of a partition stop and its queues are Fenced, before STATE becomes Fenced (R249). -/
theorem partFence_eq (p : Nat) (h : s.partState p = 1 ∨ s.partState p = 2) :
    ∃ u : State, u.service = s.service ∧ s.partFence p = u.setPartState p 3 (fieldOf (u.pcfg p) 0 1) := by
  have hgo : ¬ (s.partState p ≠ 1 ∧ s.partState p ≠ 2) := by omega
  unfold partFence
  rw [if_neg hgo]
  refine ⟨_, ?_, rfl⟩
  rw [foldl_keeps service, foldl_keeps service]
  · exact fun t x => t.service_stopCtx x
  · exact fun _ _ => rfl

theorem partFence_idle (p : Nat) (h : ¬ (s.partState p = 1 ∨ s.partState p = 2)) : s.partFence p = s := if_pos (by omega)

theorem partState_congr {s t : State} (h : t.service.parts = s.service.parts) (p : Nat) : t.partState p = s.partState p := by
  have hparts : t.parts = s.parts := h
  rw [partState, partState, pcfg, pcfg, hparts]

theorem partState_setPartState (p st en r : Nat) (h : st < 4) :
    (s.setPartState p st en).partState r = if r = p then st else s.partState r := by
  have hget : (s.setPartState p st en).pcfg r = if r = p then setField (setField (s.pcfg p) 2 2 st) 0 1 en else s.pcfg r := SMap.get_set ..
  rw [partState, hget]
  split
  · rw [fieldOf_setField_apart _ _ (by decide) (.inr (by decide)), fieldOf_setField_self _ (by decide) h]
  · rfl

/-- A fence of a partition leaves the dies as they stand. -/
theorem partFence_keeps (p : Nat) : (s.partFence p).service = { s.service with parts := (s.partFence p).parts } := by
  by_cases h : s.partState p = 1 ∨ s.partState p = 2
  · obtain ⟨u, hu, ht⟩ := s.partFence_eq p h
    rw [ht, ← hu]; rfl
  · rw [s.partFence_idle p h]; rfl

theorem partState_partFence (p r : Nat) :
    (s.partFence p).partState r = if r = p ∧ (s.partState p = 1 ∨ s.partState p = 2) then 3 else s.partState r := by
  by_cases h : s.partState p = 1 ∨ s.partState p = 2
  · obtain ⟨u, hu, ht⟩ := s.partFence_eq p h
    rw [ht, partState_setPartState _ _ _ _ _ (by decide), partState_congr (congrArg Service.parts hu)]
    simp [h]
  · rw [s.partFence_idle p h, if_neg fun hx => h hx.2]

theorem partFenceAll_keeps (l : List Nat) :
    (l.foldl partFence s).service = { s.service with parts := (l.foldl partFence s).parts } := by
  induction l generalizing s with
  | nil => rfl
  | cons p l ih => rw [List.foldl_cons, ih, partFence_keeps]

theorem partState_partFenceAll_of_fenced (l : List Nat) {r : Nat} (h : s.partState r = 3) : (l.foldl partFence s).partState r = 3 := by
  induction l generalizing s with
  | nil => exact h
  | cons p l ih =>
    refine ih _ ?_
    rw [partState_partFence]
    split
    · rfl
    · exact h

/-- Every partition of a list that is Enabled or Draining becomes Fenced. -/
theorem partState_partFenceAll {l : List Nat} {r : Nat} (hr : r ∈ l) (h : s.partState r = 1 ∨ s.partState r = 2) :
    (l.foldl partFence s).partState r = 3 := by
  induction l generalizing s with
  | nil => cases hr
  | cons p l ih =>
    rw [List.foldl_cons]
    by_cases hp : r = p
    · subst hp
      exact partState_partFenceAll_of_fenced _ l (by rw [partState_partFence, if_pos ⟨rfl, h⟩])
    · have hkeep : (s.partFence p).partState r = s.partState r := by rw [partState_partFence, if_neg fun hx => hp hx.1]
      exact ih _ (List.mem_of_ne_of_mem hp hr) (by rw [hkeep]; exact h)

/-! ### A fenced die (R469) -/

/-- The partitions with a context on a die. -/
def partsOn (d : Nat) : List Nat := ((s.ctxs.filter fun e => s.ctxOnDie e.1 d).map fun e => partOf e.1).eraseDups

/-- A die under self-test, before its partitions, its socket and its ports follow. -/
def fencing (d : Nat) : State := (s.modDie d fun y => { y with phase := .fenced false }).postPf (BitVec.ofNat 64 d) 0xE006 0

theorem service_fencing (d : Nat) :
    (s.fencing d).service = { s.service with phase := withDie s.service.phase d (.fenced false) } := by
  rw [fencing, service_postPf, service_modDie_eq _ rfl]
  exact Service.ext rfl rfl (withDie_self s.service.sock d) rfl

/-- A die whose partitions are fenced, and then its socket. -/
def fencedParts (d : Nat) : State := (s.partsOn d).foldl partFence (s.fencing d)
def fencedSock (d : Nat) : State := (s.fencedParts d).guestFence d ((Config.freeWord (s.fencedParts d).free).toNat % 256) 0

/-- The order of a die fence: the partitions, the socket, the ports. -/
theorem dieFence_eq {d : Nat} (hd : d < 8) (hrun : (s.die d).phase = .run) :
    s.dieFence d = (List.range 6).foldl (fun t p => t.contain d p) { s.fencedSock d with free := (s.fencedSock d).free + 1 } := by
  have hgo : (s.dieFenced d || decide (8 ≤ d)) = false := by simp [dieFenced, hrun, hd]
  rw [dieFence, hgo, if_neg Bool.false_ne_true]
  rfl

theorem ctxOnDie_iff {d x : Nat} {c : Ctx} (hc : s.ctx? x = some c) :
    s.ctxOnDie x d = true ↔ (∃ g ∈ c.gangs, dieOfSeq g.seq = d) ∨ dramDie c.pageLoc = d := by
  simp [ctxOnDie, hc]

theorem mem_partsOn {d x : Nat} {c : Ctx} (hc : s.ctx? x = some c) (h : (∃ g ∈ c.gangs, dieOfSeq g.seq = d) ∨ dramDie c.pageLoc = d) :
    partOf x ∈ s.partsOn d := by
  have hmem : (x, some c) ∈ s.ctxs := SMap.mem_of_get (Option.some_ne_none c) hc
  rw [partsOn, List.mem_eraseDups, List.mem_map]
  exact ⟨(x, some c), List.mem_filter.2 ⟨hmem, (s.ctxOnDie_iff hc).2 h⟩, rfl⟩

theorem service_fencedParts (d : Nat) :
    (s.fencedParts d).service =
      { s.service with parts := (s.fencedParts d).parts, phase := withDie s.service.phase d (.fenced false) } := by
  rw [fencedParts, partFenceAll_keeps, service_fencing]

/-- The phases, the partitions and the ports that a die fence leaves before it turns to the ports, and the socket of the die. -/
theorem fencedSock_effect (d : Nat) :
    (s.fencedSock d).service.parts = (s.fencedParts d).service.parts ∧ (s.fencedSock d).service.port = s.service.port ∧
    (s.fencedSock d).service.phase = withDie s.service.phase d (.fenced false) ∧
    ((s.die d).sock.phase = .up → (s.fencedSock d).service.sock d = (.fenced, [])) := by
  have hparts := s.service_fencedParts d
  have hsock : (s.fencedParts d).service.sock d = s.service.sock d := by rw [hparts]
  have hphase : ((s.fencedParts d).die d).sock.phase = (s.die d).sock.phase := congrArg Prod.fst hsock
  by_cases hup : (s.die d).sock.phase = .up
  · rw [fencedSock, guestFence_up _ _ _ (hphase.trans hup), hparts]
    exact ⟨rfl, rfl, rfl, fun _ => if_pos rfl⟩
  · have hidle : ((s.fencedParts d).die d).sock.phase ≠ .up := fun h => hup (hphase.symm.trans h)
    rw [fencedSock, guestFence_idle _ _ _ hidle, hparts]
    exact ⟨rfl, rfl, rfl, fun h => absurd h hup⟩

end State

theorem evDieFence : Claims.evDieFence := by
  intro s d e hd hrun he
  have hexec : exec e s = .next (s.dieFence d) := by
    obtain rfl | rfl := he <;> rfl
  refine ⟨_, hexec, ?_⟩
  let v : State := { s.fencedSock d with free := (s.fencedSock d).free + 1 }
  have ht : s.dieFence d = (List.range 6).foldl (fun t p => t.contain d p) v := s.dieFence_eq hd hrun
  obtain ⟨hparts, hphase, hsock⟩ := v.containAll_keeps d (List.range 6)
  rw [← ht] at hparts hphase hsock
  obtain ⟨hvparts, hvport, hvphase, hvsock⟩ := s.fencedSock_effect d
  have hphases (f : Nat) : ((s.dieFence d).die f).phase = if f = d then .fenced false else (s.die f).phase :=
    congrFun (hphase.trans hvphase) f
  have hfenced : ((s.dieFence d).die d).phase = .fenced false := (hphases d).trans (if_pos rfl)
  refine ⟨?_, hfenced, fun x c hc hon hst => ?_, fun hup => ?_, fun p hp hon => ?_, fun f hf => ?_⟩
  · rw [State.present, hfenced]
  · have hstate (r : Nat) : (s.fencing d).partState r = s.partState r := State.partState_congr (by rw [State.service_fencing]) r
    rw [State.partState_congr (hparts.trans hvparts)]
    exact State.partState_partFenceAll _ (s.mem_partsOn hc hon) (by rw [hstate]; exact hst)
  · have h := (congrFun hsock d).trans (hvsock hup)
    exact ⟨congrArg Prod.fst h, congrArg Prod.snd h⟩
  · have hserve : (s.port d p).serving = true := by simpa [Port.serving] using hon
    have hv : (v.port d p).serving = true := (State.serving_of_port_eq (congrFun (congrFun hvport d) p)).trans hserve
    have h := v.port_containAll (List.mem_range.2 hp) hv
    rw [← ht] at h
    exact ⟨congrArg Prod.fst h, congrArg Prod.snd h⟩
  · exact (hphases f).trans (if_neg hf)

end Sys2Proof.Machine
end

section
/-! ## Fenced gangs (R343, R348, R469) -/

namespace Sys2Proof.Machine

/-- A gang that has left its context (R343). -/
def Ctx.withRetired (c : Ctx) (g : Nat) : Ctx := if c.retired.contains g then c else { c with retired := c.retired ++ [g] }

theorem Ctx.withRetired_frame (c : Ctx) (g : Nat) : (c.withRetired g).group = c.group ∧ g ∈ (c.withRetired g).retired := by
  unfold withRetired
  split
  · next h => exact ⟨rfl, List.contains_iff_mem.1 h⟩
  · exact ⟨rfl, by simp⟩

/-- A core whose queues are discarded as its gang is fenced (R348). -/
def Core.discarded (k : Core) : Core := { k with rcvq := [], pp := { k.pp with lq := [], fresh := [], post := [], fed := [] } }

namespace State

variable (s : State)

theorem paired_congr {s t : State} (h : t.dies = s.dies) (q : Nat) : t.paired q = s.paired q := by
  simp only [paired, dctl_congr h]

theorem allCores_congr {s t : State} {q : Nat} (hd : t.dies = s.dies) (hg : t.gang q = s.gang q) : t.allCores q = s.allCores q := by
  simp only [allCores, paired_congr hd, hg]

theorem gang_subset_allCores {q b : Nat} (h : b ∈ s.gang q) : b ∈ s.allCores q := by
  unfold allCores
  split
  · exact List.mem_append_left _ h
  · exact h

theorem boundGang_congr {s t : State} (h : t.dies = s.dies) (q : Nat) : t.boundGang q = s.boundGang q := by
  simp only [boundGang, cbind, lostCore, dctl_congr h]

theorem rankPair_frame (q : Nat) (g : List Nat) :
    (s.rankPair q g).dies = s.dies ∧ (s.rankPair q g).ctxs = s.ctxs ∧ (s.rankPair q g).seqs = s.seqs := by
  unfold rankPair
  dsimp only
  split
  · rw [rankGang, rankGang, rankCores_eq, rankCores_eq]; exact ⟨rfl, rfl, rfl⟩
  · rw [rankGang, rankCores_eq]; exact ⟨rfl, rfl, rfl⟩

/-- A package without siblings, of which a gang is the one that CBIND gives: to dissolve the gang is to count its ranks anew. -/
theorem dissolve_alone {q : Nat} (hnone : ∀ r < 320, (s.seq r).parent = none) :
    s.dissolve q = (s.modSeq q fun y => { y with gang := s.boundGang q, sibs := [] }).rankPair q (s.boundGang q) := by
  have hsibs : (allSeqs.filter fun r =>
      (s.seq r).parent.isSome && (s.seq r).ctx == (s.seq q).ctx && creelOfSeq r == creelOfSeq q) = [] := by
    rw [List.filter_eq_nil_iff]
    intro r hr
    simp [hnone r (List.mem_range.1 hr)]
  rw [dissolve, hsibs]
  rfl

theorem dissolve_frame {q : Nat} (hnone : ∀ r < 320, (s.seq r).parent = none) (hb : s.boundGang q = s.gang q) :
    (s.dissolve q).dies = s.dies ∧ (s.dissolve q).ctxs = s.ctxs ∧ (∀ r, r ≠ q → (s.dissolve q).seq r = s.seq r) ∧
    (s.dissolve q).gang q = s.gang q := by
  rw [dissolve_alone s hnone, hb]
  obtain ⟨hdies, hctxs, hseqs⟩ := (s.modSeq q fun y => { y with gang := s.gang q, sibs := [] }).rankPair_frame q (s.gang q)
  refine ⟨hdies, hctxs, fun r hr => ?_, ?_⟩
  · rw [seq_congr hseqs, seq_modSeq, if_neg hr]
  · rw [gang, seq_congr hseqs, seq_modSeq_self]

/-- What cores that lose their stream still have in flight reads nothing and writes no register (R348). -/
theorem abandon_flights (cs : List Nat) :
    ∀ f ∈ (s.abandon cs).flights, f.core ∈ cs → f.op.reads = false ∧ f.dest = none := by
  intro f hf hc
  simp only [abandon, List.mem_map, List.mem_filter, Bool.and_eq_true, Bool.not_eq_true'] at hf
  obtain ⟨g, ⟨-, hkeep, -⟩, rfl⟩ := hf
  by_cases hg : cs.contains g.core = true
  · rw [if_pos hg]
    exact ⟨by simpa [List.contains_iff_mem.1 hg] using hkeep, rfl⟩
  · rw [if_neg hg] at hc
    exact absurd (List.contains_iff_mem.2 hc) hg

theorem vacate_frame (q : Nat) : (s.vacate q).ctxs = s.ctxs ∧ (s.vacate q).flights = s.flights := by
  obtain ⟨-, -, hctxs, hflights, -⟩ := s.modCores_frame (fun _ k => k.leave) (s.allCores q)
  exact ⟨hctxs, hflights⟩

theorem seq_vacate (q r : Nat) : (s.vacate q).seq r = if r = q then (s.seq q).vacate else s.seq r := by
  have h : ∀ j, (s.modCores (fun _ k => k.leave) (s.allCores q)).seq j = s.seq j := seq_congr (modCores_seqs ..)
  have hmod := (s.modCores (fun _ k => k.leave) (s.allCores q)).seq_modSeq q r Seq.vacate
  rw [h, h] at hmod
  exact hmod

theorem core_vacate (q b : Nat) : (s.vacate q).core b = if b ∈ s.allCores q then (s.core b).leave else s.core b :=
  core_modCores_idem (f := fun _ k => k.leave) (fun _ _ => rfl) s (s.allCores q) b

/-- A gang in its fence, before its group follows. -/
def fencedGang (q : Nat) : State :=
  let a := (s.postPf (BitVec.ofNat 64 (dieOfSeq q * 2 ^ 6 + creelOfSeq q % 10 * 4 + q % 4)) 0xE005 (s.ctxIdOf q)).dissolve q
  (((a.abandon (a.allCores q)).modCores (fun _ k => k.discarded) (a.allCores q)).vacate q).modSeq q fun y => { y with fenced := true }

theorem gangFence_eq {q x : Nat} (hx : (s.seq q).ctx = some x) (hp : (s.seq q).parent = none) :
    s.gangFence q = ((s.fencedGang q).groupFault x).modCtx x fun c => c.withRetired (s.seq q).gidx := by
  unfold gangFence
  dsimp only
  rw [hx, hp]
  rfl

theorem fencedGang_effect {q : Nat} (hnone : ∀ r < 320, (s.seq r).parent = none) (hb : s.boundGang q = s.gang q) :
    (s.fencedGang q).ctxs = s.ctxs ∧ (∀ r, r ≠ q → (s.fencedGang q).seq r = s.seq r) ∧
    (((s.fencedGang q).seq q).ctx = none ∧ ((s.fencedGang q).seq q).phase = .idle ∧ ((s.fencedGang q).seq q).fenced = true) ∧
    (∀ b ∈ s.gang q, ((s.fencedGang q).core b).pp = .reset ∧ ((s.fencedGang q).core b).rcvq = [] ∧
      ((s.fencedGang q).core b).me.shp = []) ∧
    ∀ f ∈ (s.fencedGang q).flights, f.core ∈ s.gang q → f.op.reads = false ∧ f.dest = none := by
  unfold fencedGang
  dsimp only
  generalize hr : s.postPf _ _ _ = r
  have hrdies : r.dies = s.dies := by simp [← hr]
  have hrseq (j : Nat) : r.seq j = s.seq j := by rw [← hr, seq_postPf]
  have hrctxs : r.ctxs = s.ctxs := by simp [← hr]
  have hrgang : r.gang q = s.gang q := congrArg Seq.gang (hrseq q)
  obtain ⟨hdies, hctxs, hseq, hgang⟩ := r.dissolve_frame (q := q) (fun j hj => by rw [hrseq]; exact hnone j hj)
    (by rw [boundGang_congr hrdies, hb, hrgang])
  generalize r.dissolve q = a at hdies hctxs hseq hgang ⊢
  have hflights := a.abandon_flights (a.allCores q)
  obtain ⟨hvseqs, hvdies, hvctxs, hvflights, -⟩ := (a.abandon (a.allCores q)).modCores_frame (fun _ k => k.discarded) (a.allCores q)
  generalize (a.abandon (a.allCores q)).modCores (fun _ k => k.discarded) (a.allCores q) = v at hvseqs hvdies hvctxs hvflights ⊢
  have hvseq (j : Nat) : v.seq j = a.seq j := seq_congr hvseqs j
  have hmem {b : Nat} (hb : b ∈ s.gang q) : b ∈ a.allCores q := a.gang_subset_allCores (by rw [hgang, hrgang]; exact hb)
  refine ⟨?_, fun j hj => ?_, ?_, fun b hb => ?_, fun f hf hb => ?_⟩
  · exact (v.vacate_frame q).1.trans (hvctxs.trans (hctxs.trans hrctxs))
  · rw [seq_modSeq, if_neg hj, seq_vacate, if_neg hj, hvseq, hseq j hj, hrseq]
  · rw [seq_modSeq_self, seq_vacate, if_pos rfl]
    exact ⟨rfl, rfl, rfl⟩
  · have hleft : ((v.vacate q).modSeq q fun y => { y with fenced := true }).core b = (v.core b).leave := by
      have hv : b ∈ v.allCores q := by
        rw [allCores_congr hvdies (congrArg Seq.gang (hvseq q))]
        exact hmem hb
      exact (v.core_vacate q b).trans (if_pos hv)
    rw [hleft]
    exact ⟨rfl, rfl, rfl⟩
  · have hfv : f ∈ (v.vacate q).flights := hf
    rw [(v.vacate_frame q).2, hvflights] at hfv
    exact hflights f hfv (hmem hb)

theorem mem_streams_iff {x r : Nat} :
    r ∈ s.streams x ↔ r < 320 ∧ (s.seq r).ctx = some x ∧ (s.seq r).phase ≠ .retired ∧ (s.seq r).phase ≠ .idle := by
  simp [streams, allSeqs, and_assoc]

/-- What the parity of a core fences: the gang of the lowest sequencer that has it. -/
theorem coreParity_eq {q x k : Nat} (hq : q < 320) (hx : (s.seq q).ctx = some x) (hk : k ∈ s.allCores q)
    (hlow : ∀ r < q, ¬ ((s.seq r).ctx ≠ none ∧ k ∈ s.allCores r)) : s.coreParity k = s.gangFence q := by
  have hfind : (allSeqs.find? fun r => (s.seq r).ctx.isSome && (s.allCores r).contains k) = some q := by
    rw [allSeqs, List.find?_range_eq_some]
    refine ⟨by simp [hx, hk], List.mem_range.2 hq, fun r hr => ?_⟩
    have h := hlow r hr
    by_cases hc : (s.seq r).ctx = none
    · simp [hc]
    · simpa [hc] using h
  rw [coreParity, hfind]

end State

theorem evCoreParity : Claims.evCoreParity := by
  intro s q x k c hq hx hk hlow hparent hc hrun hnone hb
  refine ⟨s.coreParity k, rfl, ?_⟩
  rw [s.coreParity_eq hq hx hk hlow, s.gangFence_eq hx hparent]
  obtain ⟨hctxs, hseq, ⟨hctx, hphase, hfenced⟩, hcores, hflights⟩ := s.fencedGang_effect hnone hb
  generalize s.fencedGang q = u at *
  have hq' : q ∉ u.streams x := fun h => by
    have h' := ((u.mem_streams_iff).1 h).2.1
    rw [hctx] at h'
    cases h'
  obtain ⟨f, hf, hu⟩ := u.groupFault_running (x := x) ((State.ctx?_congr hctxs x).trans hc) hrun
  obtain ⟨hvcores, -, -, hvflights, hvctxs⟩ := u.faultAll_frame (u.streams x)
  have hvseq := u.seq_faultAll_of_not_mem hq'
  have hvasync (r : Nat) (hr : r ∈ u.streams x) := u.mem_async_faultAll (.inl hr)
  rw [hu]
  generalize (u.streams x).foldl State.faultAt u = v at *
  have hflights' : ((v.modCtx x f).modCtx x fun c => c.withRetired (s.seq q).gidx).flights = u.flights := by simp [hvflights]
  have hvc (y : Nat) : v.ctx? y = s.ctx? y := State.ctx?_congr (hvctxs.trans hctxs) y
  obtain ⟨hgroup, hretired⟩ := (f c).withRetired_frame (s.seq q).gidx
  simp only [State.seq_modCtx, State.core_modCtx, hflights', hvseq, State.core_congr hvcores]
  refine ⟨(f c).withRetired (s.seq q).gidx, hctx, hphase, hfenced, hcores, hflights, ?_, hgroup.trans hf, hretired, fun y hy => ?_,
    fun r hr hne => ?_⟩
  · rw [State.ctx?_modCtx, if_pos rfl, State.ctx?_modCtx, if_pos rfl, hvc, hc]; rfl
  · rw [State.ctx?_modCtx, if_neg hy, State.ctx?_modCtx, if_neg hy, hvc]
  · refine hvasync r ((State.mem_streams_iff _).2 ?_)
    rw [hseq r hne]
    exact (State.mem_streams_iff _).1 hr

/-- Settles O52: a lost gang leaves its cores and its group Faulted, a fenced die its partitions, socket and ports; a self-test ends a
fence by what it finds; throttling follows the temperature; and the scan port runs what the life cycle admits. -/
theorem fenceEvents : Obligations.FenceEvents := ⟨evCoreParity, evDieFence, evFenceSelftest, evThrottle, evBoundaryScan⟩

end Sys2Proof.Machine
end
